-- ==== Sys2Proof/Word.lean ====
section
/-!
DEFINITION. The word types of the block and their plainest arithmetic (R9: bit 0 is the least significant bit).
-/
namespace Sys2Proof

/-- One byte. -/
abbrev Byte := BitVec 8
/-- A 32-bit word: a program counter, an instruction word, a status field. -/
abbrev W32 := BitVec 32
/-- A 64-bit register value. -/
abbrev W64 := BitVec 64
/-- A 48-bit block address (R176, R203). -/
abbrev W48 := BitVec 48

/-- A Boolean as a bit of a 64-bit word. -/
def bit64 (b : Bool) : W64 := if b then 1 else 0

end Sys2Proof
end

