-- ==== Sys2Proof/Syntax.lean ====
section
/-!
DEFINITION. The commands the block takes, one constructor for each row of the opcode table, and their operands.
A Natuta command names the Ferry that executes it and the operand fields of its word (R207), reserved fields included, so
that every encoding of its row is a term (R208); an event names what its happening is about, and what the outside world
brings with it (a frame, a sample, a value on a pin).
-/
namespace Sys2Proof

/-- Number of a Ferry, 0 to 255: Ferry f belongs to Span f / 16 (R17). -/
abbrev FerryNo := Fin 256
/-- Number of a Berth, 0 to 1,023: Berth b belongs to Span b / 64 (R295). -/
abbrev BerthNo := Fin 1024
/-- Number of a Span, 0 to 15. -/
abbrev SpanNo := Fin 16
/-- Number of a Slipway session, 0 to 1,023 (R313). -/
abbrev SessNo := Fin 1024

/-- The two worlds (R236). -/
inductive World where
  /-- The South bank, world bit 0. -/
  | south
  /-- The North bank, world bit 1. -/
  | north
  deriving DecidableEq, Repr

/-- Who makes a register access (R467, R474, R392). -/
inductive WSrc where
  /-- The host, at the control port. -/
  | host
  /-- The debugger, at the Gangway. -/
  | gangway
  /-- South-bank firmware of a Span. -/
  | fwSouth (sp : SpanNo)
  /-- North-bank firmware of a Span. -/
  | fwNorth (sp : SpanNo)
  /-- A mirrored write that arrived on the Viaduct: of the Lead's host, or of its firmware in a world (true for North) of a Span. -/
  | viaduct (fw : Option (Bool × SpanNo))
  deriving DecidableEq, Repr

/-- The five engines that take descriptors (R228): four units and the Tender. -/
inductive Engine where
  /-- The Truss. -/
  | truss
  /-- The Seal unit. -/
  | sealU
  /-- The compression unit. -/
  | cmpr
  /-- The Hash unit. -/
  | hash
  /-- The Tender. -/
  | tender
  deriving DecidableEq, Repr

/-- A microsequenced engine: a Ferry or a Span's Pilot (R259). -/
inductive EngineNo where
  /-- Ferry f. -/
  | ferry (f : FerryNo)
  /-- The Pilot of a Span. -/
  | pilot (sp : SpanNo)
  deriving DecidableEq, Repr

/-- What a visit of the background test to a memory row finds (R294, R328). -/
structure RowTest where
  /-- The row's cells fail the test. -/
  fail : Bool
  /-- The bits that storage errors have flipped since the visit before: the word, counted from the start of the memory, and the place
  of the bit in it. A wrong bit is first seen by whoever next reads its word, the test among them. -/
  hits : List (Nat × Nat)
  deriving DecidableEq, Repr

/-- Another access that names the same word while an access is under way (R322). -/
structure Meeting where
  /-- The access itself is a write. -/
  write : Bool
  /-- The other access is a write. -/
  other : Bool
  /-- Which of the two the arbiter grants first: the access itself, the other, or neither because both request in the same
  arbitration. -/
  first : Option Bool
  /-- For a read of eight bytes: those bytes on the other side of the write that it meets. -/
  bytes : BitVec 64
  deriving DecidableEq, Repr

/-- What a staging read beat answers (R411, R413). -/
inductive BeatFor where
  /-- The unfinished read of a tag. -/
  | read (tag : Byte)
  /-- The unfinished read of a tag, made by a Pilot landing. -/
  | landing (tag : Byte)
  /-- No unfinished read: no read of the port bears its RTAG. -/
  | stray
  deriving DecidableEq, Repr

/-- A staging port whose RST_N falls, and how many beats of its unfinished reads are missing then (R416). -/
structure PortCut where
  /-- The port. -/
  port : BitVec 4
  /-- The beats. -/
  cut : Nat
  deriving DecidableEq, Repr

/-- A read at the control port (R420, R484). -/
inductive HostRead where
  /-- A take of the register at an offset. -/
  | take (off : Nat)
  /-- A peek, with CP_PEEK = 1. -/
  | peek (off : Nat)
  deriving DecidableEq, Repr

/-- The session of a Slipway frame, and its protocol (R315, R409). -/
structure SlipHead where
  /-- The session. -/
  session : SessNo
  /-- The protocol. -/
  proto : Byte
  deriving DecidableEq, Repr

/-- A master whose access may receive BUSY (R323, R324). -/
inductive MasterNo where
  /-- Ferry f. -/
  | ferry (f : FerryNo)
  /-- A unit or the Tender of a Span. -/
  | engine (sp : SpanNo) (e : Engine)
  /-- A Span's Pilot landing. -/
  | landing (sp : SpanNo)
  /-- The Viaduct engine. -/
  | viaduct
  /-- The Gangway. -/
  | gangway
  deriving DecidableEq, Repr

/-- A counter outside the Berths (R501). -/
inductive CounterNo where
  /-- Block counter k. -/
  | block (k : Fin 8)
  /-- Counter k of a Span. -/
  | span (sp : SpanNo) (k : Fin 8)
  deriving DecidableEq, Repr

/-- The guard of an instruction word: predicate gp, negated when gn is set (R174). -/
structure Guard where
  /-- Guard predicate, bits [31:29]. -/
  gp : BitVec 3
  /-- Negation of the guard, bit [28]. -/
  gn : Bool
  deriving DecidableEq, Repr

/-- Operands of layout A (R207). -/
structure LA where
  /-- The guard. -/
  g : Guard
  /-- Field rd. -/
  rd : BitVec 5
  /-- Field ra. -/
  ra : BitVec 5
  /-- Field rb. -/
  rb : BitVec 5
  /-- The flag bit. -/
  f : Bool
  deriving DecidableEq, Repr

/-- Operands of layout A.p (R207). -/
structure LAp where
  /-- The guard. -/
  g : Guard
  /-- First predicate destination. -/
  pd : BitVec 3
  /-- Second predicate destination. -/
  pe : BitVec 3
  /-- Field ra. -/
  ra : BitVec 5
  /-- Field rb. -/
  rb : BitVec 5
  /-- The condition. -/
  cond : BitVec 6
  deriving DecidableEq, Repr

/-- Operands of layout A.l (R207). -/
structure LAl where
  /-- The guard. -/
  g : Guard
  /-- First predicate destination. -/
  pd : BitVec 3
  /-- Second predicate destination. -/
  pe : BitVec 3
  /-- First predicate source. -/
  pa : BitVec 3
  /-- Negation of the first source. -/
  na : Bool
  /-- Second predicate source. -/
  pb : BitVec 3
  /-- Negation of the second source. -/
  nb : Bool
  /-- The reserved field. -/
  res : BitVec 2
  deriving DecidableEq, Repr

/-- Operands of layout I (R207). -/
structure LI where
  /-- The guard. -/
  g : Guard
  /-- Field rd. -/
  rd : BitVec 5
  /-- Field ra. -/
  ra : BitVec 5
  /-- The flag bit. -/
  f : Bool
  /-- The immediate. -/
  imm : BitVec 11
  deriving DecidableEq, Repr

/-- Operands of layout I.h (R207). -/
structure LIh where
  /-- The guard. -/
  g : Guard
  /-- Field rd. -/
  rd : BitVec 5
  /-- Field ra. -/
  ra : BitVec 5
  /-- The flag bit. -/
  f : Bool
  /-- The reserved field. -/
  res : BitVec 2
  /-- The shift amount. -/
  sh : BitVec 6
  deriving DecidableEq, Repr

/-- Operands of layout I.p (R207). -/
structure LIp where
  /-- The guard. -/
  g : Guard
  /-- First predicate destination. -/
  pd : BitVec 3
  /-- Second predicate destination. -/
  pe : BitVec 3
  /-- Field ra. -/
  ra : BitVec 5
  /-- The condition. -/
  cond : BitVec 4
  /-- The immediate. -/
  imm : BitVec 7
  deriving DecidableEq, Repr

/-- Operands of layout I.s (R207); the mnemonic fixes dir. -/
structure LIs where
  /-- The guard. -/
  g : Guard
  /-- The general register. -/
  r : BitVec 5
  /-- The reserved field. -/
  res : BitVec 4
  /-- The system-register number. -/
  num : BitVec 12
  deriving DecidableEq, Repr

/-- Operands of layout I.s when the row fixes the system register too. -/
structure LIk where
  /-- The guard. -/
  g : Guard
  /-- The general register. -/
  r : BitVec 5
  /-- The reserved field. -/
  res : BitVec 4
  deriving DecidableEq, Repr

/-- Operands of layout M (R207). -/
structure LM where
  /-- The guard. -/
  g : Guard
  /-- Field rd. -/
  rd : BitVec 5
  /-- Field ra. -/
  ra : BitVec 5
  /-- The segment. -/
  sa : BitVec 3
  /-- The displacement. -/
  disp : BitVec 6
  deriving DecidableEq, Repr

/-- Operands of layout M.l (R207). -/
structure LMl where
  /-- The guard. -/
  g : Guard
  /-- Field rd. -/
  rd : BitVec 5
  /-- Field ra. -/
  ra : BitVec 5
  /-- The first segment. -/
  sa : BitVec 3
  /-- The second segment. -/
  sb : BitVec 3
  /-- The reserved field. -/
  res : BitVec 3
  deriving DecidableEq, Repr

/-- Operands of layout B (R207). -/
structure LB where
  /-- The guard. -/
  g : Guard
  /-- The displacement in words. -/
  disp : BitVec 22
  deriving DecidableEq, Repr

/-- Operands of layout B.l (R207). -/
structure LBl where
  /-- The guard. -/
  g : Guard
  /-- The count register. -/
  ra : BitVec 5
  /-- The reserved field. -/
  res : BitVec 5
  /-- The end field. -/
  e : BitVec 12
  deriving DecidableEq, Repr

/-- Operands of layout U (R207). -/
structure LU where
  /-- The guard. -/
  g : Guard
  /-- Field rd. -/
  rd : BitVec 5
  /-- The half selector. -/
  k : Bool
  /-- The immediate. -/
  imm : BitVec 16
  deriving DecidableEq, Repr

/-- Operands of layout S (R207). -/
structure LS where
  /-- The guard. -/
  g : Guard
  /-- Field ra. -/
  ra : BitVec 5
  /-- Field pd. -/
  pd : BitVec 3
  /-- The immediate. -/
  imm : BitVec 8
  deriving DecidableEq, Repr

/-- Operands of layout S.b (R207). -/
structure LSb where
  /-- The guard. -/
  g : Guard
  /-- The predicate field. -/
  p : BitVec 3
  /-- Field ra. -/
  ra : BitVec 5
  /-- The offset. -/
  off : BitVec 11
  deriving DecidableEq, Repr

/-- A frame as it arrives on the Viaduct (R376), but for its payload. -/
structure ViaHeader where
  /-- The run of beats does not fit the payload length. -/
  damaged : Bool
  /-- The header beat. -/
  hdr : List Byte
  /-- The trailer beat. -/
  trailer : List Byte
  deriving DecidableEq, Repr

/-- Number of a staging session register, 0 to 1,023. -/
abbrev SessionNo := Fin 1024

/-- The commands of the block, one constructor for each row of the opcode table. -/
inductive Instr where
  /-- NOP (R211): System NOP instruction retires with no effect. -/
  | nop (f : FerryNo) (w : W32)
  /-- FENCE (R183): Completes every earlier load, store and B-space operation of the Berth before any later one begins. -/
  | fence (f : FerryNo) (o : LS)
  /-- TFENCE (R354): Waits until no access checked under an older Tollgate epoch is outstanding. -/
  | tfence (f : FerryNo) (o : LS)
  /-- BAR (R212): The Berth waits at a barrier of a global group until every member arrives. -/
  | bar (f : FerryNo) (o : LS)
  /-- BCAST (R212): Writes a value to BCVAL of every member of a global group and sets their signal bits. -/
  | bcast (f : FerryNo) (o : LS)
  /-- CKPT (R388): Firmware checkpoint of the Berth, sent to the Mirror when paired. -/
  | ckpt (f : FerryNo) (o : LS)
  /-- WAIT (R212): The Berth waits until a B-space bit is 1. -/
  | wait (f : FerryNo) (o : LS)
  /-- WAITT (R212): WAIT on a B-space bit with an absolute deadline. -/
  | waitt (f : FerryNo) (o : LS)
  /-- TRAP (R250): Traps to the Berth's own supervisor, or passes a gate to the other world. -/
  | trap (f : FerryNo) (o : LS)
  /-- RETX (R246): Returns from the exception frame at G30 after checking it. -/
  | retx (f : FerryNo) (o : LS)
  /-- SLACK (R256): Opens slack water. -/
  | slack (f : FerryNo) (o : LS)
  /-- SLACKEND (R256): Closes slack water. -/
  | slackend (f : FerryNo) (o : LS)
  /-- HALT (R212): Makes the Berth idle, frees its Ferry and raises the Berth's event. -/
  | haltI (f : FerryNo) (o : LS)
  /-- ADD (R213): Register addition. -/
  | add (f : FerryNo) (o : LA)
  /-- SUB (R213): Register subtraction. -/
  | sub (f : FerryNo) (o : LA)
  /-- NEG (R213): Negation of a register. -/
  | neg (f : FerryNo) (o : LA)
  /-- ADC (R213): Addition with carry. -/
  | adc (f : FerryNo) (o : LA)
  /-- SBC (R213): Subtraction with carry. -/
  | sbc (f : FerryNo) (o : LA)
  /-- AND (R213): Bitwise and. -/
  | andR (f : FerryNo) (o : LA)
  /-- OR (R213): Bitwise or. -/
  | orR (f : FerryNo) (o : LA)
  /-- XOR (R213): Bitwise exclusive or. -/
  | xorR (f : FerryNo) (o : LA)
  /-- ANDN (R213): And with the complement. -/
  | andn (f : FerryNo) (o : LA)
  /-- NOR (R213): Bitwise nor. -/
  | nor (f : FerryNo) (o : LA)
  /-- SHL (R197): Logical left shift by a register amount. -/
  | shl (f : FerryNo) (o : LA)
  /-- SHR (R197): Logical right shift by a register amount. -/
  | shr (f : FerryNo) (o : LA)
  /-- SAR (R197): Arithmetic right shift by a register amount. -/
  | sar (f : FerryNo) (o : LA)
  /-- ROR (R197): Rotate right by a register amount. -/
  | ror (f : FerryNo) (o : LA)
  /-- MUL (R195): Low 64 bits of a product. -/
  | mul (f : FerryNo) (o : LA)
  /-- MULH (R213): High 64 bits of a signed product. -/
  | mulh (f : FerryNo) (o : LA)
  /-- MULHU (R213): High 64 bits of an unsigned product. -/
  | mulhu (f : FerryNo) (o : LA)
  /-- DIV (R196): Signed quotient with the defined edge cases. -/
  | div (f : FerryNo) (o : LA)
  /-- DIVU (R196): Unsigned quotient. -/
  | divu (f : FerryNo) (o : LA)
  /-- REM (R196): Signed remainder. -/
  | rem (f : FerryNo) (o : LA)
  /-- REMU (R196): Unsigned remainder. -/
  | remu (f : FerryNo) (o : LA)
  /-- MIN (R213): Signed minimum. -/
  | min (f : FerryNo) (o : LA)
  /-- MAX (R213): Signed maximum. -/
  | max (f : FerryNo) (o : LA)
  /-- MINU (R213): Unsigned minimum. -/
  | minu (f : FerryNo) (o : LA)
  /-- MAXU (R213): Unsigned maximum. -/
  | maxu (f : FerryNo) (o : LA)
  /-- CLZ (R213): Count of leading zero bits. -/
  | clz (f : FerryNo) (o : LA)
  /-- POPC (R213): Count of one bits. -/
  | popc (f : FerryNo) (o : LA)
  /-- BSWAP (R213): Reverses the byte order of a register. -/
  | bswap (f : FerryNo) (o : LA)
  /-- ADDI (R214): Addition of a signed immediate. -/
  | addi (f : FerryNo) (o : LI)
  /-- ANDI (R214): And with a signed immediate. -/
  | andi (f : FerryNo) (o : LI)
  /-- ORI (R214): Or with an unsigned immediate. -/
  | ori (f : FerryNo) (o : LI)
  /-- SHLI (R214): Logical left shift by an immediate. -/
  | shli (f : FerryNo) (o : LIh)
  /-- SHRI (R214): Logical right shift by an immediate. -/
  | shri (f : FerryNo) (o : LIh)
  /-- SARI (R214): Arithmetic right shift by an immediate. -/
  | sari (f : FerryNo) (o : LIh)
  /-- RORI (R214): Rotate right by an immediate. -/
  | rori (f : FerryNo) (o : LIh)
  /-- MOVL (R215): Places a 16-bit immediate in the low half of a register. -/
  | movl (f : FerryNo) (o : LU)
  /-- MOVH (R215): Places a 16-bit immediate in the high half of a register. -/
  | movh (f : FerryNo) (o : LU)
  /-- CMP (R216): Register compare writing two predicates. -/
  | cmp (f : FerryNo) (o : LAp)
  /-- CMPI (R216): Immediate compare writing two predicates. -/
  | cmpi (f : FerryNo) (o : LIp)
  /-- PAND (R217): Predicate and. -/
  | pand (f : FerryNo) (o : LAl)
  /-- POR (R217): Predicate or. -/
  | por (f : FerryNo) (o : LAl)
  /-- PXOR (R217): Predicate exclusive or. -/
  | pxor (f : FerryNo) (o : LAl)
  /-- PMOV (R217): Predicate move. -/
  | pmov (f : FerryNo) (o : LAl)
  /-- LD_B (R219): Loads 1 byte, zero-extended. -/
  | ldB (f : FerryNo) (o : LM)
  /-- LD_H (R219): Loads 2 bytes, zero-extended. -/
  | ldH (f : FerryNo) (o : LM)
  /-- LD_W (R219): Loads 4 bytes, zero-extended. -/
  | ldW (f : FerryNo) (o : LM)
  /-- LD_D (R219): Loads 8 bytes. -/
  | ldD (f : FerryNo) (o : LM)
  /-- LD_BS (R219): Loads 1 byte, sign-extended. -/
  | ldBs (f : FerryNo) (o : LM)
  /-- LD_HS (R219): Loads 2 bytes, sign-extended. -/
  | ldHs (f : FerryNo) (o : LM)
  /-- LD_WS (R219): Loads 4 bytes, sign-extended. -/
  | ldWs (f : FerryNo) (o : LM)
  /-- ST_B (R219): Stores 1 byte. -/
  | stB (f : FerryNo) (o : LM)
  /-- ST_H (R219): Stores 2 bytes. -/
  | stH (f : FerryNo) (o : LM)
  /-- ST_W (R219): Stores 4 bytes. -/
  | stW (f : FerryNo) (o : LM)
  /-- ST_D (R219): Stores 8 bytes. -/
  | stD (f : FerryNo) (o : LM)
  /-- ST_DU (R182): Unlock store that ends a LOCK hold. -/
  | stDu (f : FerryNo) (o : LM)
  /-- LDW_16 (R220): Wide load of 16 bytes into a register pair. -/
  | ldw16 (f : FerryNo) (o : LM)
  /-- LDW_32 (R220): Wide load of 32 bytes into four registers. -/
  | ldw32 (f : FerryNo) (o : LM)
  /-- LDW_64 (R220): Wide load of 64 bytes into eight registers. -/
  | ldw64 (f : FerryNo) (o : LM)
  /-- STW_16 (R220): Wide store of 16 bytes. -/
  | stw16 (f : FerryNo) (o : LM)
  /-- STW_32 (R220): Wide store of 32 bytes. -/
  | stw32 (f : FerryNo) (o : LM)
  /-- STW_64 (R220): Wide store of 64 bytes. -/
  | stw64 (f : FerryNo) (o : LM)
  /-- LOCK (R182): Loads an aligned word and holds its Pontoon word. -/
  | lock (f : FerryNo) (o : LM)
  /-- SWAP (R181): Atomic exchange of an 8-byte word. -/
  | swap (f : FerryNo) (o : LM)
  /-- CAS (R181): Atomic compare and swap of an 8-byte word. -/
  | cas (f : FerryNo) (o : LM)
  /-- MOVB (R191): Resumable block copy, granule by granule. -/
  | movb (f : FerryNo) (o : LMl)
  /-- FILL (R191): Resumable fill of a buffer with a pattern. -/
  | fill (f : FerryNo) (o : LMl)
  /-- CRC64 (R193): Resumable CRC-64 update over a buffer. -/
  | crc64 (f : FerryNo) (o : LMl)
  /-- BSET (R222): Sets a B-space bit. -/
  | bset (f : FerryNo) (o : LSb)
  /-- BCLR (R222): Clears a B-space bit. -/
  | bclr (f : FerryNo) (o : LSb)
  /-- BINV (R222): Inverts a B-space bit. -/
  | binv (f : FerryNo) (o : LSb)
  /-- BTST (R222): Copies a B-space bit to a predicate. -/
  | btst (f : FerryNo) (o : LSb)
  /-- BMOV (R222): Copies a predicate to a B-space bit. -/
  | bmov (f : FerryNo) (o : LSb)
  /-- BTAS (R185): Atomic test and set of a B-space bit. -/
  | btas (f : FerryNo) (o : LSb)
  /-- BSCAN (R194): Resumable search for the first set B-space bit. -/
  | bscan (f : FerryNo) (o : LSb)
  /-- BR (R223): PC-relative branch. -/
  | br (f : FerryNo) (o : LB)
  /-- CALL (R223): PC-relative call writing G31. -/
  | call (f : FerryNo) (o : LB)
  /-- JR (R223): Jump to a register. -/
  | jr (f : FerryNo) (o : LA)
  /-- RET (R223): Return to G31. -/
  | ret (f : FerryNo) (o : LA)
  /-- CALLR (R223): Call through a register. -/
  | callr (f : FerryNo) (o : LA)
  /-- LOOP (R186): Opens a hardware loop level. -/
  | loop (f : FerryNo) (o : LBl)
  /-- MTSB (R226): Writes a segment base. -/
  | mtsb (f : FerryNo) (o : LA)
  /-- MTSA (R226): Writes a segment attribute, judged under R179. -/
  | mtsa (f : FerryNo) (o : LA)
  /-- MFSB (R226): Reads a segment base. -/
  | mfsb (f : FerryNo) (o : LA)
  /-- MFSA (R226): Reads a segment attribute. -/
  | mfsa (f : FerryNo) (o : LA)
  /-- MFSR (R227): Reads a system register. -/
  | mfsr (f : FerryNo) (o : LIs)
  /-- MTSR (R227): Writes a system register that has no row of its own. -/
  | mtsr (f : FerryNo) (o : LIs)
  /-- INT_SOFT (R254): A write to INT_SOFT sets INT_PEND.soft. -/
  | intSoft (f : FerryNo) (o : LIk)
  /-- WDOG_KICK (R257): Reloads the Berth watchdog from WDOG_LIM. -/
  | wdogKick (f : FerryNo) (o : LIk)
  /-- BWDOG_KICK (R499): North write that reloads the block watchdog. -/
  | bwdogKick (f : FerryNo) (o : LIk)
  /-- FERRY_CTL (R249): North write of refloat starts the refloat of the selected aground Ferry. -/
  | ferryCtl (f : FerryNo) (o : LIk)
  /-- TRUSS (R228): Issues a Truss descriptor and waits for acceptance. -/
  | truss (f : FerryNo) (o : LM)
  /-- TRUSS_W (R228): Issues a Truss descriptor and waits for the done bit. -/
  | trussW (f : FerryNo) (o : LM)
  /-- SEAL (R228): Issues a Seal descriptor and waits for acceptance. -/
  | sealU (f : FerryNo) (o : LM)
  /-- SEAL_W (R228): Issues a Seal descriptor and waits for the done bit. -/
  | sealUW (f : FerryNo) (o : LM)
  /-- CMPR (R228): Issues a compression descriptor and waits for acceptance. -/
  | cmpr (f : FerryNo) (o : LM)
  /-- CMPR_W (R228): Issues a compression descriptor and waits for the done bit. -/
  | cmprW (f : FerryNo) (o : LM)
  /-- HASH (R228): Issues a Hash descriptor and waits for acceptance. -/
  | hash (f : FerryNo) (o : LM)
  /-- HASH_W (R228): Issues a Hash descriptor and waits for the done bit. -/
  | hashW (f : FerryNo) (o : LM)
  /-- XFER (R228): Issues a Tender descriptor and waits for acceptance. -/
  | xfer (f : FerryNo) (o : LM)
  /-- XFER_W (R228): Issues a Tender descriptor and waits for the done bit. -/
  | xferW (f : FerryNo) (o : LM)
  /-- KEY_INFO (R229): Returns a Keystone slot's metadata. -/
  | keyInfo (f : FerryNo) (o : LA)
  /-- KEY_IMPORT (R110): Unwraps a blob into an empty Keystone slot. -/
  | keyImport (f : FerryNo) (o : LA)
  /-- KEY_EXPORT (R111): Writes a slot's key as a wrapped blob. -/
  | keyExport (f : FerryNo) (o : LA)
  /-- KEY_GEN (R111): Fills an empty slot with a fresh key from the DRBG. -/
  | keyGen (f : FerryNo) (o : LA)
  /-- KEY_ERASE (R114): Erases a vault, shelf integrity or ephemeral slot. -/
  | keyErase (f : FerryNo) (o : LA)
  /-- KEY_ISSUE (R117): Issues a ticket for a slot to a Berth. -/
  | keyIssue (f : FerryNo) (o : LA)
  /-- KEY_REVOKE (R118): Frees a live ticket entry. -/
  | keyRevoke (f : FerryNo) (o : LA)
  /-- KEY_QUERY (R229): Returns the fields of a live ticket. -/
  | keyQuery (f : FerryNo) (o : LA)
  /-- PK_PUBKEY (R138): Writes the device identity public keys. -/
  | pkPubkey (f : FerryNo) (o : LA)
  /-- PK_RECEIPT (R136): Signs an object receipt with both identity keys. -/
  | pkReceipt (f : FerryNo) (o : LA)
  /-- PK_SHRED (R134): Signs a shred receipt from a slot's erase record. -/
  | pkShred (f : FerryNo) (o : LA)
  /-- PK_VERIFY_MLDSA (R138): ML-DSA-65 signature verification. -/
  | pkVerifyMldsa (f : FerryNo) (o : LA)
  /-- PK_VERIFY_ECDSA (R138): ECDSA P-384 signature verification. -/
  | pkVerifyEcdsa (f : FerryNo) (o : LA)
  /-- PK_KEM_GEN (R138): ML-KEM-1024 key generation into an ephemeral slot. -/
  | pkKemGen (f : FerryNo) (o : LA)
  /-- PK_KEM_ENC (R138): ML-KEM-1024 encapsulation. -/
  | pkKemEnc (f : FerryNo) (o : LA)
  /-- PK_KEM_DEC (R138): ML-KEM-1024 decapsulation. -/
  | pkKemDec (f : FerryNo) (o : LA)
  /-- PK_ECDH (R138): ECDH P-384 with a new ephemeral scalar. -/
  | pkEcdh (f : FerryNo) (o : LA)
  /-- KEY_PK_COMPLETE (R231): A KEY or PK operation completes, writes its status and the waiting Berth's instruction retires. -/
  | keyPkComplete (b : BerthNo)
  /-- RND (R232): Draws 64 bits from the DRBG into a register. -/
  | rnd (f : FerryNo) (o : LA)
  /-- YIELD (R233): The Berth gives up its Ferry and stays ready. -/
  | yield (f : FerryNo) (o : LA)
  /-- SIGNAL (R233): Sets the signal bit of another Berth of the Span. -/
  | signal (f : FerryNo) (o : LA)
  /-- POST (R312): Sends one Landing frame from the issuing Berth. -/
  | post (f : FerryNo) (o : LA) (room : Bool)
  /-- CRD (R234): Reads a counter or TICK. -/
  | crd (f : FerryNo) (o : LA)
  /-- CWR (R234): Writes a counter. -/
  | cwr (f : FerryNo) (o : LA)
  /-- CFGR (R234): Reads a counter configuration. -/
  | cfgr (f : FerryNo) (o : LA)
  /-- CFGW (R234): Writes a counter configuration. -/
  | cfgw (f : FerryNo) (o : LA)
  /-- FREEZE (R510): Stops the counters of a freeze group. -/
  | freeze (f : FerryNo) (o : LA)
  /-- THAW (R510): Restarts the counters of a freeze group. -/
  | thaw (f : FerryNo) (o : LA)
  /-- INTERRUPT_TAKEN (R253): A takeable interrupt is taken at the next instruction boundary. -/
  | interruptTaken (f : FerryNo)
  /-- SLACK_LIMIT_EXPIRY (R256): The slack-water limit passes and the window closes. -/
  | slackLimitExpiry (b : BerthNo)
  /-- BERTH_WATCHDOG_EXPIRY (R257): The Berth watchdog expires and raises cause 0x0E. -/
  | berthWatchdogExpiry (b : BerthNo)
  /-- GATE_LIMIT (R252): A gate lasts GATE_LIM ticks and cause 0x11 is raised in the callee. -/
  | gateLimit (b : BerthNo)
  /-- TIMER_CMP_REACHED (R254): The timebase count reaches TIMER_CMP and sets INT_PEND.timer. -/
  | timerCmpReached (b : BerthNo)
  /-- WAITT_DEADLINE (R212): A WAITT deadline is reached and it ends with a false predicate. -/
  | waittDeadline (b : BerthNo)
  /-- BERTH_WAKE (R296): A waiting Berth's condition is met and it becomes ready. -/
  | berthWake (b : BerthNo)
  /-- BARRIER_RELEASE (R29): The last member arrives and every member of the barrier is released. -/
  | barrierRelease (g : BitVec 4) (peer : Bool)
  /-- BERTH_DISPATCH (R302): The Pilot places the head ready Berth on the lowest free Ferry. -/
  | berthDispatch (sp : SpanNo)
  /-- QUANTUM_EXPIRY (R303): A running Berth's quantum expires and a switch-out may be requested. -/
  | quantumExpiry (f : FerryNo)
  /-- BERTH_SWITCH_OUT (R304): A requested switch-out saves the Berth at its next dispatch. -/
  | berthSwitchOut (f : FerryNo)
  /-- FERRY_HALTED (R488): A halting Ferry passes its stop point and any tail and becomes halted. -/
  | ferryHalted (f : FerryNo)
  /-- REFLOAT_COMPLETE (R280): A refloat's bare-mode bootstrap ends, clearing or keeping aground. -/
  | refloatComplete (f : FerryNo) (bad : List Nat) (exc : Option (BitVec 6))
  /-- TRUSS_NOP (R63): Truss NOP job completes with OK. -/
  | trussNop (b : BerthNo)
  /-- GEO_REG (R51): Registers a geometry descriptor in the Span's table. -/
  | geoReg (b : BerthNo)
  /-- GEO_DEL (R52): Removes a registered geometry. -/
  | geoDel (b : BerthNo)
  /-- GEO_READ (R70): Copies a registered geometry descriptor to a buffer. -/
  | geoRead (b : BerthNo)
  /-- ENC_FULL (R64): Computes all local and global parities of full rows. -/
  | encFull (b : BerthNo)
  /-- ENC_GROUP (R64): Computes the local and partial global parities of one group. -/
  | encGroup (b : BerthNo)
  /-- REP_LOCAL (R67): Rebuilds the one absent member of a group. -/
  | repLocal (b : BerthNo)
  /-- REP_GLOBAL (R66): Recovers a whole erasure pattern after the rank test. -/
  | repGlobal (b : BerthNo)
  /-- REP_TEST (R66): Runs the rank test and moves no data. -/
  | repTest (b : BerthNo)
  /-- XCODE (R68): Transcodes data cells to a target geometry and computes its parities. -/
  | xcode (b : BerthNo)
  /-- SCRUB_PAR (R69): Recomputes every parity of full rows and compares it. -/
  | scrubPar (b : BerthNo)
  /-- SCRUB_GROUP (R69): Recomputes one group's local parity and compares it. -/
  | scrubGroup (b : BerthNo)
  /-- COFFER_ACC (R93): Adds groups' contributions to open rows of a Cofferdam entry. -/
  | cofferAcc (b : BerthNo)
  /-- COFFER_FOLD (R93): Folds partial global parities into a Cofferdam entry. -/
  | cofferFold (b : BerthNo)
  /-- COFFER_RELEASE (R94): Writes the final global parity of complete rows and releases them. -/
  | cofferRelease (b : BerthNo)
  /-- COFFER_SNAP (R98): Writes a snapshot of an entry's row range. -/
  | cofferSnap (b : BerthNo)
  /-- COFFER_LOAD (R101): Restores an entry from a snapshot or opens an empty entry. -/
  | cofferLoad (b : BerthNo)
  /-- UNIT_JOB_CHANGE (R81): A unit saves a job at a boundary and resumes another under its scheduling. -/
  | unitJobChange (sp : SpanNo) (e : Engine)
  /-- SEAL_NOP (R120): Seal NOP job completes with OK. -/
  | sealNop (b : BerthNo)
  /-- SEAL_OP (R124): Encrypts data cells and adds their object and shelf tags. -/
  | sealOp (b : BerthNo)
  /-- OPEN (R125): Verifies data cells and decrypts their payloads. -/
  | openCells (b : BerthNo)
  /-- REKEY (R126): Opens cells and seals them again under the next key epoch. -/
  | rekey (b : BerthNo)
  /-- TAG_DATA (R127): Checks a data cell's header and writes its shelf tag. -/
  | tagData (b : BerthNo)
  /-- TAG_PARITY (R127): Writes the shelf tag of a parity cell. -/
  | tagParity (b : BerthNo)
  /-- CHECK_DATA (R120): Runs checks 1 to 3 of R45 on data cells. -/
  | checkData (b : BerthNo)
  /-- CHECK_PARITY (R120): Checks the shelf tag of parity cells. -/
  | checkParity (b : BerthNo)
  /-- TAG_SNAP (R99): Writes the snapshot tag of snapshot cells. -/
  | tagSnap (b : BerthNo)
  /-- CHECK_SNAP (R99): Verifies the snapshot tag of snapshot cells. -/
  | checkSnap (b : BerthNo)
  /-- CMPR_NOP (R147): Compression NOP job completes with OK. -/
  | cmprNop (b : BerthNo)
  /-- ZSTD_COMP (R148): Compresses one stretch into one Zstandard frame. -/
  | zstdComp (b : BerthNo)
  /-- ZSTD_DECOMP (R154): Decodes one Zstandard frame. -/
  | zstdDecomp (b : BerthNo)
  /-- ZSTD_PROBE (R153): Judges a Zstandard frame header and reports its content size. -/
  | zstdProbe (b : BerthNo)
  /-- DEFLATE_DECOMP (R155): Decodes a raw Deflate stream, possibly across several jobs. -/
  | deflateDecomp (b : BerthNo)
  /-- HASH_NOP (R159): Hash NOP job completes with OK. -/
  | hashNop (b : BerthNo)
  /-- SHA3_256 (R162): SHA3-256 job on a stream. -/
  | sha3256 (b : BerthNo)
  /-- SHA3_512 (R162): SHA3-512 job on a stream. -/
  | sha3512 (b : BerthNo)
  /-- SHAKE128 (R162): SHAKE128 job on a stream. -/
  | shake128 (b : BerthNo)
  /-- SHAKE256 (R162): SHAKE256 job on a stream. -/
  | shake256 (b : BerthNo)
  /-- KMAC256 (R162): KMAC256 job on a stream. -/
  | kmac256 (b : BerthNo)
  /-- SHA_256 (R164): SHA-256 job on a stream. -/
  | sha256 (b : BerthNo)
  /-- TENDER_NOP (R331): Tender NOP job completes with OK. -/
  | tenderNop (b : BerthNo)
  /-- COPY (R331): Copies bytes within the Span's Pontoon and staging memory. -/
  | copy (b : BerthNo)
  /-- SPAN_COPY (R348): Copies bytes into another Span's Pontoon. -/
  | spanCopy (b : BerthNo)
  /-- LAND_SEND (R331): Sends a buffer as Landing data frames for a Berth. -/
  | landSend (b : BerthNo)
  /-- SLIP_FRAME (R331): Sends one transport frame on a Slipway session. -/
  | slipFrame (b : BerthNo)
  /-- SLIP_DATA (R331): Sends a buffer as data frames on a Slipway session. -/
  | slipData (b : BerthNo)
  /-- TWIN_SEND (R385): Sends a batch of sealed cells to the Mirror. -/
  | twinSend (b : BerthNo)
  /-- ACCESS_RETRY (R323): An access that received BUSY is retried, and fails after the last retry. -/
  | accessRetry (m : MasterNo) (meet : Option Meeting)
  /-- STAGING_READ_BEAT (R340): A staging read beat returns with its RERR status. -/
  | stagingReadBeat (port : BitVec 4) (rerr : BitVec 2) (answers : BeatFor)
  /-- PONTOON_TEST_ROW (R328): The background test takes the next Pontoon row at its pace. -/
  | pontoonTestRow (sp : SpanNo) (res : RowTest)
  /-- CSTORE_TEST_ROW (R294): The background test takes the next control-store row at its pace. -/
  | cstoreTestRow (e : EngineNo) (copy : Bool) (res : RowTest)
  /-- LANDING_COMMAND_FRAME (R308): An inbound command frame is filed in the Berth's ring and sets INT_PEND.frame. -/
  | landingCommandFrame (port : BitVec 2) (b : BerthNo) (beats : List Byte)
  /-- LANDING_DATA_FRAME (R308): An inbound data frame is filed in the Berth's ring. -/
  | landingDataFrame (port : BitVec 2) (b : BerthNo) (beats : List Byte)
  /-- LANDING_FRAME_DISCARDED (R307): An inbound Landing frame of an unaccepted kind is discarded whole. -/
  | landingFrameDiscarded (port : BitVec 2) (b : BerthNo) (kind : BitVec 4) (beats : List Byte)
  /-- LOADER_DMA_FRAME (R289): A Landing data frame for Berth 1,023 delivers image bytes while Ashore. -/
  | loaderDmaFrame (port : BitVec 2) (b : BerthNo) (kind : BitVec 4) (beats : List Byte)
  /-- CREDIT_GRANT (R310): The Pilot grants pool units and sends a credit frame. -/
  | creditGrant (b : BerthNo)
  /-- SSP_DATA_IN (R315): An inbound SSP DATA frame goes to the session window or the ring. -/
  | sspDataIn (port : BitVec 2) (sn : SessNo) (frame : List Byte)
  /-- SSP_XFER_RDY_IN (R315): An inbound SSP XFER_RDY frame is filed in the bound Berth's ring. -/
  | sspXferRdyIn (port : BitVec 2) (sn : SessNo) (frame : List Byte)
  /-- SSP_RESPONSE_IN (R315): An inbound SSP RESPONSE frame is filed in the bound Berth's ring. -/
  | sspResponseIn (port : BitVec 2) (sn : SessNo) (frame : List Byte)
  /-- FIS_REGISTER_D2H_IN (R315): An inbound Register D2H FIS is filed in the ring. -/
  | fisRegisterD2hIn (port : BitVec 2) (sn : SessNo) (sata : Bool) (frame : List Byte)
  /-- FIS_DMA_ACTIVATE_IN (R315): An inbound DMA Activate FIS is filed in the ring. -/
  | fisDmaActivateIn (port : BitVec 2) (sn : SessNo) (sata : Bool) (frame : List Byte)
  /-- FIS_DMA_SETUP_IN (R315): An inbound DMA Setup FIS is filed in the ring. -/
  | fisDmaSetupIn (port : BitVec 2) (sn : SessNo) (sata : Bool) (frame : List Byte)
  /-- FIS_DATA_IN (R315): An inbound Data FIS goes to the session window or the ring. -/
  | fisDataIn (port : BitVec 2) (sn : SessNo) (sata : Bool) (frame : List Byte)
  /-- FIS_PIO_SETUP_IN (R315): An inbound PIO Setup FIS is filed in the ring. -/
  | fisPioSetupIn (port : BitVec 2) (sn : SessNo) (sata : Bool) (frame : List Byte)
  /-- FIS_SET_DEVICE_BITS_IN (R315): An inbound Set Device Bits FIS is filed in the ring. -/
  | fisSetDeviceBitsIn (port : BitVec 2) (sn : SessNo) (sata : Bool) (frame : List Byte)
  /-- SLIPWAY_ABORTED_FRAME (R409): An aborted Slipway frame is discarded. -/
  | slipwayAbortedFrame (port : BitVec 2)
  /-- SLIPWAY_FRAME_DISCARDED (R314): An unacceptable Slipway frame is discarded whole. -/
  | slipwayFrameDiscarded (port : BitVec 2) (kind : BitVec 4) (head : SlipHead) (frame : List Byte)
  /-- VIA_HELLO (R380): The peer's HELLO is checked during pairing. -/
  | viaHello (h : ViaHeader) (body : List Byte)
  /-- VIA_KEX1 (R380): The Mirror receives KEX1, encapsulates and derives link keys. -/
  | viaKex1 (h : ViaHeader) (body : List Byte)
  /-- VIA_KEX2 (R380): The Lead receives KEX2, decapsulates and derives link keys. -/
  | viaKex2 (h : ViaHeader) (body : List Byte)
  /-- VIA_CONFIRM (R381): The peer's CONFIRM signatures are verified. -/
  | viaConfirm (h : ViaHeader) (body : List Byte)
  /-- VIA_SYNC_END (R380): The Mirror checks its Berths, applies the sync and becomes Paired. -/
  | viaSyncEnd (h : ViaHeader) (body : List Byte)
  /-- VIA_HEARTBEAT (R393): A received heartbeat keeps the pairing alive. -/
  | viaHeartbeat (h : ViaHeader) (body : List Byte)
  /-- VIA_ACK (R383): An ACK completes every Lead item whose sequence it covers. -/
  | viaAck (h : ViaHeader) (body : List Byte)
  /-- VIA_NACK (R385): A NACK fails the TWIN.SEND job of the refused batch. -/
  | viaNack (h : ViaHeader) (body : List Byte)
  /-- VIA_BATCH (R386): The Mirror judges a batch record against its channel. -/
  | viaBatch (h : ViaHeader) (body : List Byte)
  /-- VIA_CELLS (R386): The Mirror writes batch cells to the channel window and advances it. -/
  | viaCells (h : ViaHeader) (body : List Byte)
  /-- VIA_CKPT (R389): The Mirror collects checkpoint parts and applies a complete checkpoint. -/
  | viaCkpt (h : ViaHeader) (body : List Byte)
  /-- VIA_KEYLOAD (R390): The Mirror loads a mirrored key into an empty slot. -/
  | viaKeyload (h : ViaHeader) (body : List Byte)
  /-- VIA_KEYERASE (R390): The Mirror erases a mirrored slot. -/
  | viaKeyerase (h : ViaHeader) (body : List Byte)
  /-- VIA_CONFIG (R392): The Mirror applies a mirrored register write. -/
  | viaConfig (h : ViaHeader) (body : List Byte)
  /-- VIA_DETACH (R397): A received DETACH ends the pairing. -/
  | viaDetach (h : ViaHeader) (body : List Byte)
  /-- VIA_PROMOTED (R396): A Lead that receives PROMOTED is superseded. -/
  | viaPromoted (h : ViaHeader) (body : List Byte)
  /-- HEARTBEAT_SEND (R393): A block that has sent nothing for the interval sends HEARTBEAT or HELLO. -/
  | heartbeatSend
  /-- HEARTBEAT_LOSS (R393): No valid frame for VIA_HB.loss ticks declares heartbeat loss. -/
  | heartbeatLoss
  /-- PAIRING_TIMEOUT (R380): Pairing not finished within 50,000,000 ticks fails. -/
  | pairingTimeout
  /-- CHECKPOINT_LAG (R388): A CKPT ACK waits longer than VIA_LAG and raises event 1,371. -/
  | checkpointLag
  /-- DETACH_TIMEOUT (R397): A detaching Lead stops waiting for the Mirror's DETACH after the loss ticks. -/
  | detachTimeout
  /-- PAIR_LEAD (R379): Host command to start pairing as Lead. -/
  | pairLead
  /-- PAIR_MIRROR (R379): Host command to start pairing as Mirror. -/
  | pairMirror
  /-- PROMOTE (R395): Host command that makes a Mirror the Lead. -/
  | promote
  /-- DETACH (R397): Host command that ends a pairing. -/
  | detach
  /-- LINK_UP_RISE (R398): LINK_UP rises and event 1,351 is raised with code 1. -/
  | linkUpRise
  /-- LINK_UP_FALL (R398): LINK_UP falls and the pairing becomes Broken. -/
  | linkUpFall
  /-- VIADUCT_PORT_RESET (R419): VD_RST_N falls and has the effects of a link reset. -/
  | viaductPortReset
  /-- UNDER_WAY (R443): Power command that resumes every engine from Holding. -/
  | underWay
  /-- HOLDING (R444): Power command that stops every engine. -/
  | holding
  /-- HOLDING_REACHED (R444): Every engine has stopped and the block is Holding. -/
  | holdingReached
  /-- MOORED (R445): Power command that enters Moored in steps. -/
  | moored
  /-- LAID_UP (R447): Power command that wipes and removes power. -/
  | laidUp
  /-- POWER_ACK (R440): The carrier acknowledges a supply line and the power sequence moves on. -/
  | powerAck (line : BitVec 2) (level : Bool)
  /-- WAKE (R446): A life-cycle request for the current state wakes a Moored block. -/
  | wake
  /-- POWER_LOSS (R440): AO_PWR_GOOD falls without permission. -/
  | powerLoss
  /-- POWER_RETURN (R440): AO_PWR_GOOD rises again and the block starts cold. -/
  | powerReturn
  /-- COLD_RESET (R441): COLD_RST_N resets the block cold. -/
  | coldReset
  /-- RESET_REQ (R441): RESET_REQ requests one block reset. -/
  | resetReq
  /-- BLOCK_RESET (R451): RESET_CMD block reset. -/
  | blockReset
  /-- SPAN_RESET (R453): RESET_CMD reset of one Span. -/
  | spanReset (sp : SpanNo)
  /-- FERRY_RESET (R452): RESET_CMD reset of one Ferry. -/
  | ferryReset (f : FerryNo)
  /-- LINK_RESET (R398): RESET_CMD Viaduct link reset. -/
  | linkReset
  /-- LIFE_CYCLE_CHANGE (R458): A life-cycle change request is judged and carried out through a block reset. -/
  | lifeCycleChange (target : BitVec 3) (lcState : BitVec 3)
  /-- OTP_ACK (R438): An OTP access completes and a write is read back. -/
  | otpAck (readback : W32)
  /-- OTP_TIMEOUT (R438): OTP_ACK does not rise within 10,000,000 ticks and the write fails. -/
  | otpTimeout
  /-- KEY_IN_TRANSFER (R437): K_P arrives on the dual-rail key port. -/
  | keyInTransfer (kp : BitVec 256)
  /-- KEY_IN_TIMEOUT (R437): KEY_IN_VALID does not rise within 1,000,000 ticks and slots 0 and 1 stay empty. -/
  | keyInTimeout
  /-- KEY_PATH_TIMEOUT (R142): A dual-rail key transfer does not complete within 10 µs. -/
  | keyPathTimeout (keyIn : Bool)
  /-- DUAL_RAIL_INVALID (R141): An invalid dual-rail code is detected. -/
  | dualRailInvalid (keyIn : Bool)
  /-- TAMPER_IN (R436): A tamper line stays high for 100 ns. -/
  | tamperIn (lines : Byte)
  /-- TIMEBASE_LOST (R21): No TB_CLK edge arrives for the loss period. -/
  | timebaseLost
  /-- TIMEBASE_RETURN (R21): TB_CLK edges return and counts resume. -/
  | timebaseReturn
  /-- TIMEBASE_LOAD_ARM (R432): TB_LOAD arms a load of the timebase count. -/
  | timebaseLoadArm (value : W64)
  /-- TIMEBASE_LOAD (R432): TB_SYNC makes the count take the armed value. -/
  | timebaseLoad
  /-- LANDING_PORT_RESET (R410): A Landing or Slipway RST_N falls. -/
  | landingPortReset (slip : Bool) (port : BitVec 2) (mid : Bool)
  /-- LANDING_PORT_RESET_RELEASE (R410): A Landing or Slipway RST_N rises and an abandoned frame is sent again. -/
  | landingPortResetRelease (slip : Bool) (port : BitVec 2)
  /-- STAGING_PORT_RESET (R416): A staging RST_N falls and unfinished reads fail. -/
  | stagingPortReset (port : PortCut)
  /-- STAGING_PORT_RESET_RELEASE (R416): A staging RST_N rises and unaccepted writes are issued again. -/
  | stagingPortResetRelease (port : BitVec 4)
  /-- CONTROL_PORT_RESET (R423): CP_RST_N falls and pending reads are abandoned. -/
  | controlPortReset
  /-- EDDY_SAMPLE (R360): An eddy source takes a sample and runs its health tests. -/
  | eddySample (k : Bool) (bit : Bool)
  /-- STARTUP_TEST_END (R361): A source's start-up test ends and it is enabled or disabled. -/
  | startupTestEnd (k : Bool)
  /-- SEED_READY (R362): The conditioner completes a 384-bit seed. -/
  | seedReady
  /-- DRBG_INSTANTIATE (R364): The DRBG runs its self-tests and instantiates from a seed. -/
  | drbgInstantiate
  /-- DRBG_RESEED (R367): The DRBG reseeds between requests. -/
  | drbgReseed
  /-- DRBG_TIMEOUT (R365): A waiting DRBG request reaches DRBG_TMO and ends with NOT_READY. -/
  | drbgTimeout
  /-- RETEST (R370): Host command that retests disabled sources. -/
  | retest
  /-- DRBG_RND (R365): A host take of DRBG_RND draws 64 bits or returns ERR. -/
  | drbgRnd
  /-- BERTH_START (R297): Berth command START makes a fresh context and readies the Berth. -/
  | berthStart (src : WSrc) (b : BerthNo)
  /-- BERTH_RESUME (R297): Berth command RESUME readies an idle Berth with its context kept. -/
  | berthResume (src : WSrc) (b : BerthNo)
  /-- BERTH_PARK (R297): Berth command PARK stops a Berth with its context kept. -/
  | berthPark (src : WSrc) (b : BerthNo)
  /-- BERTH_UNPARK (R297): Berth command UNPARK readies a parked Berth. -/
  | berthUnpark (src : WSrc) (b : BerthNo)
  /-- BERTH_STOP (R297): Berth command STOP makes a Berth idle. -/
  | berthStop (src : WSrc) (b : BerthNo)
  /-- BERTH_REHOME (R297): Berth command REHOME scrubs the context and applies a new home world. -/
  | berthRehome (src : WSrc) (b : BerthNo)
  /-- LDR_BEGIN_BASE (R289): Loader command BEGIN base from LDR_DATA. -/
  | ldrBeginBase
  /-- LDR_BEGIN_BASE_DMA (R289): Loader command BEGIN base by Landing DMA. -/
  | ldrBeginBaseDma
  /-- LDR_BEGIN_EXTENSION (R289): Loader command BEGIN extension from LDR_DATA. -/
  | ldrBeginExtension
  /-- LDR_BEGIN_EXTENSION_DMA (R289): Loader command BEGIN extension by DMA. -/
  | ldrBeginExtensionDma
  /-- LDR_START (R289): Loader command START takes the block out of Ashore. -/
  | ldrStart
  /-- COMMIT_VERSION (R284): Raises the OTP image floor to the loaded version. -/
  | commitVersion
  /-- ENROLL (R285): Writes the operator key hash to OTP. -/
  | enroll
  /-- ABORT (R289): Loader command that aborts a load in progress. -/
  | abortLoad
  /-- LDR_DATA (R290): A write delivers the next 8 image bytes to the loader, which judges them. -/
  | ldrData (value : W64)
  /-- TOLL_COMMIT (R351): Starts or queues a commit of a world's staged Tollgate rules. -/
  | tollCommit (src : WSrc) (sp : SpanNo) (w : World)
  /-- TOLL_COMMIT_END (R351): A commit ends and any pending commit starts. -/
  | tollCommitEnd (sp : SpanNo) (w : World)
  /-- TOLL_FENCE (R354): Captures the epoch and waits for older accesses. -/
  | tollFence (src : WSrc) (sp : SpanNo) (w : World)
  /-- TOLL_FENCE_DONE (R354): No older-epoch access remains and TOLL_FENCE.pending clears. -/
  | tollFenceDone (sp : SpanNo)
  /-- EVT_FIFO_TAKE (R318): A take of EVT_FIFO removes the head event entry. -/
  | evtFifoTake
  /-- EVT_FLUSH (R318): Removes every event FIFO entry. -/
  | evtFlush
  /-- CLAMP_HEAD0_TAKE (R481): A take of CLAMP_HEAD0 removes the head clamp-log entry. -/
  | clampHead0Take
  /-- CLAMP_FLUSH (R481): Removes every clamp-log entry. -/
  | clampFlush
  /-- RC_COUNTER_TAKE (R483): A take of an RC field returns and clears it. -/
  | rcCounterTake (read : HostRead)
  /-- STG_ALLOC_TAKE (R337): A take of STG_ALLOCn allocates a free staging extent. -/
  | stgAllocTake (n : SessionNo)
  /-- STG_FREE (R338): Frees an extent held by a session. -/
  | stgFree (src : WSrc) (n : SessionNo) (value : W64)
  /-- STG_CLAIM (R338): Claims a free extent for a session. -/
  | stgClaim (src : WSrc) (n : SessionNo) (value : W64)
  /-- GOP_BREAK (R471): Releases every waiting member of the named barrier groups with a false predicate. -/
  | gopBreak (mask : BitVec 16)
  /-- FERRY_REFLOAT (R472): Host write that starts the refloat of aground Ferries. -/
  | ferryRefloat (sp : SpanNo) (mask : BitVec 16)
  /-- BWDOG_CTL_WRITE (R499): A write of the block watchdog limit reloads its count. -/
  | bwdogCtlWrite (value : W64) (be : Byte)
  /-- BLOCK_WATCHDOG_EXPIRY (R499): The block watchdog expires and may reset the block. -/
  | blockWatchdogExpiry
  /-- REGISTER_WRITE (R475): A write to a register with no row of its own, judged field by field. -/
  | registerWrite (src : WSrc) (off : Nat) (value : W64) (be : Byte)
  /-- GW_NONE (R426): Gangway command None completes with OK. -/
  | gwNone
  /-- GW_READ_SOUTH_PEEK (R487): Gangway peek read for the South bank. -/
  | gwReadSouthPeek (addr : W48)
  /-- GW_READ_SOUTH_TAKE (R487): Gangway take read for the South bank. -/
  | gwReadSouthTake (addr : W48)
  /-- GW_WRITE_SOUTH (R487): Gangway write for the South bank. -/
  | gwWriteSouth (addr : W48) (value : W64)
  /-- GW_READ_NORTH_PEEK (R485): Gangway peek read for the North bank. -/
  | gwReadNorthPeek (addr : W48)
  /-- GW_READ_NORTH_TAKE (R485): Gangway take read for the North bank. -/
  | gwReadNorthTake (addr : W48)
  /-- GW_WRITE_NORTH (R485): Gangway write for the North bank. -/
  | gwWriteNorth (addr : W48) (value : W64)
  /-- GW_HALT (R495): Gangway HALT of a Ferry, group or every Ferry. -/
  | gwHalt (arg : W64)
  /-- GW_RESUME (R495): Gangway RESUME releases halted Ferries. -/
  | gwResume (arg : W64)
  /-- GW_STEP (R495): Gangway STEP dispatches a halted Ferry once. -/
  | gwStep (arg : W64)
  /-- GW_RUNSTAT (R495): Gangway RUNSTAT returns a Ferry's run state. -/
  | gwRunstat (arg : W64)
  /-- GW_RESERVED_COMMAND (R427): A reserved Gangway command returns status RESERVED. -/
  | gwReservedCommand (code : BitVec 4)
  /-- GW_ATTACH (R428): GW_ATTACH rises and the block registers the debugger. -/
  | gwAttach
  /-- GW_DETACH (R428): GW_ATTACH falls or GW_RST_N is low and the debugger is detached. -/
  | gwDetach
  /-- GW_HALT_IN (R493): A rising GW_HALT_IN triggers cross-trigger groups. -/
  | gwHaltIn
  /-- OUTBOUND_FRAME_SENT (R334): The last beat of an outbound Landing or Slipway frame transfers on the port; a LAND.SEND, SLIP.FRAME or SLIP.DATA job may then complete, and a POST waiting for outbound buffer room may proceed. -/
  | outboundFrameSent (slip : Bool) (port : BitVec 2)
  /-- BLOCK_COUNTER_OVERFLOW (R502): A Span or block counter that counts ticks, beats or unit work wraps, sets ovf and, per its configuration, raises event 1,368 or triggers a cross-trigger group. -/
  | blockCounterOverflow (c : CounterNo) (n : Nat)
  deriving DecidableEq, Repr

end Sys2Proof
end

