-- ==== Sys2Proof/Decode.lean ====
section
/-!
DEFINITION. The table of commands gives no row any bits, so no word spells a command: the decoder of table words answers
none on every word. The one code of the boundary that the spec encodes a command by is GW_CMD (R426).
-/
namespace Sys2Proof

/-- The command that a word spells by the table's bits: none, since no row of the table has bits. -/
def decodeTableWord (_nbits _w : Nat) : Option Instr := none

/-- The code on GW_CMD that carries a command of the Gangway (R426): its address and its data or argument travel beside it. -/
def gangwayCode : Instr → Option (BitVec 4)
  | .gwNone => some 0x0
  | .gwReadSouthPeek _ => some 0x1
  | .gwReadSouthTake _ => some 0x2
  | .gwWriteSouth _ _ => some 0x3
  | .gwReadNorthPeek _ => some 0x5
  | .gwReadNorthTake _ => some 0x6
  | .gwWriteNorth _ _ => some 0x7
  | .gwHalt _ => some 0x8
  | .gwResume _ => some 0x9
  | .gwStep _ => some 0xA
  | .gwRunstat _ => some 0xB
  | .gwReservedCommand code => if code = 0x4 ∨ 0xC ≤ code.toNat then some code else none
  | _ => none

end Sys2Proof
end

