-- ==== Sys2Proof/Machine/Bits.lean ====
section
/-!
DEFINITION. Bit-field, sign-extension and byte-order helpers (R9: a multi-byte field is little-endian, and bit 0 is the
least significant bit).
-/
namespace Sys2Proof.Machine

/-- Bits [hi:lo] of a 64-bit word, as a number. -/
def fld (w : W64) (hi lo : Nat) : Nat := (w.toNat >>> lo) % 2 ^ (hi + 1 - lo)

/-- Bit `i` of a 64-bit word. -/
def tb (w : W64) (i : Nat) : Bool := w.getLsbD i

/-- The number `n`, cut to bits [hi:lo], standing at those bits. -/
def at' (n hi lo : Nat) : W64 := BitVec.ofNat 64 ((n % 2 ^ (hi + 1 - lo)) <<< lo)

/-- A Boolean standing at bit `i`. -/
def atB (b : Bool) (i : Nat) : W64 := if b then at' 1 i i else 0

/-- The word `w` with bits [hi:lo] replaced by `n`. -/
def setFld (w : W64) (hi lo n : Nat) : W64 :=
  (w &&& ~~~ (at' (2 ^ (hi + 1 - lo) - 1) hi lo)) ||| at' n hi lo

/-- The mask of ones at bits [hi:lo]. -/
def ones (hi lo : Nat) : W64 := at' (2 ^ (hi + 1 - lo) - 1) hi lo

/-- The `n` low bytes of a number, lowest first (R9). -/
def bytesOfNat : Nat → Nat → List Byte
  | 0, _ => []
  | n + 1, v => BitVec.ofNat 8 v :: bytesOfNat n (v / 256)

/-- The number whose bytes are given lowest first (R9). -/
def natOfBytes : List Byte → Nat
  | [] => 0
  | b :: t => b.toNat + 256 * natOfBytes t

/-- The number whose bytes are given highest first (the order of the cryptographic standards). -/
def natOfBytesBE (l : List Byte) : Nat := l.foldl (fun a b => a * 256 + b.toNat) 0

/-- The `n` low bytes of a number, highest first. -/
def bytesOfNatBE (n v : Nat) : List Byte := (bytesOfNat n v).reverse

/-- The little-endian field of `n` bytes at byte `o` of a structure. -/
def fieldAt (l : List Byte) (o n : Nat) : Nat := natOfBytes ((l.drop o).take n)

/-- `n` zero bytes. -/
def zeros (n : Nat) : List Byte := List.replicate n 0

/-- A byte list cut or padded with zeros to `n` bytes. -/
def padTo (n : Nat) (l : List Byte) : List Byte := (l ++ zeros (n - l.length)).take n

/-- A byte list with `v` written over it from byte `o`. -/
def overlay (l : List Byte) (o : Nat) (v : List Byte) : List Byte := l.take o ++ v ++ l.drop (o + v.length)

/-- A two's complement field of `k` bits, sign-extended to 64. -/
def sext (k n : Nat) : W64 := (BitVec.ofNat k n).signExtend 64

/-- The base-two logarithm of a number, rounded down. -/
def log2 (x : Nat) : Nat := Nat.log2 x

/-- Rounds `a / b` up. -/
def ceilDiv (a b : Nat) : Nat := (a + b - 1) / b

/-- A number kept within [lo, hi]. -/
def clampTo (lo hi x : Nat) : Nat := if x < lo then lo else if hi < x then hi else x

/-- A saturating count of `k` bits. -/
def satAdd (k a n : Nat) : Nat := if a + n < 2 ^ k then a + n else 2 ^ k - 1

/-- Exclusive or of two byte lists, as long as the shorter. -/
def xorBytes (a b : List Byte) : List Byte := List.zipWith (· ^^^ ·) a b

/-- The pieces of `n` bytes of a list, the last possibly shorter. The first argument bounds their number. -/
def chunks (n : Nat) : Nat → List Byte → List (List Byte)
  | 0, _ => []
  | k + 1, l => if l.isEmpty then [] else l.take n :: chunks n k (l.drop n)

/-- The pieces of `n` bytes of a list. -/
def chunksOf (n : Nat) (l : List Byte) : List (List Byte) := chunks n (l.length / n + 1) l

end Sys2Proof.Machine
end

