-- ==== Sys2Proof/Machine/Aes.lean ====
section
/-!
DEFINITION. AES-256 of FIPS 197, and on it GCM and GMAC (SP 800-38D) and key wrap (SP 800-38F), as the Seal unit, the loader,
the Keystone and the Viaduct use them (R38, R41, R110, R283, R377).
-/
namespace Sys2Proof.Machine

/-! ### GF(2^8) and the block cipher -/

/-- Doubling in the field of AES. -/
def aesX (a : Byte) : Byte := if a.getLsbD 7 then (a <<< 1) ^^^ 0x1B else a <<< 1

/-- Product in the field of AES; the first argument bounds the bits of `b` used. -/
def aesMulN : Nat → Byte → Byte → Byte
  | 0, _, _ => 0
  | n + 1, a, b => (if b.getLsbD 0 then a else 0) ^^^ aesMulN n (aesX a) (b >>> 1)

/-- Product in the field of AES. -/
def aesMul (a b : Byte) : Byte := aesMulN 8 a b

/-- The inverse a^254, with 0 for 0. -/
def aesInv (a : Byte) : Byte :=
  let a2 := aesMul a a
  let a3 := aesMul a2 a
  let a6 := aesMul a3 a3
  let a12 := aesMul a6 a6
  let a15 := aesMul a12 a3
  let a30 := aesMul a15 a15
  let a60 := aesMul a30 a30
  let a120 := aesMul a60 a60
  let a126 := aesMul a120 a6
  let a127 := aesMul a126 a
  aesMul a127 a127

/-- The S-box as its definition gives it. -/
def sboxOf (a : Byte) : Byte :=
  let x := aesInv a
  x ^^^ x.rotateLeft 1 ^^^ x.rotateLeft 2 ^^^ x.rotateLeft 3 ^^^ x.rotateLeft 4 ^^^ 0x63

/-- The S-box, tabulated. -/
def sboxTable : Array Byte := (Array.range 256).map fun i => sboxOf (BitVec.ofNat 8 i)

/-- The inverse S-box, tabulated. -/
def sboxInvTable : Array Byte :=
  (List.range 256).foldl (fun t i => t.setIfInBounds (sboxTable.getD i 0).toNat (BitVec.ofNat 8 i)) (Array.replicate 256 0)

/-- S-box. -/
def sbox (a : Byte) : Byte := sboxTable.getD a.toNat 0

/-- Inverse S-box. -/
def sboxInv (a : Byte) : Byte := sboxInvTable.getD a.toNat 0

/-- Powers of two in the field, for the key schedule. -/
def rcon : Nat → Byte
  | 0 => 1
  | n + 1 => aesX (rcon n)

/-- The next words of the AES-256 key schedule: `w` holds the last eight words, latest first; `i` counts words. -/
def aesKeyStep : Nat → Nat → List (List Byte) → List (List Byte)
  | 0, _, w => w
  | n + 1, i, w =>
    let t := w.getD 0 []
    let p := w.getD 7 []
    let t :=
      if i % 8 = 0 then
        let r := t.drop 1 ++ t.take 1
        match r.map sbox with
        | b :: u => (b ^^^ rcon (i / 8 - 1)) :: u
        | [] => []
      else if i % 8 = 4 then t.map sbox
      else t
    aesKeyStep n (i + 1) (xorBytes p t :: w)

/-- The fifteen round keys of a 32-byte key. -/
def aesRoundKeys (key : List Byte) : List (List Byte) :=
  let w0 := (chunksOf 4 (padTo 32 key)).reverse
  let w := (aesKeyStep 52 8 w0).reverse
  (List.range 15).map fun r => ((w.drop (4 * r)).take 4).flatten

/-- Row shift of a state kept column by column. -/
def shiftRows (s : List Byte) : List Byte :=
  [s.getD 0 0, s.getD 5 0, s.getD 10 0, s.getD 15 0, s.getD 4 0, s.getD 9 0, s.getD 14 0, s.getD 3 0,
   s.getD 8 0, s.getD 13 0, s.getD 2 0, s.getD 7 0, s.getD 12 0, s.getD 1 0, s.getD 6 0, s.getD 11 0]

/-- Inverse row shift. -/
def shiftRowsInv (s : List Byte) : List Byte :=
  [s.getD 0 0, s.getD 13 0, s.getD 10 0, s.getD 7 0, s.getD 4 0, s.getD 1 0, s.getD 14 0, s.getD 11 0,
   s.getD 8 0, s.getD 5 0, s.getD 2 0, s.getD 15 0, s.getD 12 0, s.getD 9 0, s.getD 6 0, s.getD 3 0]

/-- Column mixing with the coefficients `k0` to `k3` of the circulant. -/
def mixWith (k0 k1 k2 k3 : Byte) : List Byte → List Byte
  | a :: b :: c :: d :: t =>
    (aesMul k0 a ^^^ aesMul k1 b ^^^ aesMul k2 c ^^^ aesMul k3 d) ::
    (aesMul k3 a ^^^ aesMul k0 b ^^^ aesMul k1 c ^^^ aesMul k2 d) ::
    (aesMul k2 a ^^^ aesMul k3 b ^^^ aesMul k0 c ^^^ aesMul k1 d) ::
    (aesMul k1 a ^^^ aesMul k2 b ^^^ aesMul k3 c ^^^ aesMul k0 d) :: mixWith k0 k1 k2 k3 t
  | l => l

/-- Column mixing by doublings alone. -/
def mixColumns : List Byte → List Byte
  | a :: b :: c :: d :: t =>
    let e := a ^^^ b ^^^ c ^^^ d
    (a ^^^ e ^^^ aesX (a ^^^ b)) :: (b ^^^ e ^^^ aesX (b ^^^ c)) :: (c ^^^ e ^^^ aesX (c ^^^ d)) ::
      (d ^^^ e ^^^ aesX (d ^^^ a)) :: mixColumns t
  | l => l

/-- The rounds after the first key addition. -/
def aesRounds : List (List Byte) → List Byte → List Byte
  | [], s => s
  | [k], s => xorBytes (shiftRows (s.map sbox)) k
  | k :: ks, s => aesRounds ks (xorBytes (mixColumns (shiftRows (s.map sbox))) k)

/-- AES-256 of a 16-byte block under expanded round keys. -/
def aesEncRk (rk : List (List Byte)) (b : List Byte) : List Byte :=
  match rk with
  | k :: ks => aesRounds ks (xorBytes b k)
  | [] => b

/-- AES-256 encryption of a 16-byte block. -/
def aesEnc (key b : List Byte) : List Byte := aesEncRk (aesRoundKeys key) b

/-- The inverse rounds, round keys given last first. -/
def aesRoundsInv : List (List Byte) → List Byte → List Byte
  | [], s => s
  | [k], s => xorBytes ((shiftRowsInv s).map sboxInv) k
  | k :: ks, s => aesRoundsInv ks (mixWith 14 11 13 9 (xorBytes ((shiftRowsInv s).map sboxInv) k))

/-- AES-256 decryption of a 16-byte block. -/
def aesDec (key b : List Byte) : List Byte :=
  match (aesRoundKeys key).reverse with
  | k :: ks => aesRoundsInv ks (xorBytes b k)
  | [] => b

/-! ### GCM -/

/-- The steps of a product in GF(2^128) of SP 800-38D, bit 0 being the leftmost bit of a block. -/
def gmulSteps : Nat → Nat → Nat → Nat → Nat
  | 0, _, _, z => z
  | n + 1, x, v, z =>
    gmulSteps n x (if v % 2 = 1 then (v >>> 1) ^^^ (0xE1 <<< 120) else v >>> 1) (if x.testBit n then z ^^^ v else z)

/-- Product in GF(2^128), blocks as numbers read highest byte first. -/
def gmul (x y : Nat) : Nat := gmulSteps 128 x y 0

/-- GHASH under subkey `h` of 16-byte blocks; the last block is padded with zeros. -/
def ghash (h : Nat) (l : List Byte) : Nat :=
  (chunksOf 16 l).foldl (fun y b => gmul (y ^^^ natOfBytesBE (padTo 16 b)) h) 0

/-- A list padded with zeros to whole blocks. -/
def padBlock (l : List Byte) : List Byte := l ++ zeros ((16 - l.length % 16) % 16)

/-- The next counter block: the last 32 bits advance. -/
def inc32 (b : List Byte) : List Byte :=
  b.take 12 ++ bytesOfNatBE 4 ((natOfBytesBE (b.drop 12) + 1) % 2 ^ 32)

/-- Counter mode over the pieces of a text. -/
def gctr (rk : List (List Byte)) : List Byte → List (List Byte) → List Byte
  | _, [] => []
  | cb, x :: t => xorBytes x (aesEncRk rk cb) ++ gctr rk (inc32 cb) t

/-- The 16-byte tag of GCM for a 96-bit IV. -/
def gcmTag (rk : List (List Byte)) (iv aad ct : List Byte) : List Byte :=
  let h := natOfBytesBE (aesEncRk rk (zeros 16))
  let s := ghash h (padBlock aad ++ padBlock ct ++ bytesOfNatBE 8 (8 * aad.length) ++ bytesOfNatBE 8 (8 * ct.length))
  xorBytes (bytesOfNatBE 16 s) (aesEncRk rk (iv ++ [0, 0, 0, 1]))

/-- AES-256-GCM encryption with a 96-bit IV: ciphertext and tag. -/
def gcmEnc (key iv aad pt : List Byte) : List Byte × List Byte :=
  let rk := aesRoundKeys key
  let ct := gctr rk (inc32 (iv ++ [0, 0, 0, 1])) (chunksOf 16 pt)
  (ct, gcmTag rk iv aad ct)

/-- AES-256-GCM decryption: the plaintext, when the tag agrees over its given length. -/
def gcmDec (key iv aad ct tag : List Byte) : Option (List Byte) :=
  let rk := aesRoundKeys key
  if (gcmTag rk iv aad ct).take tag.length = tag then some (gctr rk (inc32 (iv ++ [0, 0, 0, 1])) (chunksOf 16 ct))
  else none

/-- GMAC with a 96-bit tag (R41). -/
def gmac96 (key iv aad : List Byte) : List Byte := (gcmTag (aesRoundKeys key) iv aad []).take 12

/-! ### Key wrap -/

/-- The wrapping steps over the semiblocks `r`; `t` counts the steps made. -/
def kwPass (key : List Byte) : List (List Byte) → List Byte → Nat → List Byte × List (List Byte) × Nat
  | [], a, t => (a, [], t)
  | r :: rs, a, t =>
    let b := aesEnc key (a ++ r)
    let a' := xorBytes (b.take 8) (bytesOfNatBE 8 (t + 1))
    let (a2, out, t2) := kwPass key rs a' (t + 1)
    (a2, b.drop 8 :: out, t2)

/-- `n` passes of wrapping. -/
def kwPasses (key : List Byte) : Nat → List Byte → List (List Byte) → Nat → List Byte
  | 0, a, r, _ => a ++ r.flatten
  | n + 1, a, r, t => let (a', r', t') := kwPass key r a t; kwPasses key n a' r' t'

/-- AES-256 key wrap of whole semiblocks. -/
def kwWrap (key pt : List Byte) : List Byte := kwPasses key 6 (List.replicate 8 0xA6) (chunksOf 8 pt) 0

/-- The unwrapping steps over the semiblocks, last first. -/
def kwUnpass (key : List Byte) : List (List Byte) → List Byte → Nat → List Byte × List (List Byte) × Nat
  | [], a, t => (a, [], t)
  | r :: rs, a, t =>
    let b := aesDec key (xorBytes a (bytesOfNatBE 8 t) ++ r)
    let (a2, out, t2) := kwUnpass key rs (b.take 8) (t - 1)
    (a2, b.drop 8 :: out, t2)

/-- `n` passes of unwrapping; the semiblocks are kept last first. -/
def kwUnpasses (key : List Byte) : Nat → List Byte → List (List Byte) → Nat → List Byte × List Byte
  | 0, a, r, _ => (a, r.reverse.flatten)
  | n + 1, a, r, t => let (a', r', t') := kwUnpass key r a t; kwUnpasses key n a' r' t'

/-- AES-256 key unwrap: the text, when the integrity value agrees. -/
def kwUnwrap (key ct : List Byte) : Option (List Byte) :=
  let r := (chunksOf 8 (ct.drop 8)).reverse
  let (a, pt) := kwUnpasses key 6 (ct.take 8) r (6 * r.length)
  if a = List.replicate 8 0xA6 then some pt else none

end Sys2Proof.Machine
end

