-- ==== Sys2Proof/Machine/Keccak.lean ====
section
/-!
DEFINITION. Keccak of FIPS 202 and KMAC256 of SP 800-185, as the Hash unit, the conditioner, the Keystone and the Viaduct use
them (R105, R162, R362, R380, R381).
-/
namespace Sys2Proof.Machine

/-- A lane by coordinates of a 25-lane state kept row by row. -/
def lane (s : Array W64) (i : Nat) : W64 := s.getD i 0

/-- Rotation offsets of the rho step, by lane. -/
def rhoOffsets : List Nat :=
  [0, 1, 62, 28, 27, 36, 44, 6, 55, 20, 3, 10, 43, 25, 39, 41, 45, 15, 21, 8, 18, 2, 61, 56, 14]

/-- The round-constant register: eight bits, stepped once. -/
def rcStep (r : Nat) : Nat := let r2 := 2 * r; if 256 ≤ r2 then (r2 ^^^ 0x171) % 256 else r2

/-- Output bit of the round-constant register after `n` steps. -/
def rcBit : Nat → Nat → Bool
  | 0, r => r % 2 = 1
  | n + 1, r => rcBit n (rcStep r)

/-- The iota constant of a round. -/
def iotaConst (rnd : Nat) : W64 :=
  (List.range 7).foldl (fun a j => if rcBit (7 * rnd + j) 1 then a ||| atB true (2 ^ j - 1) else a) 0

/-- The iota constants, tabulated. -/
def iotaTable : Array W64 := (Array.range 24).map iotaConst

/-- One round of Keccak-f[1600]. -/
def keccakRound (s : Array W64) (rnd : Nat) : Array W64 :=
  let c := (Array.range 5).map fun x => lane s x ^^^ lane s (x + 5) ^^^ lane s (x + 10) ^^^ lane s (x + 15) ^^^ lane s (x + 20)
  let d := (Array.range 5).map fun x => lane c ((x + 4) % 5) ^^^ (lane c ((x + 1) % 5)).rotateLeft 1
  let t := (Array.range 25).map fun i => lane s i ^^^ lane d (i % 5)
  let r := (Array.range 25).map fun i => (lane t i).rotateLeft (rhoOffsets.getD i 0)
  -- lane (x, y) of the pi step comes from lane (x + 3 y, x)
  let b := (Array.range 25).map fun i => let x := i % 5; let y := i / 5; lane r ((x + 3 * y) % 5 + 5 * x)
  let k := (Array.range 25).map fun i =>
    let x := i % 5; let y := 5 * (i / 5)
    lane b i ^^^ (~~~ (lane b ((x + 1) % 5 + y)) &&& lane b ((x + 2) % 5 + y))
  k.setIfInBounds 0 (lane k 0 ^^^ iotaTable.getD rnd 0)

/-- Keccak-f[1600]. -/
def keccakF (s : Array W64) : Array W64 := (List.range 24).foldl keccakRound s

/-- A state with one block of bytes added at its front. -/
def keccakXor (s : Array W64) (blk : List Byte) : Array W64 :=
  (s.toList.zipIdx.map fun e => e.1 ^^^ BitVec.ofNat 64 (fieldAt blk (8 * e.2) 8)).toArray

/-- Absorbs whole blocks of `rate` bytes. -/
def keccakAbsorb (s : Array W64) (bs : List (List Byte)) : Array W64 := bs.foldl (fun s b => keccakF (keccakXor s b)) s

/-- The bytes of a state. -/
def keccakBytes (s : Array W64) : List Byte := s.toList.flatMap fun w => bytesOfNat 8 w.toNat

/-- `n` blocks of output at most. -/
def keccakSqueeze : Nat → Nat → Array W64 → List Byte
  | 0, _, _ => []
  | n + 1, rate, s => (keccakBytes s).take rate ++ (if n = 0 then [] else keccakSqueeze n rate (keccakF s))

/-- The sponge with a domain byte: `n` bytes of output. -/
def sponge (rate : Nat) (dom : Byte) (m : List Byte) (n : Nat) : List Byte :=
  let k := rate - m.length % rate
  let p := if k = 1 then [dom ||| 0x80] else dom :: zeros (k - 2) ++ [0x80]
  let s := keccakAbsorb (Array.replicate 25 0) (chunksOf rate (m ++ p))
  (keccakSqueeze (n / rate + 1) rate s).take n

/-- SHA3-256. -/
def sha3_256 (m : List Byte) : List Byte := sponge 136 0x06 m 32
/-- SHA3-384. -/
def sha3_384 (m : List Byte) : List Byte := sponge 104 0x06 m 48
/-- SHA3-512. -/
def sha3_512 (m : List Byte) : List Byte := sponge 72 0x06 m 64
/-- SHAKE128, `n` bytes. -/
def shake128 (m : List Byte) (n : Nat) : List Byte := sponge 168 0x1F m n
/-- SHAKE256, `n` bytes. -/
def shake256 (m : List Byte) (n : Nat) : List Byte := sponge 136 0x1F m n

/-- The bytes of a number, highest first, at least one. -/
def minBytesBE (n : Nat) : List Byte := bytesOfNatBE (Nat.log2 n / 8 + 1) n

/-- left_encode of SP 800-185. -/
def leftEncode (n : Nat) : List Byte := let b := minBytesBE n; BitVec.ofNat 8 b.length :: b

/-- right_encode of SP 800-185. -/
def rightEncode (n : Nat) : List Byte := let b := minBytesBE n; b ++ [BitVec.ofNat 8 b.length]

/-- encode_string of SP 800-185. -/
def encodeString (l : List Byte) : List Byte := leftEncode (8 * l.length) ++ l

/-- bytepad of SP 800-185. -/
def bytepad (l : List Byte) (w : Nat) : List Byte :=
  let x := leftEncode w ++ l
  x ++ zeros ((w - x.length % w) % w)

/-- The bytes of an ASCII string. -/
def asciiBytes (s : String) : List Byte := s.toList.map fun c => BitVec.ofNat 8 c.toNat

/-- What KMAC256 absorbs before its message. -/
def kmacHead (key custom : List Byte) : List Byte :=
  bytepad (encodeString (asciiBytes "KMAC") ++ encodeString custom) 136 ++ bytepad (encodeString key) 136

/-- KMAC256 with `n` bytes of output. -/
def kmac256 (key m : List Byte) (n : Nat) (custom : List Byte) : List Byte :=
  sponge 136 0x04 (kmacHead key custom ++ m ++ rightEncode (8 * n)) n

/-- KMAC256 as an extendable-output function. -/
def kmac256Xof (key m : List Byte) (n : Nat) (custom : List Byte) : List Byte :=
  sponge 136 0x04 (kmacHead key custom ++ m ++ rightEncode 0) n

end Sys2Proof.Machine
end

