-- ==== Sys2Proof/Machine/Drbg.lean ====
section
/-!
DEFINITION. CTR_DRBG of SP 800-90A with AES-256 and the derivation function (R363 to R367).
-/
namespace Sys2Proof.Machine

/-- The next value of V. -/
def incV (v : List Byte) : List Byte := bytesOfNatBE 16 ((natOfBytesBE v + 1) % 2 ^ 128)

/-- `n` blocks of keystream after `v`, with the last V. -/
def ctrBlocks (rk : List (List Byte)) : Nat → List Byte → List Byte × List Byte
  | 0, v => ([], v)
  | n + 1, v =>
    let v' := incV v
    let (t, vl) := ctrBlocks rk n v'
    (aesEncRk rk v' ++ t, vl)

/-- CTR_DRBG_Update with 48 bytes of provided data: Key and V. -/
def drbgUpdate (key v data : List Byte) : List Byte × List Byte :=
  let t := xorBytes (ctrBlocks (aesRoundKeys key) 3 v).1 data
  (t.take 32, t.drop 32)

/-- The chaining function of the derivation function. -/
def drbgBcc (rk : List (List Byte)) (l : List Byte) : List Byte :=
  (chunksOf 16 l).foldl (fun c b => aesEncRk rk (xorBytes c (padTo 16 b))) (zeros 16)

/-- `n` blocks of repeated encryption. -/
def drbgChain (rk : List (List Byte)) : Nat → List Byte → List Byte
  | 0, _ => []
  | n + 1, x => let y := aesEncRk rk x; y ++ drbgChain rk n y

/-- Block_Cipher_df with 48 bytes of output. -/
def drbgDf (input : List Byte) : List Byte :=
  let s := padBlock (bytesOfNatBE 4 input.length ++ bytesOfNatBE 4 48 ++ input ++ [0x80])
  let rk := aesRoundKeys ((List.range 32).map (BitVec.ofNat 8))
  let t := (List.range 3).flatMap fun i => drbgBcc rk (bytesOfNatBE 4 i ++ zeros 12 ++ s)
  drbgChain (aesRoundKeys (t.take 32)) 3 (t.drop 32)

/-- The personalisation string of R363. -/
def drbgPers : List Byte := asciiBytes "PHIRA-DRBG-AS1K0"

/-- Instantiation from a 48-byte seed: Key and V (R363, R364). -/
def drbgInst (seed : List Byte) : List Byte × List Byte := drbgUpdate (zeros 32) (zeros 16) (drbgDf (seed ++ drbgPers))

/-- Reseeding from a 48-byte seed (R367; log entry 17). -/
def drbgReseed (key v seed : List Byte) : List Byte × List Byte := drbgUpdate key v (drbgDf seed)

/-- A request of `n` bytes, at most 128 (R363): the bytes, and the new Key and V (R366). -/
def drbgGen (key v : List Byte) (n : Nat) : List Byte × List Byte × List Byte :=
  let (o, v1) := ctrBlocks (aesRoundKeys key) ((n + 15) / 16) v
  let (k2, v2) := drbgUpdate key v1 (zeros 48)
  (o.take n, k2, v2)

end Sys2Proof.Machine
end

