-- ==== Sys2Proof/Machine/Crc.lean ====
section
/-!
DEFINITION. CRC-64 of ECMA-182 without reflection (R193), CRC-32 of the Deflate and gzip family (R156), and XXH64, the
content checksum of a Zstandard frame (R149, R154).
-/
namespace Sys2Proof.Machine

/-- One bit of CRC-64. -/
def crc64Bit (r : W64) : W64 := if tb r 63 then (r <<< 1) ^^^ 0x42F0E1EBA9EA3693 else r <<< 1

/-- One byte of CRC-64, most significant bit first (R193). -/
def crc64Byte (r : W64) (b : Byte) : W64 :=
  (List.range 8).foldl (fun r _ => crc64Bit r) (r ^^^ (b.setWidth 64 <<< 56))

/-- CRC-64 over bytes. -/
def crc64 (r : W64) (l : List Byte) : W64 := l.foldl crc64Byte r

/-- One bit of CRC-32, reflected. -/
def crc32Bit (r : W32) : W32 := if r.getLsbD 0 then (r >>> 1) ^^^ 0xEDB88320 else r >>> 1

/-- One byte of CRC-32. -/
def crc32Byte (r : W32) (b : Byte) : W32 := (List.range 8).foldl (fun r _ => crc32Bit r) (r ^^^ b.setWidth 32)

/-- CRC-32 of bytes, with its initial value and final complement. -/
def crc32 (l : List Byte) : W32 := ~~~ (l.foldl crc32Byte (~~~ 0))

/-- The primes of XXH64. -/
def xxP1 : W64 := 0x9E3779B185EBCA87
/-- Second prime. -/
def xxP2 : W64 := 0xC2B2AE3D27D4EB4F
/-- Third prime. -/
def xxP3 : W64 := 0x165667B19E3779F9
/-- Fourth prime. -/
def xxP4 : W64 := 0x85EBCA77C2B2AE63
/-- Fifth prime. -/
def xxP5 : W64 := 0x27D4EB2F165667C5

/-- One round of XXH64. -/
def xxRound (acc x : W64) : W64 := (acc + x * xxP2).rotateLeft 31 * xxP1

/-- Merges one accumulator. -/
def xxMerge (h v : W64) : W64 := (h ^^^ xxRound 0 v) * xxP1 + xxP4

/-- Folds one stripe of 32 bytes into the four accumulators. -/
def xxStripe (a : List W64) (b : List Byte) : List W64 :=
  List.zipWith xxRound a ((chunksOf 8 b).map fun w => BitVec.ofNat 64 (natOfBytes w))

/-- The tail of XXH64: 8-byte, then 4-byte, then single-byte steps. `n` bounds their number. -/
def xxTail : Nat → W64 → List Byte → W64
  | 0, h, _ => h
  | n + 1, h, l =>
    if 8 ≤ l.length then
      xxTail n ((h ^^^ xxRound 0 (BitVec.ofNat 64 (natOfBytes (l.take 8)))).rotateLeft 27 * xxP1 + xxP4) (l.drop 8)
    else if 4 ≤ l.length then
      xxTail n ((h ^^^ (BitVec.ofNat 64 (natOfBytes (l.take 4)) * xxP1)).rotateLeft 23 * xxP2 + xxP3) (l.drop 4)
    else match l with
      | [] => h
      | b :: t => xxTail n ((h ^^^ (b.setWidth 64 * xxP5)).rotateLeft 11 * xxP1) t

/-- XXH64 with seed 0. -/
def xxh64 (l : List Byte) : W64 :=
  let k := l.length / 32 * 32
  let h :=
    if k = 0 then xxP5
    else
      let a := (chunksOf 32 (l.take k)).foldl xxStripe [xxP1 + xxP2, xxP2, 0, 0 - xxP1]
      let g := fun i => a.getD i 0
      let h := (g 0).rotateLeft 1 + (g 1).rotateLeft 7 + (g 2).rotateLeft 12 + (g 3).rotateLeft 18
      a.foldl xxMerge h
  let h := xxTail 40 (h + BitVec.ofNat 64 l.length) (l.drop k)
  let h := (h ^^^ (h >>> 33)) * xxP2
  let h := (h ^^^ (h >>> 29)) * xxP3
  h ^^^ (h >>> 32)

end Sys2Proof.Machine
end

