-- ==== Sys2Proof/Machine/Table.lean ====
section
/-!
DEFINITION. Sparse plain-data tables: a list of (key, value) pairs, the first entry of a key being its value, a key with
no entry having the default its reader names.
-/
namespace Sys2Proof.Machine

/-- A sparse table by natural-number key. -/
abbrev Table (α : Type) := List (Nat × α)

/-- The value of key `k`, or `d` when the table has no entry for it. -/
def Table.get {α : Type} (d : α) : Table α → Nat → α
  | [], _ => d
  | (j, v) :: t, k => if j = k then v else Table.get d t k

/-- Is there an entry for key `k`? -/
def Table.has {α : Type} : Table α → Nat → Bool
  | [], _ => false
  | (j, _) :: t, k => if j = k then true else Table.has t k

/-- The table with `v` at key `k`: the entry is replaced, or put in at its place in rising order. -/
def Table.put {α : Type} : Table α → Nat → α → Table α
  | [], k, v => [(k, v)]
  | (j, w) :: t, k, v =>
    if k < j then (k, v) :: (j, w) :: t
    else if k = j then (k, v) :: t
    else (j, w) :: Table.put t k v

/-- The table without any entry for key `k`. -/
def Table.del {α : Type} : Table α → Nat → Table α
  | [], _ => []
  | (j, w) :: t, k => if j = k then Table.del t k else (j, w) :: Table.del t k

/-- The value found for `k`, if any. -/
def Table.find {α : Type} : Table α → Nat → Option α
  | [], _ => none
  | (j, v) :: t, k => if j = k then some v else Table.find t k

end Sys2Proof.Machine
end

