-- ==== Sys2Proof/Machine/Microcode.lean ====
section
/-!
DEFINITION. The checks that the loader makes on microwords (R259 to R277, R282, R287): the code of R261, the fields of each
word, and the proofs over paths. A microword is a number of 144 bits (R260), and a store a list of them.
-/
namespace Sys2Proof.Machine

/-- Bits [hi:lo] of a microword. -/
def mf (w hi lo : Nat) : Nat := (w >>> lo) % 2 ^ (hi + 1 - lo)

/-- The microwords of a run of bytes, 18 each, little-endian (R260). -/
def microwords (l : List Byte) : List Nat := (chunksOf 18 l).map natOfBytes

/-! ### The code of a word (R261) -/

/-- The positions 1 to 144 that carry data bits, in order. -/
def eccPositions : List Nat := (List.range 145).filter fun p => 0 < p && ! [1, 2, 4, 8, 16, 32, 64, 128].contains p

/-- The check bits that bits [135:0] of a word give. -/
def eccOf (w : Nat) : Nat :=
  eccPositions.zipIdx.foldl (fun c e => if w.testBit e.2 then c ^^^ e.1 else c) 0

/-- Does the ecc field agree? -/
def eccOk (w : Nat) : Bool := mf w 143 136 == eccOf w

/-! ### The fields of a word (R262 to R272) -/

/-- Is the condition code assigned (R264)? -/
def condOk (c : Nat) : Bool := c < 112 || c == 127

/-- Are the unit code and its sub-operation assigned (R271)? -/
def unitOk (u lit : Nat) : Bool :=
  if u = 0 then true
  else if u ≤ 5 then lit == 0
  else if u = 6 then lit < 8
  else if u = 7 then lit < 9
  else if u = 8 then lit == 0
  else if u = 9 ∨ u = 10 then lit < 2
  else if u = 11 then lit < 3
  else if u = 12 ∨ u = 13 then lit < 6
  else if u = 14 then lit == 0 || (lit % 256 == 1 && lit < 0x4000)
  else false

/-- Are the memory fields assigned (R270, and R222 for a B-space operation)? -/
def memOk (w : Nat) : Bool :=
  let m := mf w 72 69
  m != 15 && mf w 68 66 < 6 && !(m == 11 && mf w 2 0 == 7) && !((m == 0 || m == 11 || m == 13) && (mf w 68 66 != 0 || mf w 65 64 != 0))

/-- Are the selectors, the shifter and the predicate and class fields assigned (R267 to R269, R272, R276)? -/
def selOk (w : Nat) : Bool :=
  mf w 97 92 < 0x35 && mf w 91 86 < 0x35 && mf w 85 80 < 0x2D && mf w 77 76 != 3
    && !(mf w 77 76 != 0 && mf w 75 73 != 0) && mf w 52 50 < 5 && mf w 54 53 != 3

/-- Does nac use target (R260)? -/
def nacTarget (n : Nat) : Bool := [1, 2, 3, 6, 7].contains n

/-- The reason for which a word of a store of `size` words is refused, if it is (R262 to R272). Where a word breaks several
rules, the lowest reason code is taken (log entry 20). -/
def wordReason (pilot : Bool) (size w : Nat) : Option Nat :=
  let nac := mf w 135 132
  let t := mf w 131 120
  if 8 ≤ nac then some 0x0D
  else if nac = 6 ∧ !pilot then some 0x0E
  else if !condOk (mf w 119 113) ∨ !condOk (mf w 111 105) ∨
      (nac = 6 ∧ (mf w 114 113 ≠ 0 ∨ mf w 112 112 ≠ 0 ∨ 28 ≤ mf w 119 115)) then some 0x0F
  else if 0x20 ≤ mf w 103 98 then some 0x10
  else if !memOk w then some 0x11
  else if !unitOk (mf w 63 60) (mf w 31 0) then some 0x12
  else if !selOk w then some 0x13
  else if size ≤ t ∨ (!nacTarget nac ∧ t ≠ 0) then some 0x14
  else if mf w 111 105 = 127 ∧ mf w 104 104 = 1 then some 0x18
  else none

/-! ### Paths (R274, R277) -/

/-- A place on a path: the word, the micro-stack, and whether a commit word has acted. -/
structure MPoint where
  /-- Word address. -/
  a : Nat
  /-- Micro-stack, top first. -/
  stack : List Nat
  /-- A word with cmt = 1 has been passed. -/
  done : Bool
  deriving DecidableEq

/-- Commit marker of a word. -/
def mCmt (w : Nat) : Bool := mf w 55 55 == 1

/-- The places that follow a place; none after nac 5. -/
def mNext (size : Nat) (w : Nat) (p : MPoint) : List MPoint :=
  let d := p.done || mCmt w
  let t := mf w 131 120
  let go := fun a => ({ a := a, stack := p.stack, done := d } : MPoint)
  let l := match mf w 135 132 with
    | 0 => [go (p.a + 1)]
    | 1 => [go t]
    | 2 => [go t, go (p.a + 1)]
    | 3 => if p.stack.length < 8 then [{ a := t, stack := (p.a + 1) :: p.stack, done := d }] else []
    | 4 => (match p.stack with
      | [] => []
      | r :: st => [{ a := r, stack := st, done := d }])
    | 6 => (List.range 16).map fun k => go (t / 16 * 16 + (t % 16 ||| k))
    | 7 => [go t, go (p.a + 1)]
    | _ => []
  l.filter fun q => q.a < size

/-- Every place reachable from `todo`, `seen` being known already. -/
def mReach (size : Nat) (ws : Nat → Nat) : Nat → List MPoint → List MPoint → List MPoint
  | 0, _, seen => seen
  | _ + 1, [], seen => seen
  | fuel + 1, p :: todo, seen =>
    if seen.contains p then mReach size ws fuel todo seen
    else mReach size ws fuel (mNext size (ws p.a) p ++ todo) (p :: seen)

/-- A bound on the places of a store, with room for every edge. -/
def mFuel : Nat := 2 ^ 64

/-- Does the micro-stack fail at a place (R274)? -/
def stackBad (w : Nat) (p : MPoint) : Bool :=
  match mf w 135 132 with
  | 3 => 8 ≤ p.stack.length
  | 4 => p.stack.isEmpty
  | 5 => !p.stack.isEmpty
  | _ => false

/-- Bytes that a word posts. -/
def mPosts (w : Nat) : Nat :=
  match mf w 72 69 with
  | 3 => 2 ^ mf w 65 64
  | 7 => 16 * 2 ^ mf w 65 64
  | _ => 0

/-- The places `n` steps on. -/
def mSteps (size : Nat) (ws : Nat → Nat) : Nat → List MPoint → List MPoint
  | 0, l => l
  | n + 1, l => mSteps size ws n (l.flatMap fun p => mNext size (ws p.a) p).eraseDups

/-- Bytes posted along the paths of `n` words from these places, each place with what has been posted before it; more than 128 count as
129. -/
def mPosted (size : Nat) (ws : Nat → Nat) : Nat → List (MPoint × Nat) → Nat
  | 0, l => l.foldl (fun m e => max m e.2) 0
  | n + 1, l =>
    let here := l.map fun e => (e.1, min 129 (e.2 + mPosts (ws e.1.a)))
    max (here.foldl (fun m e => max m e.2) 0)
      (mPosted size ws n (here.flatMap fun e => (mNext size (ws e.1.a) e.1).map fun q => (q, e.2)).eraseDups)

/-- Does the tail of a commit word at `p` break R277? It exceeds 64 words when it has more words, or when some path through it passes more,
each word counted as often as it is passed, which a cycle makes endless; and it posts what a path through it posts (log entry 91). -/
def tailBad (size : Nat) (ws : Nat → Nat) (p : MPoint) : Bool :=
  let w := ws p.a
  let start := mNext size w p
  if !(mSteps size ws 64 start).isEmpty then true
  else
    let words := ((mReach size ws mFuel start []).map (·.a)).eraseDups
    let posts := mPosted size ws 64 (start.map fun q => (q, 0))
    64 < words.length || 128 < posts
      || words.any (fun a => mf (ws a) 111 105 != 127 || mf (ws a) 104 104 != 0 || ! [0, 3, 7, 11].contains (mf (ws a) 72 69)
          || mf (ws a) 63 60 != 0)
      || (0 < posts && !((mf w 111 105 == 107 || mf w 111 105 == 108) && mf w 104 104 == 0))

/-- The first word, in address order, at which a path from the entries breaks R274 or R277, with its reason. The tail of a commit word
that no entry reaches is judged as well, from an empty micro-stack. -/
def pathReason (size : Nat) (words : List Nat) (entries : List Nat) : Option (Nat × Nat) :=
  let arr := words.toArray
  let ws := fun a => arr.getD a 0
  let places := mReach size ws mFuel (entries.map fun a => { a := a, stack := [], done := false }) []
  (List.range size).findSome? fun a =>
    let ps := places.filter fun p => p.a == a
    let w := ws a
    if mCmt w && (if ps.isEmpty then [{ a := a, stack := [], done := false }] else ps).any (tailBad size ws) then some (0x15, a)
    else if ps.any (stackBad w) then some (0x16, a)
    else if mf w 54 53 == 2 && !mCmt w && ps.any (fun p => !p.done) then some (0x17, a)
    else none

/-! ### Function slots (R211 to R234) -/

/-- The majors of R210 that are assigned, as FEAT0 shows them (R199). -/
def majorMask : Nat := 0x0000117F13F1F7FF

/-- The function slots of a major that are assigned; slot 0 for a major without fn. -/
def fnSlots (m : Nat) : List Nat :=
  match m with
  | 0x00 => List.range 13
  | 0x01 => [0, 1, 2, 3, 4, 8, 9, 10, 11, 12, 16, 17, 18, 19, 0x18, 0x19, 0x1A, 0x20, 0x21, 0x22, 0x23, 0x28, 0x29, 0x2A,
      0x2B, 0x30, 0x31, 0x32]
  | 0x05 => List.range 4
  | 0x0A => List.range 4
  | 0x0C => List.range 7
  | 0x0D => List.range 5
  | 0x0E => [0, 1, 2, 4, 5, 6]
  | 0x0F => [0, 1, 2, 4, 5, 6]
  | 0x10 => List.range 7
  | 0x16 => List.range 3
  | 0x18 => List.range 4
  | 0x1C => [0, 1]
  | 0x20 => [0, 1]
  | 0x21 => [0, 1]
  | 0x22 => [0, 1]
  | 0x23 => [0, 1]
  | 0x24 => List.range 8
  | 0x25 => List.range 9
  | 0x28 => List.range 3
  | 0x2C => List.range 6
  | _ => if majorMask.testBit m then [0] else []

/-- The routine entries of a Ferry store: words 0 to 2, and base(m) + fn for each assigned slot (R259). -/
def ferryEntries (bases : List Nat) : List Nat :=
  [0, 1, 2] ++ (List.range 64).flatMap fun m => (fnSlots m).map fun f => bases.getD m 0 + f

/-! ### The extension region (R282, R287) -/

/-- The null extension word: nac 4, wsel 127, every other field zero apart from ecc. -/
def isNullWord (w : Nat) : Bool := mf w 135 0 == 4 <<< 132 + 127 <<< 105

/-- Are the fields of an extension word at address `a` as R287 allows? -/
def extWordOk (a w : Nat) : Bool :=
  let nac := mf w 135 132
  let t := mf w 131 120
  let src := fun x => x == 0 || (8 ≤ x && x ≤ 0x19)
  [0, 1, 2, 4].contains nac && (!(nac == 1 || nac == 2) || (3585 ≤ t && a < t))
    && src (mf w 97 92) && src (mf w 91 86) && (mf w 85 80 == 0 || (8 ≤ mf w 85 80 && mf w 85 80 ≤ 0x17))
    && mf w 72 64 == 0 && mf w 63 60 == 0 && mf w 55 48 == 0 && mf w 111 105 == 127 && mf w 104 104 == 0

/-- The length of the longest path from each word of the region, from address `a` on; a path that runs off the store has
length 100. -/
def extLengths : Nat → List Nat → Table Nat
  | _, [] => []
  | a, w :: t =>
    let l := extLengths (a + 1) t
    let at' := fun x => Table.get 100 l x
    (a, match mf w 135 132 with
        | 0 => 1 + at' (a + 1)
        | 1 => 1 + at' (mf w 131 120)
        | 2 => 1 + max (at' (a + 1)) (at' (mf w 131 120))
        | _ => 1) :: l

/-- The first word of the region that breaks R287. -/
def extReason (region : List Nat) : Option Nat :=
  let l := extLengths 3584 region
  (region.zipIdx.find? fun e => !extWordOk (3584 + e.2) e.1 || 32 < Table.get 100 l (3584 + e.2)).map fun e => 3584 + e.2

end Sys2Proof.Machine
end

