-- ==== Sys2Proof/Config.lean ====
section
/-!
DEFINITION. What the spec leaves free. Each constant is opaque: it has no body, nothing evaluates it, and a claim about a
state that holds one of these values holds for every value. `State.free` counts the draws, so that every draw is a value
of its own (log entry 3).
-/
namespace Sys2Proof.Config

/-- A value the spec leaves open, drawn at count `n` (log entry 3). -/
opaque freeWord (n : Nat) : W64
/-- A choice the spec leaves open, drawn at count `n` (log entry 3). -/
opaque freeBit (n : Nat) : Bool
/-- A byte of storage whose content the spec does not document, at offset `a`, drawn at count `n` (log entry 3). -/
opaque freeByte (n a : Nat) : Byte
/-- The hashes of Tsuist's keys A (false) and B (true), fixed in the block's ROM (R283): byte `i` (log entry 3). -/
opaque romHash (b : Bool) (i : Nat) : Byte
/-- The content of the compressed block that the compressor offers for chunk `i` of the stretch `l` at a level, with or without
flags.chk (R149, R151, log entry 3). -/
opaque zstdBlock (l : List Byte) (level : Nat) (chk : Bool) (i : Nat) : List Byte

end Sys2Proof.Config
end

