-- ==== Sys2Proof/Machine/State.lean ====
section
/-!
DEFINITION. The state of the block as plain data: everything the spec gives the machine, with the queue of the commands
that wait, and the state after reset. Host-window registers that only hold a value stand in `State.hregs` by window
offset; every other register is computed from the field that holds its meaning. A Boolean `north` is true for the North
bank.
-/
namespace Sys2Proof.Machine

/-- Why a step stops with a fault. Nothing in this model's meanings faults on data of the machine: a happening that cannot
occur changes nothing instead (log entry 2). -/
inductive Fault where
  /-- Raised by the meaning of NOP when the word it is given is the encoding of another row of the table: that row, and
  not NOP, is the command. Safe: the run stops, and no claim about it can be false of the block. -/
  | wordOfAnotherRow
  deriving DecidableEq, Repr

/-- Why a command is turned away without a meaning. -/
inductive Refusal where
  /-- A command this model gives no meaning to. Safe: nothing is claimed about it. -/
  | notModelled (mnemonic : String)
  deriving DecidableEq, Repr

/-- FLAGS (R172). -/
structure Flags where
  /-- Carry. -/
  c : Bool
  /-- Signed overflow. -/
  v : Bool
  /-- Zero. -/
  z : Bool
  /-- Bit 63 of the result. -/
  n : Bool
  /-- Sticky divide-by-zero. -/
  dz : Bool
  deriving DecidableEq, Repr

/-- FLAGS at reset: every bit 0 (R172). -/
def Flags.reset : Flags := { c := false, v := false, z := false, n := false, dz := false }

/-- One level of the loop stack (R170, R186): offsets in S0 of its start and end, and its count. -/
structure Loop where
  /-- First instruction of the body. -/
  start : W32
  /-- End instruction. -/
  stop : W32
  /-- Iterations left. -/
  count : W32
  deriving DecidableEq, Repr

/-- A segment: base and attribute register (R176). -/
structure Seg where
  /-- Block address of offset 0. -/
  base : W48
  /-- Highest valid offset. -/
  limit : W32
  /-- World field: true names the North bank. -/
  north : Bool
  /-- Fetch right. -/
  x : Bool
  /-- Store right. -/
  w : Bool
  /-- Load right. -/
  r : Bool
  deriving DecidableEq, Repr

/-- A segment whose two registers are zero. -/
def Seg.zero : Seg := { base := 0, limit := 0, north := false, x := false, w := false, r := false }

/-- An open LOCK hold (R182): the Pontoon word held and the instructions executed since. -/
structure Lock where
  /-- Block address of the 64-byte word, divided by 64. -/
  word : Nat
  /-- Instructions executed under the hold. -/
  count : Nat
  deriving DecidableEq, Repr

/-- The sample record of a Berth (R509, R511). -/
structure Sample where
  /-- SMP_INFO.valid. -/
  valid : Bool
  /-- SMP_INFO.class. -/
  cls : BitVec 4
  /-- SMP_INFO.addr. -/
  addrF : Bool
  /-- SMP_INFO.counter. -/
  counter : BitVec 3
  /-- SMP_PC. -/
  pc : W32
  /-- SMP_ADDR. -/
  addr : W48
  /-- The interrupt of this sample is not yet delivered: SMP_PC is still to be written. -/
  due : Bool
  deriving DecidableEq, Repr

/-- The sample record at reset. -/
def Sample.reset : Sample :=
  { valid := false, cls := 0, addrF := false, counter := 0, pc := 0, addr := 0, due := false }

/-- The context of a Berth (R170, R301): its whole architectural state. -/
structure Ctx where
  /-- General registers: keys 1 to 29 and 31 are G1 to G29 and G31, key 30 the user copy of G30, key 32 its supervisor
  copy. An absent key is 0. -/
  g : Table W64
  /-- Program counter: offset in S0. -/
  pc : W32
  /-- Predicates P1 to P7 in bits 1 to 7; bit 0 is not used. -/
  p : BitVec 8
  /-- FLAGS. -/
  flags : Flags
  /-- Loop stack, innermost level first. -/
  loops : List Loop
  /-- S0 to S7; an absent key is the zero segment. -/
  segs : Table Seg
  /-- STATUS.world: true while in the North bank. -/
  north : Bool
  /-- STATUS.home: true for a North-home Berth. -/
  home : Bool
  /-- STATUS.gate. -/
  gate : Bool
  /-- STATUS.slack. -/
  slack : Bool
  /-- STATUS.level: true at supervisor level. -/
  sup : Bool
  /-- STATUS.ipl. -/
  ipl : BitVec 4
  /-- STATUS.ie. -/
  ie : Bool
  /-- STATUS.dzt. -/
  dzt : Bool
  /-- INT_PEND. -/
  intPend : BitVec 6
  /-- INT_ROUTE. -/
  intRoute : BitVec 24
  /-- TIMER_CMP. -/
  timerCmp : W64
  /-- The timer has not fired since TIMER_CMP was last written. -/
  timerArmed : Bool
  /-- WDOG_LIM. -/
  wdogLim : W32
  /-- Remaining ticks of the Berth watchdog. -/
  wdogRem : W32
  /-- The Berth watchdog has expired and cause 0x0E is not yet taken. -/
  wdogPend : Bool
  /-- The timebase count at that expiry. -/
  wdogAt : W64
  /-- BCVAL. -/
  bcval : W64
  /-- Configurations of CNT0 to CNT7. -/
  cntCfg : Table W64
  /-- Values of CNT0 to CNT7. -/
  cntVal : Table W48
  /-- Sample registers. -/
  smp : Sample
  /-- Custody mark (R492). -/
  custody : Bool
  /-- Results of the loads of the last instruction, not yet visible (R188): register key and value. -/
  late : List (Nat × W64)
  /-- Register keys that the instruction under way has written. -/
  wrote : List Nat
  /-- Ticks left of the open slack-water window. -/
  slackRem : Nat
  /-- The limit closed a window and no exception has been taken since (marks bit 0, R256). -/
  slackMark : Bool
  /-- An open LOCK hold. -/
  lock : Option Lock
  /-- A long instruction is in progress at the PC (marks bit 2). -/
  long : Bool
  /-- A loop depth above 4 written to the context (R301). -/
  badDepth : Option Byte
  /-- The 48 bytes of the loop stack as last written to the context: what its unused levels read as. -/
  loopTail : List Byte
  /-- Source of each segment attribute written to the context since it was last loaded: judged at the load (R301). -/
  segSrc : Table Nat
  /-- The wait record of the context (R301). -/
  waitRec : List Byte
  /-- The microcode working state, bytes 648 to 1,023 of the context, as saved at the last switch-out; bytes past its end are 0. The
  custody mark has its own field (R492). -/
  work : List Byte
  deriving DecidableEq, Repr

/-- A context of zeros: what cold, block and Span resets leave (R451). -/
def Ctx.zero : Ctx :=
  { g := [], pc := 0, p := 0, flags := Flags.reset, loops := [], segs := [], north := false, home := false,
    gate := false, slack := false, sup := false, ipl := 0, ie := false, dzt := false, intPend := 0, intRoute := 0,
    timerCmp := 0, timerArmed := false, wdogLim := 0, wdogRem := 0, wdogPend := false, wdogAt := 0, bcval := 0, cntCfg := [],
    cntVal := [], smp := Sample.reset, custody := false, late := [], wrote := [], slackRem := 0, slackMark := false,
    lock := none, long := false, badDepth := none, loopTail := [], segSrc := [], waitRec := [], work := [] }

/-- The gate save area of a Berth, with the state of the gate in progress (R251, R252). -/
structure GateSave where
  /-- The caller's context, its PC already past the TRAP. -/
  caller : Ctx
  /-- n of the TRAP. -/
  n : BitVec 8
  /-- Gate frame address. -/
  frame : W64
  /-- Ticks spent in the gate. -/
  ticks : Nat
  /-- Cause 0x11 is due and not yet taken. -/
  due : Bool
  /-- Cause 0x11 has been raised in this gate. -/
  raised : Bool
  deriving DecidableEq, Repr

/-- States of a Berth (R296). -/
inductive BerthSt where
  /-- Code 0. -/
  | idle
  /-- Code 1. -/
  | ready
  /-- Code 2. -/
  | running
  /-- Code 3. -/
  | waiting
  /-- Code 4. -/
  | parked
  /-- Code 5. -/
  | aground
  deriving DecidableEq, Repr

/-- What a KEY or PK operation of a Berth is waiting for (R231, R232, R390). -/
inductive KeyPhase where
  /-- The operation is complete: the registers it writes when the instruction retires. -/
  | done (outs : List (Nat × W64))
  /-- It waits for random bits, for its engine or for memory; `pk` tells PK from KEY, `fn` is the function. -/
  | drbg (pk : Bool) (fn : Nat)
  /-- Its result, bytes `l` for address `a`, waits to be written; then `slot` is loaded with `key`, where the function loads one. -/
  | write (pk : Bool) (fn : Nat) (a : W64) (l : List Byte) (slot : Nat) (key : List Byte)
  /-- It has been made, and waits for the Mirror's acknowledgement of Viaduct item `seq`. -/
  | ack (seq : Nat) (outs : List (Nat × W64))
  deriving DecidableEq, Repr

/-- What a waiting Berth, or an instruction held on its Ferry, waits for (R296). -/
inductive Wait where
  /-- Nothing. -/
  | none
  /-- issue.W: the done bit of a job of unit `e`; the instruction retires when the bit is 1. -/
  | unit (e : Engine) (bit : BitVec 18)
  /-- WAIT on a B-space bit. -/
  | bit (a : BitVec 18)
  /-- WAITT on a B-space bit, with deadline and result predicate. -/
  | bitT (a : BitVec 18) (deadline : W64) (pd : BitVec 3)
  /-- BAR on a group; `freed` holds the result once the barrier has released. -/
  | bar (grp : BitVec 4) (pd : BitVec 3) (freed : Option Bool)
  /-- CKPT; `freed` holds the result once the checkpoint is taken or lost. -/
  | ckpt (pd : BitVec 3) (seq : Nat) (freed : Option Bool)
  /-- A KEY or PK operation. -/
  | key (ph : KeyPhase)
  /-- RND: destination and status registers. -/
  | rnd (rd rb : BitVec 5)
  /-- POST: waits for room in the outbound buffer. -/
  | post
  /-- TFENCE: waits on its Ferry for the accesses checked under an epoch older than this one (R354). -/
  | fence (e : W32)
  deriving DecidableEq, Repr

/-- A Berth: its context and what the Pilot keeps for it (R170, R296, R300). BTE_CTL, the ring's base and q, and the
credit marks stand among the host registers. -/
structure Berth where
  /-- State. -/
  st : BerthSt
  /-- The live context. -/
  ctx : Ctx
  /-- The context as of the last switch-out: what a read of the Berth store returns while the Berth is ready, running or
  waiting (R301). -/
  img : Ctx
  /-- The Ferry that holds it, while running. -/
  ferry : Option FerryNo
  /-- Wait record. -/
  wait : Wait
  /-- Gate in progress. -/
  gate : Option GateSave
  /-- Ticks since switch-in. -/
  quantum : Nat
  /-- The Pilot has requested its switch-out (R303). -/
  switchReq : Bool
  /-- A PARK or STOP that waits for the Berth's next dispatch (R297). -/
  cmd : Option BerthSt
  /-- Ticks at which it was placed on its Ferry: among equals the Pilot pre-empts the longest there (R303). -/
  heldSince : Nat
  /-- BTE_RING.prod. -/
  prod : Nat
  /-- BTE_RING.cons. -/
  cons : Nat
  /-- Bytes granted since the last START. -/
  granted : Nat
  /-- Bytes received since the last START. -/
  received : Nat
  /-- Bytes consumed since the last START. -/
  consumed : Nat
  /-- BTE_CREDIT.grants. -/
  grants : W32
  /-- BTE_STAT.drops. -/
  drops : BitVec 16
  /-- BTE_STAT.refused. -/
  refused : Bool
  /-- BTE_STAT.acause. -/
  acause : Byte
  /-- Ticks at which the Berth last left a Ferry; the extension vectors of R286 are shown the difference. -/
  lastRun : Nat
  deriving DecidableEq, Repr

/-- A Berth after cold or block reset (R300, R451). -/
def Berth.reset : Berth :=
  { st := .idle, ctx := Ctx.zero, img := Ctx.zero, ferry := none, wait := .none, gate := none, quantum := 0,
    switchReq := false, cmd := none, heldSince := 0, prod := 0, cons := 0, granted := 0, received := 0, consumed := 0,
    grants := 0, drops := 0, refused := false, acause := 0, lastRun := 0 }

/-- One lifeboat set (R247, R248). -/
structure Lifeboat where
  /-- The 128 bytes of LB0 to LB15. -/
  frame : List Byte
  /-- LB_CTL.berth. -/
  berth : BitVec 10
  /-- LB_CTL.pcause. -/
  pcause : BitVec 6
  /-- LB_CTL.occ. -/
  occ : Bool
  /-- LB_ADDR. -/
  addr : W64
  deriving DecidableEq, Repr

/-- A lifeboat set at reset: every register 0 (R248; LB0 to LB15 have no stated reset value, log entry 4). -/
def Lifeboat.reset : Lifeboat := { frame := zeros 128, berth := 0, pcause := 0, occ := false, addr := 0 }

/-- The AGROUND record of a Ferry (R249). -/
structure AgroundRec where
  /-- PC at the fault. -/
  pc : W32
  /-- Berth that was running. -/
  berth : BitVec 10
  /-- The fault occurred in bare mode. -/
  bare : Bool
  /-- World of the Berth: true for North. -/
  north : Bool
  /-- Cause. -/
  cause : BitVec 6
  /-- 1 while the Ferry is aground. -/
  aground : Bool
  deriving DecidableEq, Repr

/-- The AGROUND record at reset. -/
def AgroundRec.reset : AgroundRec := { pc := 0, berth := 0, bare := false, north := false, cause := 0, aground := false }

/-- Halt state of a Ferry (R488, R495). -/
inductive HaltSt where
  /-- Not halted. -/
  | run
  /-- A halt has reached the Ferry and has not taken effect. -/
  | halting
  /-- Halted. -/
  | halted
  deriving DecidableEq, Repr

/-- Test state of one copy of a control store (R279, R294). -/
structure CStore where
  /-- Next row of the background test. -/
  next : Nat
  /-- Rows remapped to spares. -/
  spares : List Nat
  /-- The row for which the shadow stays mapped, once no spare is left. -/
  shadow : Option Nat
  /-- Words marked poisoned. -/
  poison : List Nat
  /-- Wrong bits by word: positions 1 to 144 of R261, and 0 for the parity bit held beside the word. -/
  flips : Table (List Nat)
  /-- Tick clock at the last row of the test. -/
  since : Nat
  deriving DecidableEq, Repr

/-- A control store with no repairs. -/
def CStore.reset : CStore := { next := 0, spares := [], shadow := none, poison := [], flips := [], since := 0 }

/-- The machinery that runs a Ferry's microwords (R260 to R278): what a routine has of its own until it is dispatched again. -/
structure Micro where
  /-- Word under way. -/
  upc : Nat
  /-- T0 to T15. -/
  t : Table W64
  /-- MA, the memory address. -/
  ma : W64
  /-- MD out, the store data. -/
  mdOut : W64
  /-- MD, the last load data. -/
  md : W64
  /-- UR, the unit result register. -/
  ur : W64
  /-- UDA, the unit descriptor address. -/
  uda : W64
  /-- UL0 to UL3. -/
  ul : Table W64
  /-- Micro flag uc. -/
  uc : Bool
  /-- Micro flag uv. -/
  uv : Bool
  /-- Micro flag uz. -/
  uz : Bool
  /-- Micro flag un. -/
  un : Bool
  /-- Result of the last word. -/
  res : W64
  /-- Micro-stack, top first. -/
  stack : List Nat
  /-- Frame buffer, doublewords 0 to 15. -/
  frame : Table W64
  /-- Multiplier result: low, high. -/
  mul : W64 × W64
  /-- Divider result: quotient, remainder. -/
  quot : W64 × W64
  /-- Condition codes 32 to 111 that have been met and on which no word has acted (R265). -/
  met : List Nat
  /-- The commit word of the routine under way has acted. -/
  committed : Bool
  deriving DecidableEq, Repr

/-- A Ferry between routines: nothing of a routine is left. -/
def Micro.reset : Micro :=
  { upc := 0, t := [], ma := 0, mdOut := 0, md := 0, ur := 0, uda := 0, ul := [], uc := false, uv := false, uz := false, un := false,
    res := 0, stack := [], frame := [], mul := (0, 0), quot := (0, 0), met := [], committed := false }

/-- A Ferry (R249, R204, R488). -/
structure Ferry where
  /-- The Berth it holds. -/
  berth : Option BerthNo
  /-- Aground record. -/
  agr : AgroundRec
  /-- A refloat is under way. -/
  refloat : Bool
  /-- Local data, as cells at 0 to 0x7FFF; an unlisted byte reads 0 (R204). -/
  localMem : List Host.Cell
  /-- Lifeboat set of the South bank. -/
  lbS : Lifeboat
  /-- Lifeboat set of the North bank. -/
  lbN : Lifeboat
  /-- Halt state. -/
  halt : HaltSt
  /-- Halt cause of RUNSTAT. -/
  hcause : BitVec 4
  /-- The next dispatch is the first after a release: no breakpoint matches (R494). -/
  skipBrk : Bool
  /-- A STEP is under way: the Ferry halts again after its next dispatch. -/
  step : Bool
  /-- The STEP under way takes no interrupt. -/
  stepMask : Bool
  /-- A Ferry reset waits for the next dispatch (R452). -/
  resetReq : Bool
  /-- Value of the tick clock at which TICK was 0 (R500). -/
  tickBase : Nat
  /-- A wait for a held word has been counted for the access under way (R503). -/
  lockWait : Bool
  /-- Control store. -/
  cs : CStore
  /-- Saturating count of corrected control-store errors (R279, R473). -/
  csErr : W32
  /-- Instruction buffer, 256 lines of 64 bytes (R17, R235): the address of the program-store line that each last held, whether it
  still holds it, and its bytes. -/
  ibuf : Table (Nat × Bool × List Byte)
  /-- Microengine. -/
  micro : Micro
  deriving DecidableEq, Repr

/-- A Ferry after cold or block reset. -/
def Ferry.reset : Ferry :=
  { berth := none, agr := AgroundRec.reset, refloat := false, localMem := [], lbS := Lifeboat.reset,
    lbN := Lifeboat.reset, halt := .run, hcause := 0, skipBrk := false, step := false, stepMask := false,
    resetReq := false, tickBase := 0, lockWait := false, cs := CStore.reset, csErr := 0, ibuf := [], micro := Micro.reset }

/-- Registers that each world of a Span has of its own (R238, R252, R256). -/
structure WorldRegs where
  /-- VBAR bits [31:12]. -/
  vbar : W32
  /-- GATE_EN. -/
  gateEn : W32
  /-- GATE_SP. -/
  gateSp : W32
  /-- GATE_LIM. -/
  gateLim : W32
  /-- GATE_SBASE and GATE_SATTR. -/
  gateSegs : Table Seg
  /-- SLACK_LIM. -/
  slackLim : BitVec 14
  /-- SLACK_STAT. -/
  slackStat : W32
  deriving DecidableEq, Repr

/-- World registers at reset (R238, R252, R256). -/
def WorldRegs.reset : WorldRegs :=
  { vbar := 0, gateEn := 0, gateSp := 0, gateLim := 100000, gateSegs := [], slackLim := 2000, slackStat := 0 }

/-- One Tollgate region (R344). -/
structure Region where
  /-- First page. -/
  base : BitVec 36
  /-- Last page. -/
  last : BitVec 36
  /-- TOLL_ATTR bits [15:0]. -/
  attr : BitVec 16
  deriving DecidableEq, Repr

/-- A Tollgate region of a world at reset (R344): excl 0 in the South, 1 in the North. -/
def Region.reset (w : World) : Region :=
  { base := 0, last := 0, attr := match w with | .south => 0x1C00 | .north => 0x5C00 }

/-- One world's side of a Span's Tollgate (R344, R354, R358). -/
structure Toll where
  /-- Staged regions. -/
  staged : Table Region
  /-- Active regions. -/
  active : Table Region
  /-- The set taken by the commit in progress. -/
  taken : Table Region
  /-- TOLL_CSTAT.reason. -/
  reason : BitVec 4
  /-- TOLL_CSTAT.refused. -/
  refused : Bool
  /-- TOLL_CSTAT.pending. -/
  pending : Bool
  /-- TOLL_CSTAT.busy. -/
  busy : Bool
  /-- TOLL_VADDR.valid. -/
  vValid : Bool
  /-- TOLL_VADDR.address. -/
  vAddr : W48
  /-- TOLL_VREC. -/
  vRec : W64
  /-- TOLL_VCOUNT. -/
  vCount : W32
  deriving DecidableEq, Repr

/-- One world's side of a Tollgate at reset. -/
def Toll.reset : Toll :=
  { staged := [], active := [], taken := [], reason := 0, refused := false, pending := false, busy := false,
    vValid := false, vAddr := 0, vRec := 0, vCount := 0 }

/-- What a job that has begun and is not finished has reached, at an input-cell boundary (R81): the reads that it has made and, under
their results, everything it has done (log entry 84). -/
structure Prog where
  /-- What its reads and choices gave, oldest first; an empty list marks a boundary passed. -/
  memo : List (List Byte)
  /-- Outputs of which a part has been accumulated: address and bytes. -/
  parts : List (Nat × Nat)
  /-- What it reads and keeps, and where it writes (R74). -/
  ranges : List (Nat × Nat)
  /-- Index of the cell it comes to next, which the Seal unit saves (R132). -/
  next : Nat
  /-- It has been put aside, and must read its context area back. -/
  aside : Bool
  deriving DecidableEq, Repr

/-- How a job whose work is done waits to complete: for its last frame or an ACK (R334, R385), for the earlier jobs of its Berth and
class (R80), or for the status record's word. -/
structure Await where
  /-- Status. -/
  status : Nat
  /-- Detail. -/
  detail : Nat
  /-- Bytes 4 to 29 of the record. -/
  mid : List Byte
  /-- Clamps. -/
  clamps : Nat
  /-- The status record's address passed its check. -/
  recOk : Bool
  /-- Nothing but the order of completions and the record's word is waited for. -/
  ready : Bool
  deriving DecidableEq, Repr

/-- A job accepted by a unit or the Tender (R60, R71, R79). -/
structure Job where
  /-- The issuing Berth. -/
  berth : BerthNo
  /-- World of the issuing Berth at acceptance (R341): true for North. -/
  north : Bool
  /-- Level of the issuing Berth at acceptance. -/
  sup : Bool
  /-- The descriptor as read at issue. -/
  desc : List Byte
  /-- The geometries that the job's geometry indices named at acceptance. -/
  geos : List (List Byte)
  /-- Acceptance order within the unit. -/
  seq : Nat
  /-- The unit has begun the job. -/
  started : Bool
  /-- The job has done its work and waits to complete. -/
  await : Option Await
  /-- Its progress, once it has begun. -/
  prog : Option Prog
  /-- Ranges that stores of firmware have written since its issue (R73). -/
  touched : List (Nat × Nat)
  deriving DecidableEq, Repr

/-- The scheduler of one unit (R80, R81). -/
structure UnitSched where
  /-- Jobs accepted and not complete, oldest first. -/
  jobs : List Job
  /-- Jobs accepted from each Berth of the Span, modulo 2^32 (R228). -/
  accepted : Table W32
  /-- The job under way on each pipe of the unit (R168), by its acceptance order. -/
  current : Table Nat
  /-- The Berth to which the unit last turned (R80). -/
  lastRR : Nat
  /-- The Berth whose turn it is, by side and class (R80): its number within the Span. -/
  turn : Table Nat
  /-- Deficit of each Berth, by side, class and Berth (R80), in bytes, or for the Seal unit in cells (R132). -/
  deficit : Table Nat
  /-- Next acceptance order. -/
  nextSeq : Nat
  deriving DecidableEq, Repr

/-- A unit with no jobs. -/
def UnitSched.reset : UnitSched :=
  { jobs := [], accepted := [], current := [], lastRR := 63, turn := [], deficit := [], nextSeq := 0 }

/-- A Hash stream that a job has left open in its context area (R162). -/
structure HashStream where
  /-- Operation code. -/
  op : Nat
  /-- The bytes absorbed. -/
  msg : List Byte
  /-- Key of a KMAC256 stream, as given in its first job. -/
  key : List Byte
  /-- Customisation string of a KMAC256 stream, as given in its first job. -/
  custom : List Byte
  /-- The context area has been written by somebody else since: the check value fails. -/
  damaged : Bool
  deriving DecidableEq, Repr

/-- A suspended Deflate stream, kept in its context area (R156). -/
structure DeflStream where
  /-- The input that earlier jobs consumed. -/
  input : List Byte
  /-- Output bytes delivered. -/
  outDone : Nat
  /-- Where the earlier jobs' output lies, oldest first: buffer address, cell stride, bytes. -/
  hist : List (Nat × Bool × Nat)
  /-- The context area has been written by somebody else since. -/
  damaged : Bool
  deriving DecidableEq, Repr

/-- Test state of a Span's Pontoon (R328, R329). -/
structure PonTest where
  /-- Next row of the background test. -/
  next : Nat
  /-- Rows remapped to spares. -/
  spares : List Nat
  /-- The row for which the shadow stays mapped, once no spare is left. -/
  shadow : Option Nat
  /-- Tick clock at the last row of the test. -/
  since : Nat
  deriving DecidableEq, Repr

/-- A Pontoon with no repairs. -/
def PonTest.reset : PonTest := { next := 0, spares := [], shadow := none, since := 0 }

/-- A Span: the registers, queues and tables its Pilot, units and Tollgate hold. -/
structure Span where
  /-- Per-world registers of the South bank. -/
  south : WorldRegs
  /-- Per-world registers of the North bank. -/
  north : WorldRegs
  /-- FERRY_SEL. -/
  ferrySel : Byte
  /-- Set bits of the South B-space, in rising order. -/
  bitsS : List Nat
  /-- Set bits of the North B-space, in rising order. -/
  bitsN : List Nat
  /-- Ready queues of priorities 0 to 3, head first. -/
  ready : Table (List BerthNo)
  /-- Tollgate, South side. -/
  tollS : Toll
  /-- Tollgate, North side. -/
  tollN : Toll
  /-- TOLL_EPOCH. -/
  epoch : W32
  /-- TOLL_FENCE.epoch. -/
  fenceEpoch : W32
  /-- TOLL_FENCE.pending. -/
  fencePend : Bool
  /-- Geometry table: index to descriptor (R51). -/
  geos : Table (List Byte)
  /-- Schedulers of the Truss, Seal, compression and Hash units and the Tender, by engine number 0 to 4. -/
  units : Table UnitSched
  /-- Hash streams by context address. -/
  hashes : Table HashStream
  /-- Deflate streams by context address. -/
  deflates : Table DeflStream
  /-- Background test of the Pontoon. -/
  pon : PonTest
  /-- The Pilot has a fault (R279). -/
  pilotFault : Bool
  /-- The two copies of the Pilot's control store. -/
  cs0 : CStore
  /-- The second copy. -/
  cs1 : CStore
  /-- Saturating count of corrected control-store errors of the Pilot. -/
  csErr : W32
  /-- The last Berth served in the round robin of credit (R310). -/
  lastGrant : Nat
  deriving DecidableEq, Repr

/-- A Span after cold or block reset. -/
def Span.reset : Span :=
  { south := WorldRegs.reset, north := WorldRegs.reset, ferrySel := 0, bitsS := [], bitsN := [], ready := [],
    tollS := Toll.reset, tollN := Toll.reset, epoch := 0, fenceEpoch := 0, fencePend := false, geos := [], units := [],
    hashes := [], deflates := [], pon := PonTest.reset, pilotFault := false, cs0 := CStore.reset, cs1 := CStore.reset,
    csErr := 0, lastGrant := 63 }

/-- The timebase (R21, R431, R432). -/
structure Timebase where
  /-- The timebase count. -/
  count : W64
  /-- The armed load, if any. -/
  armed : Option W64
  /-- No edge arrives: the count holds. -/
  lost : Bool
  /-- Ticks that have passed since cold reset, whatever loads did to the count: what elapsed intervals are measured on
  (R434). -/
  ticks : Nat
  deriving DecidableEq, Repr

/-- Power states (R442). -/
inductive PowerSt where
  /-- Code 1. -/
  | underWay
  /-- Code 2. -/
  | holding
  /-- Code 3. -/
  | moored
  /-- Code 4. -/
  | laidUp
  deriving DecidableEq, Repr

/-- What a power sequence does when its last supply line is acknowledged (R443 to R449). -/
inductive PowerEnd where
  /-- The block is Moored. -/
  | moored
  /-- The block is Laid up. -/
  | laidUp
  /-- The logic is restored from retention, and the ports follow (R446 step 3). -/
  | restored
  /-- The wake is complete (R446 step 5). -/
  | woken
  /-- The supplies of a cold start are up (R449 step 1). -/
  | started
  deriving DecidableEq, Repr

/-- Power control (R440 to R447, R464). -/
structure Power where
  /-- The state. -/
  st : PowerSt
  /-- The transition in progress, if any: its target. -/
  target : Option PowerSt
  /-- POWER_STAT.reason. -/
  reason : Byte
  /-- POWER_REQ. -/
  req : BitVec 4
  /-- POWER_ACK. -/
  ack : BitVec 4
  /-- Lines still to be driven, with their level, and what follows the last. -/
  seq : List (Nat × Bool)
  /-- What follows the last line of the sequence under way. -/
  fin : Option PowerEnd
  /-- Emulated state, coded as POWER_CMD (R497). -/
  emul : BitVec 3
  /-- AO_PWR_GOOD. -/
  good : Bool
  deriving DecidableEq, Repr

/-- What an OTP access in progress is for (R284, R285, R438, R449, R458). -/
inductive OtpJob where
  /-- COMMIT_VERSION. -/
  | commitVersion
  /-- ENROLL. -/
  | enroll
  /-- A life-cycle word. -/
  | lifeCycle
  deriving DecidableEq, Repr

/-- Life cycle and OTP (R284, R285, R438, R439, R456 to R459). -/
structure LifeCycle where
  /-- LC_STATE as the carrier presents it. -/
  pin : BitVec 3
  /-- LC_STATE as the carrier presents it once the OTP write of the change under way is done. -/
  pinNext : BitVec 3
  /-- The wipe-pending latch, with its target. -/
  latch : Option (BitVec 3)
  /-- LC_STAT.mismatch. -/
  mismatch : Bool
  /-- LC_STAT.otp_err. -/
  otpErr : Bool
  /-- LC_STAT.last. -/
  last : Byte
  /-- State in force. -/
  state : BitVec 3
  /-- LC_REQ of a change is still high: LC_ACK is owed. -/
  req : Bool
  /-- OTP words by address. -/
  otp : Table W32
  /-- OTP writes still to make, the one under way first: what each is for, its address and value. -/
  writes : List (OtpJob × Nat × W32)
  /-- Tick clock at the start of the OTP access under way. -/
  since : Nat
  deriving DecidableEq, Repr

/-- Tamper registers and hold (R460 to R464). -/
structure Tamper where
  /-- LC_STAT.tamper_hold. -/
  hold : Bool
  /-- TAMPER_STAT.lines. -/
  lines : Byte
  /-- TAMPER_STAT.keyin. -/
  keyin : Bool
  /-- TAMPER_STAT.timeout. -/
  timeout : Bool
  /-- TAMPER_STAT.dualrail. -/
  dualrail : Bool
  /-- TAMPER_TIME. -/
  time : W64
  /-- Event 1,347 is still to be raised, with this code, at the next wake (R463). -/
  owed : Option Nat
  deriving DecidableEq, Repr

/-- Tamper registers after cold reset. -/
def Tamper.reset : Tamper := { hold := false, lines := 0, keyin := false, timeout := false, dualrail := false, time := 0, owed := none }

/-- One entry of the event FIFO (R317, R318). -/
structure EvEntry where
  /-- Source, 0 to 1,375. -/
  source : Nat
  /-- Code of the first event. -/
  code : Nat
  /-- Events coalesced, 1 to 127. -/
  count : Nat
  /-- Low 32 bits of the timebase count of the first event. -/
  time : W32
  deriving DecidableEq, Repr

/-- One entry of the clamp log (R479). -/
structure ClampEntry where
  /-- Field id (R480). -/
  field : W32
  /-- Kind. -/
  kind : Nat
  /-- Source. -/
  source : Nat
  /-- Written value. -/
  written : W64
  /-- Applied value. -/
  applied : W64
  /-- Timebase count when the field was judged. -/
  time : W64
  deriving DecidableEq, Repr

/-- Aggregator and clamp log (R317, R481). -/
structure Logs where
  /-- Event FIFO, head first. -/
  fifo : List EvEntry
  /-- Clamp log, head first. -/
  clamps : List ClampEntry
  /-- CLAMP_STAT.lost. -/
  lost : Nat
  /-- CLAMP_COUNT. -/
  count : Nat
  deriving DecidableEq, Repr

/-- Empty logs. -/
def Logs.reset : Logs := { fifo := [], clamps := [], lost := 0, count := 0 }

/-- State of a Keystone slot (R112, R229). -/
inductive SlotSt where
  /-- Empty. -/
  | empty
  /-- Loaded. -/
  | loaded
  /-- Erasing. -/
  | erasing
  deriving DecidableEq, Repr

/-- A Keystone slot (R104 to R114). -/
structure KeySlot where
  /-- State. -/
  st : SlotSt
  /-- Kind. -/
  kind : Nat
  /-- Key id. -/
  keyId : W64
  /-- Instance number. -/
  inst : W32
  /-- Key material. -/
  key : List Byte
  /-- The erase record: key id and instance of the last key erased, when one is held. -/
  erec : Option (W64 × W32)
  /-- The key came from the Lead by mirroring. -/
  mirrored : Bool
  deriving DecidableEq, Repr

/-- An empty slot. -/
def KeySlot.empty : KeySlot :=
  { st := .empty, kind := 0, keyId := 0, inst := 0, key := [], erec := none, mirrored := false }

/-- A live ticket (R115 to R118). -/
structure Ticket where
  /-- Slot. -/
  slot : Nat
  /-- Instance of the slot at issue. -/
  inst : W32
  /-- Berth. -/
  berth : Nat
  /-- Operation mask. -/
  mask : W64
  /-- Expiry, 0 for none. -/
  expiry : W64
  /-- Generation. -/
  gen : Nat
  deriving DecidableEq, Repr

/-- Keystone, tickets and receipts (R104 to R118, R135 to R137, R437). -/
structure Keystone where
  /-- Slots 0 to 4,095. -/
  slots : Table KeySlot
  /-- Live ticket entries 0 to 16,383. -/
  tickets : Table Ticket
  /-- Generation of each ticket entry. -/
  gens : Table Nat
  /-- Next instance number of each slot. -/
  insts : Table W32
  /-- Key-path transfer of K_P awaited (R437). -/
  kpWait : Bool
  /-- Tick clock since which it has been awaited. -/
  since : Nat
  /-- K_P has been taken. -/
  kpTaken : Bool
  /-- Boot nonce of receipts, once drawn (R137). -/
  nonce : Option (List Byte)
  /-- Receipts made since. -/
  receipts : Nat
  /-- Whose requests have been passed to the engines of R138, in issue order: a Berth's PK operation, or (none) those of pairing (R381). -/
  pkQueue : List (Option BerthNo)
  deriving DecidableEq, Repr

/-- A Keystone after its wipe. -/
def Keystone.reset : Keystone :=
  { slots := [], tickets := [], gens := [], insts := [], kpWait := false, since := 0, kpTaken := false, nonce := none, receipts := 0,
    pkQueue := [] }

/-- Condition of an eddy source (R360, R361, R373). -/
inductive SrcSt where
  /-- Code 0. -/
  | starting
  /-- Code 1. -/
  | enabled
  /-- Code 2. -/
  | disabled
  deriving DecidableEq, Repr

/-- An eddy source and its health tests (R360, R361). -/
structure Eddy where
  /-- Condition. -/
  st : SrcSt
  /-- A start-up test is running. -/
  testing : Bool
  /-- Samples taken in the start-up test. -/
  taken : Nat
  /-- A health test has failed in the start-up test. -/
  failed : Bool
  /-- Last sample. -/
  last : Bool
  /-- Length of the run of equal samples. -/
  run : Nat
  /-- First sample of the window. -/
  first : Bool
  /-- Samples of the window taken. -/
  win : Nat
  /-- Recurrences of the first sample in the window. -/
  recur : Nat
  /-- ENT_STAT.why. -/
  why : BitVec 2
  /-- ENT_FAILS.rct. -/
  rct : Nat
  /-- ENT_FAILS.apt. -/
  apt : Nat
  deriving DecidableEq, Repr

/-- An eddy source at the start of its start-up test. -/
def Eddy.reset : Eddy :=
  { st := .starting, testing := true, taken := 0, failed := false, last := false, run := 0, first := false, win := 0,
    recur := 0, why := 0, rct := 0, apt := 0 }

/-- Condition of the DRBG (R373). -/
inductive DrbgSt where
  /-- Code 0. -/
  | starting
  /-- Code 1. -/
  | running
  /-- Code 2. -/
  | stopped
  /-- Code 3. -/
  | locked
  deriving DecidableEq, Repr

/-- A request that waits for the DRBG (R365). -/
structure DrbgReq where
  /-- The waiting Berth. -/
  berth : BerthNo
  /-- Tick clock at its arrival. -/
  since : Nat
  /-- DRBG_TMO at its arrival. -/
  tmo : Nat
  /-- The bits that earlier requests of the same operation have drawn. -/
  got : List (List Byte)
  deriving DecidableEq, Repr

/-- Eddy sources, conditioner and DRBG (R359 to R373). -/
structure Entropy where
  /-- Source 0. -/
  e0 : Eddy
  /-- Source 1. -/
  e1 : Eddy
  /-- Samples gathered toward the next seed, oldest first. -/
  gather : List Bool
  /-- A completed seed. -/
  seed : Option (List Byte)
  /-- DRBG condition. -/
  st : DrbgSt
  /-- CTR_DRBG key. -/
  key : List Byte
  /-- CTR_DRBG V. -/
  v : List Byte
  /-- Requests served since instantiation or reseed. -/
  served : Nat
  /-- Requests waiting, in service order. -/
  waits : List DrbgReq
  /-- ENT_STAT.hstat. -/
  hstat : Byte
  /-- A retest runs. -/
  retest : Bool
  /-- The DRBG was running when that retest was made: it cannot fail (R370). -/
  retestRan : Bool
  /-- ENT_STAT.refused. -/
  refused : Bool
  /-- Tick clock at the end of each failed retest, latest first. -/
  fails : List Nat
  /-- A tamper response has stopped the DRBG until cold reset. -/
  dead : Bool
  /-- Samples gathered toward the scramble key, oldest first. -/
  raw : List Bool
  /-- The Pontoon scramble key of R319, once it is formed (R371). -/
  scramble : Option (List Byte)
  deriving DecidableEq, Repr

/-- The entropy machinery at step 1 of R364. -/
def Entropy.reset : Entropy :=
  { e0 := Eddy.reset, e1 := Eddy.reset, gather := [], seed := none, st := .starting, key := [], v := [], served := 0,
    waits := [], hstat := 0, retest := false, retestRan := false, refused := false, fails := [], dead := false, raw := [],
    scramble := none }

/-- Twin roles (R374). -/
inductive Role where
  /-- Code 0. -/
  | none
  /-- Code 1. -/
  | lead
  /-- Code 2. -/
  | mirror
  deriving DecidableEq, Repr

/-- Pairing states (R374). -/
inductive PairSt where
  /-- Code 0. -/
  | unpaired
  /-- Code 1. -/
  | pairing
  /-- Code 2. -/
  | syncing
  /-- Code 3. -/
  | paired
  /-- Code 4. -/
  | broken
  /-- Code 5. -/
  | detaching
  deriving DecidableEq, Repr

/-- What a Lead item waits on an ACK for (R383). -/
inductive ViaItem where
  /-- TWIN.SEND job of a Berth: its acceptance order in the Tender, and the sequence of its BATCH frame. -/
  | batch (b : BerthNo) (seq first : Nat)
  /-- A checkpoint of a Berth. -/
  | ckpt (b : BerthNo)
  /-- KEYLOAD for the KEY operation of a Berth: the slot to load on the ACK. -/
  | keyload (b : BerthNo) (slot : Nat) (k : KeySlot)
  /-- KEYERASE for the KEY operation of a Berth. -/
  | keyerase (b : BerthNo)
  /-- SYNC_END. -/
  | syncEnd
  /-- A checkpoint sent while detaching. -/
  | parting (b : BerthNo)
  deriving DecidableEq, Repr

/-- A frame the Viaduct has sent (R376): header bytes 0 to 31, payload as on the wire, tag. -/
structure ViaFrame where
  /-- Header bytes 0 to 31. -/
  hdr : List Byte
  /-- Payload, encrypted in a protected frame. -/
  body : List Byte
  /-- Tag. -/
  tag : List Byte
  deriving DecidableEq, Repr

/-- The Viaduct engine (R374 to R399). -/
structure Viaduct where
  /-- Role. -/
  role : Role
  /-- Pairing state. -/
  st : PairSt
  /-- Role epoch. -/
  epoch : W32
  /-- VIA_STAT.reason. -/
  reason : Byte
  /-- LINK_UP. -/
  linkUp : Bool
  /-- VIA_STAT.eunc. -/
  eunc : Bool
  /-- VIA_STAT.superseded. -/
  superseded : Bool
  /-- VIA_STAT.hb_lost. -/
  hbLost : Bool
  /-- VIA_ERR.tagfail. -/
  tagfail : Nat
  /-- VIA_ERR.seqerr. -/
  seqerr : Nat
  /-- VIA_ERR.refused. -/
  nRefused : Nat
  /-- VIA_ERR.nacks. -/
  nacks : Nat
  /-- Next sequence of a protected frame sent. -/
  txSeq : Nat
  /-- Next sequence of a protected frame expected. -/
  rxSeq : Nat
  /-- Slot e of the pairing. -/
  eslot : Nat
  /-- HELLO payload sent. -/
  helloOwn : List Byte
  /-- HELLO payload of the peer, once checked. -/
  helloPeer : List Byte
  /-- KEX1 payload. -/
  kex1 : List Byte
  /-- KEX2 payload. -/
  kex2 : List Byte
  /-- Transcript hash T, once both key messages are known. -/
  transcript : List Byte
  /-- The three link keys, from their derivation until the peer's CONFIRM is verified. -/
  linkKeys : List Byte
  /-- Frames sent and not yet taken by the link, oldest first. -/
  out : List ViaFrame
  /-- Items that wait for an ACK, by the sequence that completes them. -/
  items : List (Nat × ViaItem)
  /-- Tick clock at the start of the pairing. -/
  since : Nat
  /-- Tick clock at the last frame sent. -/
  lastTx : Nat
  /-- Tick clock at the last valid frame received. -/
  lastRx : Nat
  /-- Tick clock at which each waiting CKPT was sent, and whether its lag has been reported. -/
  lags : Table (Nat × Bool)
  /-- Batch in progress on the Mirror: channel, bytes still to come, bytes written; `none` in the channel discards. -/
  batch : Option (Option Nat × Nat × Nat)
  /-- Checkpoint parts collected on the Mirror: Berth, next part, parts, bytes. -/
  ckpt : Option (Nat × Nat × Nat × List Byte)
  /-- Frames of the initial sync that the Mirror has received and not applied, oldest first: type and payload (R380). -/
  sync : List (Nat × List Byte)
  /-- Berths whose parting checkpoint a detaching Lead has still to send, once every earlier item is acknowledged (R397). -/
  parting : Option (List BerthNo)
  /-- Tick clock at which a detaching Lead sent DETACH. -/
  detachAt : Option Nat
  deriving DecidableEq, Repr

/-- The Viaduct after cold or block reset. -/
def Viaduct.reset : Viaduct :=
  { role := .none, st := .unpaired, epoch := 0, reason := 0, linkUp := false, eunc := false, superseded := false,
    hbLost := false, tagfail := 0, seqerr := 0, nRefused := 0, nacks := 0, txSeq := 0, rxSeq := 0,
    eslot := 0, helloOwn := [], helloPeer := [], kex1 := [], kex2 := [], transcript := [], linkKeys := [], out := [],
    items := [], since := 0, lastTx := 0, lastRx := 0, lags := [], batch := none, ckpt := none, sync := [], parting := none,
    detachAt := none }

/-- The microcode loader (R281 to R291). -/
structure Loader where
  /-- LDR_STAT.state. -/
  state : Nat
  /-- LDR_STAT.reason. -/
  reason : Byte
  /-- LDR_STAT.engine. -/
  engine : Nat
  /-- LDR_STAT.word. -/
  word : Nat
  /-- LDR_STAT.otp_err. -/
  otpErr : Bool
  /-- The load under way is of an extension. -/
  ext : Bool
  /-- The load under way arrives by DMA. -/
  dma : Bool
  /-- Image length at BEGIN. -/
  len : Nat
  /-- Image bytes received. -/
  got : List Byte
  /-- FEAT0 of the loaded image. -/
  feat0 : W64
  /-- FEAT4 of the loaded image. -/
  feat4 : W64
  /-- FEAT5 of the loaded image. -/
  feat5 : W64
  /-- MCVER of the loaded image. -/
  mcver : W64
  /-- Dispatch base table and microwords of each store, by engine 0 to 271, as loaded. -/
  stores : Table (List Byte)
  deriving DecidableEq, Repr

/-- The loader of a block that is Ashore (R288, R293). -/
def Loader.reset : Loader :=
  { state := 0, reason := 0, engine := 0x1FF, word := 0xFFFF, otpErr := false, ext := false, dma := false,
    len := 0, got := [], feat0 := 0, feat4 := 0, feat5 := 0, mcver := 0, stores := [] }

/-- The Gangway and run control (R428, R485 to R499). -/
structure Gangway where
  /-- GW_ATTACH_ACK. -/
  attached : Bool
  /-- GW_RDATA of the last command. -/
  rdata : W64
  /-- GW_STATUS of the last command. -/
  status : Nat
  /-- GW_DENY. -/
  deny : W48
  /-- GW_HALT_OUT pulses driven. -/
  haltOut : Nat
  /-- BWDOG_STAT.expired. -/
  bwExpired : Bool
  /-- BWDOG_STAT.remaining. -/
  bwRem : W32
  deriving DecidableEq, Repr

/-- The Gangway after cold or block reset. -/
def Gangway.reset : Gangway :=
  { attached := false, rdata := 0, status := 0, deny := 0, haltOut := 0, bwExpired := false, bwRem := 0 }

/-- A frame that waits to leave on a Landing or Slipway port (R312, R331, R334). -/
structure OutFrame where
  /-- Its beats. -/
  beats : List Byte
  /-- KIND. -/
  kind : Nat
  /-- BERTH or SESSION. -/
  dest : Nat
  /-- Tender job that sends it, and completes with the last beat of its last frame: Berth and acceptance order. -/
  job : Option (BerthNo × Nat)
  /-- Span whose outbound buffer holds it. -/
  span : Nat
  deriving DecidableEq, Repr

/-- The signals of the last command that the block drove on a staging port (R411, R412). -/
structure StgCmd where
  /-- CMD. -/
  cmd : BitVec 3
  /-- ADDR: the port offset in units of 64 bytes. -/
  addr : BitVec 29
  /-- The byte mask of the second beat of a masked write. -/
  mask : W64
  deriving DecidableEq, Repr

/-- An access that has passed its Tollgate and has not completed (R353): it keeps its verdict. -/
structure Outst where
  /-- Its master, as the table of BUSY answers numbers masters. -/
  key : Nat
  /-- Its kind, coded as in R357. -/
  kind : Nat
  /-- Block address. -/
  addr : Nat
  /-- Bytes. -/
  len : Nat
  /-- The Span whose Tollgate checked it. -/
  span : Nat
  /-- The epoch under which it was checked. -/
  epoch : W32
  deriving DecidableEq, Repr

/-- A staging write within one unit of 64 bytes that its port has not accepted (R353, R416). -/
structure PendWrite where
  /-- Block address. -/
  addr : Nat
  /-- Bytes. -/
  data : List Byte
  /-- Span that made it. -/
  span : Nat
  /-- The Berth whose Ferry made it; 1,024 for any other master. -/
  berth : Nat
  /-- Its master, as the table of BUSY answers numbers masters: a Ferry's posted writes stand in that Ferry's write buffer. -/
  key : Nat
  /-- Rules epoch under which it was checked. -/
  epoch : W32
  deriving DecidableEq, Repr

/-- What the block has taken and what waits to take effect (R19, R325, R381, R425). -/
inductive HeldCmd where
  /-- A Landing frame: port, Berth, KIND and beats. -/
  | landing (port : Nat) (b : BerthNo) (kind : Nat) (beats : List Byte)
  /-- A Slipway frame: port, session, protocol and transport frame. -/
  | slip (port n proto : Nat) (frame : List Byte)
  /-- A Viaduct frame, already counted. -/
  | via (h : ViaHeader) (body : List Byte)
  /-- A Gangway command on memory: its world, true for North, its address, and the value of a write. -/
  | gw (north : Bool) (a : W48) (v : Option W64)
  /-- The same after GW_RST_N has fallen: it completes in the core without an answer (R428). -/
  | gwCut (north : Bool) (a : W48) (v : Option W64)
  deriving DecidableEq, Repr

/-- Ports (R406 to R423). -/
structure Ports where
  /-- Landing port n is in reset. -/
  landRst : Table Bool
  /-- Slipway port n is in reset. -/
  slipRst : Table Bool
  /-- Staging port n is in reset. -/
  stgRst : Table Bool
  /-- VD_RST_N is low. -/
  vdRst : Bool
  /-- CP_RST_N is low. -/
  cpRst : Bool
  /-- Outbound frames of each Landing port, oldest first. -/
  landOut : Table (List OutFrame)
  /-- Outbound frames of each Slipway port, oldest first. -/
  slipOut : Table (List OutFrame)
  /-- What the block has taken and what waits to take effect, oldest first: inbound frames, behind which their port holds READY low
  (R19), Viaduct frames, and the Gangway's command (R425). -/
  held : List HeldCmd
  /-- Staging writes not accepted because their port is in reset, oldest first. -/
  stgWrites : List PendWrite
  /-- The last command driven on each staging port. -/
  stgCmd : Table StgCmd
  /-- Read statuses that the next beats of each staging port bring, next first: RERR by port (R340); with none left a beat is
  good. -/
  stgRerr : Table (List Nat)
  /-- Accesses that wait with their Tollgate verdict. -/
  outst : List Outst
  /-- BUSY answers in a row that the access under way of a master has received; 4 and more means that its retries are
  used up (R323). -/
  busy : Table Nat
  /-- For a Gangway access that has met BUSY: the eight bytes on the other side of the write that it met (R322, R324). -/
  gwMet : W64
  /-- CP_RDATA of the last control-port read that a command of the table made. -/
  cpData : W64
  /-- CP_ERR of that access. -/
  cpErr : Bool
  deriving DecidableEq, Repr

/-- Ports out of reset with nothing queued. -/
def Ports.reset : Ports :=
  { landRst := [], slipRst := [], stgRst := [], vdRst := false, cpRst := false, landOut := [], slipOut := [], held := [],
    stgWrites := [], stgCmd := [], stgRerr := [], outst := [], busy := [], gwMet := 0, cpData := 0, cpErr := false }

/-- A barrier episode of a global group (R29, R394, R471). -/
structure Barrier where
  /-- Members on this block, as they stood at the first arrival. -/
  members : List BerthNo
  /-- The twin bit, as it stood at the first arrival. -/
  twin : Bool
  /-- Members that have arrived. -/
  arrived : List BerthNo
  deriving DecidableEq, Repr

/-- The staging allocator (R337, R338). -/
structure Alloc where
  /-- Held extents, by extent number: the session that holds it. -/
  held : Table Nat
  /-- Sessions whose refusal has been reported since they last allocated. -/
  told : List Nat
  deriving DecidableEq, Repr

/-- The state of the block. -/
structure State where
  /-- Commands that wait, first in, first out. -/
  pending : List Instr
  /-- Draws of free values so far: the model's own field (log entry 3). -/
  free : Nat
  /-- Timebase. -/
  time : Timebase
  /-- Power control. -/
  power : Power
  /-- Life cycle and OTP. -/
  lc : LifeCycle
  /-- Tamper. -/
  tamper : Tamper
  /-- RESET_STAT.count. -/
  rstCount : Nat
  /-- RESET_STAT.cause. -/
  rstCause : BitVec 4
  /-- Event FIFO and clamp log. -/
  logs : Logs
  /-- Host-window registers that only hold a value, by window offset. -/
  hregs : Table W64
  /-- Pontoon, program-store and staging content, by block address, in canonical form. -/
  mem : List Host.Cell
  /-- Poisoned Pontoon and program-store words: block address divided by 64 (R321). -/
  poison : List Nat
  /-- Pontoon words with one wrong bit that nobody has read since it was struck, and the place of that bit in the word: block
  address divided by 64 (R321). -/
  soft : Table Nat
  /-- Saturating error counters with a register each, by counter key (R329, R339, R473). -/
  errs : Table Nat
  /-- PON_ERRADDR of each Span: valid and offset. -/
  ponAddr : Table (Bool × Nat)
  /-- Spans. -/
  spans : Table Span
  /-- Ferries. -/
  ferries : Table Ferry
  /-- Berths. -/
  berths : Table Berth
  /-- Barriers under way, by group. -/
  barriers : Table Barrier
  /-- Keystone. -/
  keys : Keystone
  /-- Entropy. -/
  ent : Entropy
  /-- Viaduct. -/
  via : Viaduct
  /-- Loader. -/
  ldr : Loader
  /-- Gangway. -/
  gw : Gangway
  /-- Ports. -/
  ports : Ports
  /-- Staging allocator. -/
  alloc : Alloc
  /-- Span and block counter values, by register offset (R512). -/
  cnts : Table W48
  deriving DecidableEq, Repr

/-- The block right after cold reset, before its start sequence has taken K_P and with nothing loaded (R441, R449, R451):
Under way and Ashore. -/
def State.reset : State :=
  { pending := [], free := 0,
    time := { count := 0, armed := none, lost := false, ticks := 0 },
    power := { st := .underWay, target := none, reason := 0, req := 15, ack := 15, seq := [], fin := none, emul := 0,
               good := true },
    lc := { pin := 0, pinNext := 0, latch := none, mismatch := false, otpErr := false, last := 0, state := 0, req := false, otp := [],
            writes := [], since := 0 },
    tamper := Tamper.reset, rstCount := 0, rstCause := 0,
    logs := { Logs.reset with fifo := [{ source := 1370, code := 0, count := 1, time := 0 }] }, hregs := [], mem := [], poison := [],
    soft := [],
    errs := [], ponAddr := [], spans := [], ferries := [], berths := [], barriers := [],
    keys := { Keystone.reset with kpWait := true },
    ent := Entropy.reset, via := Viaduct.reset, ldr := Loader.reset, gw := Gangway.reset, ports := Ports.reset,
    alloc := { held := [], told := [] }, cnts := [] }

end Sys2Proof.Machine
end

