-- ==== Sys2Proof/Machine/Ops.lean ====
section
/-!
DEFINITION. The named operations over the state: Berths, Ferries and Spans, registers of a context, memory bytes, the
host-window registers that hold values, free values. Everything else reads and writes the state through these.
-/
namespace Sys2Proof.Machine

/-! ### Berths, Ferries, Spans -/

/-- Berth `b`. -/
def State.berth (s : State) (b : BerthNo) : Berth := Table.get Berth.reset s.berths b.val

/-- The state with Berth `b` replaced. -/
def State.setBerth (s : State) (b : BerthNo) (x : Berth) : State := { s with berths := Table.put s.berths b.val x }

/-- The state with Berth `b` changed by `h`. -/
def State.modBerth (s : State) (b : BerthNo) (h : Berth → Berth) : State := s.setBerth b (h (s.berth b))

/-- The live context of Berth `b`. -/
def State.ctx (s : State) (b : BerthNo) : Ctx := (s.berth b).ctx

/-- The state with the live context of Berth `b` replaced. -/
def State.setCtx (s : State) (b : BerthNo) (c : Ctx) : State := s.setBerth b { s.berth b with ctx := c }

/-- The state with the live context of Berth `b` changed by `h`. -/
def State.modCtx (s : State) (b : BerthNo) (h : Ctx → Ctx) : State := s.setCtx b (h (s.ctx b))

/-- Ferry `f`. -/
def State.ferry (s : State) (f : FerryNo) : Ferry := Table.get Ferry.reset s.ferries f.val

/-- The state with Ferry `f` replaced. -/
def State.setFerry (s : State) (f : FerryNo) (x : Ferry) : State := { s with ferries := Table.put s.ferries f.val x }

/-- The state with Ferry `f` changed by `h`. -/
def State.modFerry (s : State) (f : FerryNo) (h : Ferry → Ferry) : State := s.setFerry f (h (s.ferry f))

/-- Span `i`. -/
def State.span (s : State) (i : SpanNo) : Span := Table.get Span.reset s.spans i.val

/-- The state with Span `i` replaced. -/
def State.setSpan (s : State) (i : SpanNo) (x : Span) : State := { s with spans := Table.put s.spans i.val x }

/-- The state with Span `i` changed by `h`. -/
def State.modSpan (s : State) (i : SpanNo) (h : Span → Span) : State := s.setSpan i (h (s.span i))

/-- The Span of Berth `b` (R295). -/
def berthSpan (b : BerthNo) : SpanNo := ⟨b.val / 64, by omega⟩

/-- The Span of Ferry `f` (R17). -/
def ferrySpan (f : FerryNo) : SpanNo := ⟨f.val / 16, by omega⟩

/-- Ferry `j` of Span `i`. -/
def spanFerry (i : SpanNo) (j : Fin 16) : FerryNo := ⟨16 * i.val + j.val, by omega⟩

/-- Berth `j` of Span `i`. -/
def spanBerth (i : SpanNo) (j : Fin 64) : BerthNo := ⟨64 * i.val + j.val, by omega⟩

/-- The Berth whose number is `n` modulo 1,024. -/
def berthOf (n : Nat) : BerthNo := ⟨n % 1024, by omega⟩

/-- The Ferry whose number is `n` modulo 256. -/
def ferryOf (n : Nat) : FerryNo := ⟨n % 256, by omega⟩

/-- The Span whose number is `n` modulo 16. -/
def spanOf (n : Nat) : SpanNo := ⟨n % 16, by omega⟩

/-- Every Ferry of Span `i`, lowest number first. -/
def ferriesOf (i : SpanNo) : List FerryNo := (List.finRange 16).map (spanFerry i)

/-- Every Berth of Span `i`, lowest number first. -/
def berthsOf (i : SpanNo) : List BerthNo := (List.finRange 64).map (spanBerth i)

/-- Every Ferry. -/
def allFerries : List FerryNo := List.finRange 256

/-- Every Span. -/
def allSpans : List SpanNo := List.finRange 16

/-- The world a North flag names. -/
def worldOf (north : Bool) : World := if north then .north else .south

/-- Is the world the North bank? -/
def isNorth : World → Bool
  | .north => true
  | .south => false

/-- The registers of a Span's world. -/
def Span.world (x : Span) (north : Bool) : WorldRegs := if north then x.north else x.south

/-- A Span with the registers of one world changed. -/
def Span.modWorld (x : Span) (north : Bool) (h : WorldRegs → WorldRegs) : Span :=
  if north then { x with north := h x.north } else { x with south := h x.south }

/-- A Span's Tollgate side. -/
def Span.toll (x : Span) (north : Bool) : Toll := if north then x.tollN else x.tollS

/-- A Span with one Tollgate side changed. -/
def Span.modToll (x : Span) (north : Bool) (h : Toll → Toll) : Span :=
  if north then { x with tollN := h x.tollN } else { x with tollS := h x.tollS }

/-- A Ferry's lifeboat set of one world (R247). -/
def Ferry.lb (x : Ferry) (north : Bool) : Lifeboat := if north then x.lbN else x.lbS

/-- A Ferry with one lifeboat set replaced. -/
def Ferry.setLb (x : Ferry) (north : Bool) (l : Lifeboat) : Ferry :=
  if north then { x with lbN := l } else { x with lbS := l }

/-- Place of an engine in a Span's table of units. -/
def engineIdx : Engine → Nat
  | .truss => 0
  | .sealU => 1
  | .cmpr => 2
  | .hash => 3
  | .tender => 4

/-- A Span's unit. -/
def Span.unit (x : Span) (e : Engine) : UnitSched := Table.get UnitSched.reset x.units (engineIdx e)

/-- A Span with a unit changed. -/
def Span.modUnit (x : Span) (e : Engine) (h : UnitSched → UnitSched) : Span :=
  { x with units := Table.put x.units (engineIdx e) (h (x.unit e)) }

/-! ### Registers of a context (R171 to R175) -/

/-- The table key of general register `r` at the context's level: G30 has a copy for each level (R171). -/
def Ctx.key (c : Ctx) (r : Nat) : Nat := if r = 30 ∧ c.sup then 32 else r

/-- G(r): G0 reads as zero (R171). -/
def Ctx.getG (c : Ctx) (r : Nat) : W64 := if r = 0 then 0 else Table.get 0 c.g (c.key r)

/-- G(r) := v: a write of G0 is discarded (R171). The write is noted for the load delay (R188). -/
def Ctx.setG (c : Ctx) (r : Nat) (v : W64) : Ctx :=
  if r = 0 then c else { c with g := Table.put c.g (c.key r) v, wrote := c.key r :: c.wrote }

/-- Predicate Pn: P0 is always true (R174). -/
def Ctx.getP (c : Ctx) (n : BitVec 3) : Bool := if n = 0 then true else c.p.getLsbD n.toNat

/-- Pn := v: a write of P0 is discarded (R175). -/
def Ctx.setP (c : Ctx) (n : BitVec 3) (v : Bool) : Ctx :=
  if n = 0 then c
  else { c with p := if v then c.p ||| (1#8 <<< n.toNat) else c.p &&& ~~~(1#8 <<< n.toNat) }

/-- Segment Sn (R176). -/
def Ctx.seg (c : Ctx) (n : Nat) : Seg := Table.get Seg.zero c.segs n

/-- The context with Sn replaced. -/
def Ctx.setSeg (c : Ctx) (n : Nat) (x : Seg) : Ctx := { c with segs := Table.put c.segs n x }

/-- The guard of an instruction (R174). -/
def Ctx.guard (c : Ctx) (g : Guard) : Bool := c.getP g.gp != g.gn

/-- The supervisor copy of G30. -/
def Ctx.g30s (c : Ctx) : W64 := Table.get 0 c.g 32

/-- SEGn.ATTR as a word (R176). -/
def Seg.attr (x : Seg) : W64 :=
  at' x.limit.toNat 63 32 ||| atB x.north 4 ||| atB x.x 2 ||| atB x.w 1 ||| atB x.r 0

/-- The segment with its attribute register taken from a word (R176). -/
def Seg.withAttr (x : Seg) (v : W64) : Seg :=
  { x with limit := BitVec.ofNat 32 (fld v 63 32), north := tb v 4, x := tb v 2, w := tb v 1, r := tb v 0 }

/-- FLAGS bits [4:0] (R172). -/
def Flags.byte (x : Flags) : Nat :=
  (if x.c then 1 else 0) + (if x.v then 2 else 0) + (if x.z then 4 else 0) + (if x.n then 8 else 0)
    + (if x.dz then 16 else 0)

/-- FLAGS from bits [4:0] of a number. -/
def Flags.ofByte (n : Nat) : Flags :=
  { c := n.testBit 0, v := n.testBit 1, z := n.testBit 2, n := n.testBit 3, dz := n.testBit 4 }

/-- STATUS of Berth `b` in this context (R237). -/
def Ctx.status (c : Ctx) (b : BerthNo) : W64 :=
  at' b.val 41 32 ||| atB c.north 31 ||| atB c.home 30 ||| atB c.gate 29 ||| atB c.slack 28 ||| atB c.sup 24
    ||| at' c.ipl.toNat 23 20 ||| atB c.ie 19 ||| atB c.dzt 18

/-- The four bytes and two more fields of each loop level, outermost level first (R242, R301): 12 bytes a level. -/
def loopBytes (ls : List Loop) : List Byte :=
  padTo 48 (ls.reverse.flatMap fun l => bytesOfNat 4 l.start.toNat ++ bytesOfNat 4 l.stop.toNat ++ bytesOfNat 4 l.count.toNat)

/-- The loop stack of depth `n` written in 48 bytes by `loopBytes`. -/
def loopsOf (n : Nat) (l : List Byte) : List Loop :=
  ((List.range n).map fun j =>
    { start := BitVec.ofNat 32 (fieldAt l (12 * j) 4), stop := BitVec.ofNat 32 (fieldAt l (12 * j + 4) 4),
      count := BitVec.ofNat 32 (fieldAt l (12 * j + 8) 4) : Loop }).reverse

/-! ### Memory bytes -/

/-- What an address that no entry lists reads as (log entry 5; for the Pontoon R327). -/
def unlisted : Byte := 0

/-- The byte at address `a`. -/
def memGet : List Host.Cell → Nat → Byte
  | [], _ => unlisted
  | (k, v) :: t, a => if k = a then v else memGet t a

/-- The entries that bytes `l` at address `a` make: none for a byte equal to what an unlisted address reads as. -/
def cellsOf : Nat → List Byte → List Host.Cell
  | _, [] => []
  | a, v :: t => if v = unlisted then cellsOf (a + 1) t else (a, v) :: cellsOf (a + 1) t

/-- Memory with bytes `l` written at address `a`. -/
def memWrite (m : List Host.Cell) (a : Nat) (l : List Byte) : List Host.Cell :=
  m.filter (fun c => c.1 < a) ++ (cellsOf a l ++ m.filter (fun c => a + l.length ≤ c.1))

/-- The entries from address `a` on. -/
def memFrom : List Host.Cell → Nat → List Host.Cell
  | [], _ => []
  | (k, v) :: t, a => if k < a then memFrom t a else (k, v) :: t

/-- `n` bytes from address `a` of a list whose entries all lie at `a` or above, rising. -/
def memTake : Nat → List Host.Cell → Nat → List Byte
  | 0, _, _ => []
  | n + 1, [], a => unlisted :: memTake n [] (a + 1)
  | n + 1, (k, v) :: t, a => if k = a then v :: memTake n t (a + 1) else unlisted :: memTake n ((k, v) :: t) (a + 1)

/-- `n` bytes of memory from address `a`. -/
def memRead (m : List Host.Cell) (a n : Nat) : List Byte := memTake n (memFrom m a) a

/-- Memory with the addresses `lo` to `hi - 1` cleared to zero. -/
def memClear (m : List Host.Cell) (lo hi : Nat) : List Host.Cell := m.filter (fun c => c.1 < lo ∨ hi ≤ c.1)

/-- The canonical form of memory: addresses strictly rising, and no entry equal to what an unlisted address reads as. -/
def Memory.wf : List Host.Cell → Bool
  | [] => true
  | [(_, v)] => v != unlisted
  | (a, v) :: (b, w) :: t => decide (a < b) && (v != unlisted) && Memory.wf ((b, w) :: t)

/-! ### The block address map (R203, R335) -/

/-- Block address of a Span's Pontoon. -/
def pontoonBase (i : SpanNo) : Nat := 0x10000000 + i.val * 0x800000

/-- Block address of a Span's program store. -/
def progBase (i : SpanNo) : Nat := 0x20000000 + i.val * 0x100000

/-- Block address of a Span's register area. -/
def regBase (i : SpanNo) : Nat := 0x40000000 + i.val * 0x1000000

/-- First block address of staging memory. -/
def stagingBase : Nat := 0x010000000000

/-- Does `a` lie in Span `i`'s Pontoon? -/
def inPontoon (i : SpanNo) (a : Nat) : Bool := pontoonBase i ≤ a && a < pontoonBase i + 0x800000

/-- Does `a` lie in any Span's Pontoon? -/
def inAnyPontoon (a : Nat) : Bool := 0x10000000 ≤ a && a < 0x18000000

/-- Does `a` lie in Span `i`'s secure partition (R326)? -/
def inSecure (i : SpanNo) (a : Nat) : Bool := pontoonBase i + 0x600000 ≤ a && a < pontoonBase i + 0x800000

/-- Does `a` lie in any Span's secure partition? -/
def inAnySecure (a : Nat) : Bool := inAnyPontoon a && 0x600000 ≤ (a - 0x10000000) % 0x800000

/-- Does `a` lie in a Span's North reserve (R347)? -/
def inReserve (i : SpanNo) (a : Nat) : Bool := pontoonBase i + 0x780000 ≤ a && a < pontoonBase i + 0x800000

/-! ### Host-window registers that hold a value -/

/-- Host-window offset of a Span's own area (R465). -/
def spanOff (i : SpanNo) (x : Nat) : Nat := 0x010000 + i.val * 0x1000 + x

/-- Host-window offset of a Berth's table entry (R300). -/
def bteOff (b : BerthNo) (x : Nat) : Nat := 0x100000 + b.val * 0x20 + x

/-- The reset value of a stored register: R300, R305, R318, R329, R373, R399, R512, R513; 0 for every other. -/
def hregReset (o : Nat) : W64 :=
  if 0x002100 ≤ o ∧ o < 0x002660 then 0x8080808080808080
  else if 0x010000 ≤ o ∧ o < 0x020000 then
    (if o % 0x1000 = 0x800 then 20000 else if o % 0x1000 = 0x808 then 0x100 else if o % 0x1000 = 0x900 then 40000 else 0)
  else if 0x100000 ≤ o ∧ o < 0x108000 then (if o % 0x20 = 0 then 0x300000 else 0)
  else if o = 0x300060 then 0x0000C35000002710
  else if o = 0x300068 then 1000000
  else if o = 0x400010 then 12
  else if o = 0x400018 then 1000000
  else if o = 0x5F0000 then 2
  else if o = 0x5F0018 then 1000000
  else 0

/-- The value held by the stored register at window offset `o`. -/
def State.hreg (s : State) (o : Nat) : W64 := Table.get (hregReset o) s.hregs o

/-- The state with the stored register at `o` set. -/
def State.setHreg (s : State) (o : Nat) (v : W64) : State := { s with hregs := Table.put s.hregs o v }

/-! ### Free values (log entry 3) -/

/-- The next free value. -/
def State.freeWord (s : State) : W64 := Config.freeWord s.free

/-- The next free choice. -/
def State.freeBit (s : State) : Bool := Config.freeBit s.free

/-- The state with one more free value drawn. -/
def State.drawn (s : State) : State := { s with free := s.free + 1 }

/-! ### Small queries -/

/-- The life-cycle states in which the North bank is open to debug (R485): Blank and Provisioned. -/
def State.openDebug (s : State) : Bool := s.lc.state = 0 || s.lc.state = 1

/-- Is the block Ashore (R289)? The loader's state is not 5. -/
def State.ashore (s : State) : Bool := s.ldr.state != 5

/-- Are the ports live (R440, R442): the core and the port logic are under power? -/
def State.portsUp (s : State) : Bool :=
  s.power.good && s.power.req.getLsbD 3 && s.power.ack.getLsbD 3
    && (s.power.st == .underWay || s.power.st == .holding || s.power.emul != 0) && s.power.fin != some .started

/-- Is the start sequence past step 5, so that the control port and the Gangway serve accesses (R449)? A block whose
life-cycle change is not finished is not. -/
def State.hostUp (s : State) : Bool := s.portsUp && s.lc.latch.isNone

/-- What happens at the control port or the Gangway, while they serve accesses. -/
def hostDo (s : State) (h : State → State) : State := if s.hostUp then h s else s

/-- What the host does at the control port, while it is served and CP_RST_N is high (R423): CP_ERR is 0 unless the access says otherwise
(R421). -/
def cpDo (s : State) (h : State → State) : State :=
  hostDo s fun s => if s.ports.cpRst then s else h { s with ports := { s.ports with cpErr := false } }

/-- The size of staging memory in bytes (R335): the size register is in GiB for each of twelve ports. -/
def State.stagingSize (s : State) : Nat := 12 * 0x40000000 * fld (s.hreg 0x700000) 5 0

/-- Does `a` lie in staging memory? -/
def State.inStaging (s : State) (a : Nat) : Bool := stagingBase ≤ a && a < stagingBase + s.stagingSize

/-- The staging port of a block address (R335). -/
def stagingPort (a : Nat) : Nat := ((a - stagingBase) / 4096) % 12

/-- Is a Boolean table's entry set? -/
def flagAt (t : Table Bool) (k : Nat) : Bool := Table.get false t k

end Sys2Proof.Machine
end

