-- ==== Sys2Proof/Machine/Logs.lean ====
section
/-!
DEFINITION. Events (R316 to R318), the clamp log (R479 to R482), cross triggers (R493), and the counting of events by the
Ferry, Span and block counters (R500 to R510).
-/
namespace Sys2Proof.Machine

/-! ### Events -/

/-- The routing byte of an event source (R318). -/
def evRoute (s : State) (src : Nat) : Nat := fld (s.hreg (0x002100 + 8 * (src / 8))) (8 * (src % 8) + 7) (8 * (src % 8))

/-- The FIFO with one more event of a source: coalesced into its entry, or a new entry at the tail (R317). -/
def fileInto (src code : Nat) (now : W64) : List EvEntry → List EvEntry
  | [] => [{ source := src, code := code, count := 1, time := now.setWidth 32 }]
  | e :: t => if e.source = src then { e with count := satAdd 7 e.count 1 } :: t else e :: fileInto src code now t

/-- Files one event when its source's fifo bit is 1 (R318). -/
def fileEvent (s : State) (src code : Nat) : State :=
  if (evRoute s src).testBit 7 then { s with logs := { s.logs with fifo := fileInto src code s.time.count s.logs.fifo } }
  else s

/-- Files an event whose code the spec does not give: a free value (log entry 3). -/
def fileAny (s : State) (src : Nat) : State := fileEvent s.drawn src (s.freeWord.toNat % 256)

/-! ### Cross triggers -/

/-- XT_CTLg. -/
def xtCtl (s : State) (g : Nat) : W64 := s.hreg (0x5F0200 + 0x40 * g)

/-- Is Ferry `f` a member of cross-trigger group `g`? -/
def xtMember (s : State) (g : Nat) (f : FerryNo) : Bool := tb (s.hreg (0x5F0208 + 0x40 * g + 8 * (f.val / 64))) (f.val % 64)

/-- A halt reaches Ferry `f` with a cause: a Ferry that is aground, halting or halted is left as it is (R488, R496). -/
def haltFerry (s : State) (f : FerryNo) (cause : Nat) : State :=
  let x := s.ferry f
  if x.agr.aground ∨ x.halt ≠ .run then s
  else s.setFerry f { x with halt := .halting, hcause := BitVec.ofNat 4 cause }

/-- The members of any of the groups `gs`, lowest Ferry first. -/
def xtMembers (s : State) (gs : List Nat) : List FerryNo := allFerries.filter fun f => gs.any fun g => xtMember s g f

/-- A trigger reaches the enabled groups among `gs` (R493): every member halts with cause `others`, Ferry `own` with
cause `mine`, GW_HALT_OUT is driven when a group reached has out = 1. No event is filed here. -/
def haltGroups (s : State) (gs : List Nat) (own : Option FerryNo) (mine others : Nat) : State :=
  let gs := gs.filter fun g => tb (xtCtl s g) 0
  let s := match own with
    | some f => haltFerry s f mine
    | none => s
  let s := (xtMembers s gs).foldl (fun s f => haltFerry s f others) s
  if gs.any fun g => tb (xtCtl s g) 2 then { s with gw := { s.gw with haltOut := s.gw.haltOut + 1 } } else s

/-- Does a trigger have any effect: an enabled group among `gs`, or a Ferry of its own? -/
def triggers (s : State) (gs : List Nat) (own : Option FerryNo) : Bool :=
  own.isSome || gs.any fun g => tb (xtCtl s g) 0

/-- The groups that hold Ferry `f`. -/
def groupsOf (s : State) (f : FerryNo) : List Nat := (List.range 8).filter fun g => xtMember s g f

/-! ### Event classes -/

/-- The mask bits that each class of the Ferry counters defines, by class (R503). -/
def ferryClasses : List Nat := [0, 0x7FF, 0xF, 0xF, 0x7F, 0x3F, 0x3]

/-- The same for the Span counters (R505). -/
def spanClasses : List Nat := [0, 0x3FF, 0x7F, 0xFF, 0x7F, 0xFF]

/-- The same for the block counters (R506). -/
def blockClasses : List Nat := [0, 0xFF, 0xFF, 0xFFF, 0xFFF, 0x1F, 0xFF, 0xF]

/-! ### Block counters -/

/-- CNT_FRZ (R510). -/
def freezeBits (s : State) : Nat := fld (s.hreg 0x5F0030) 15 0

/-- Is a Span or block counter with configuration `cfg` stopped by its freeze group (R510)? -/
def frozenBy (s : State) (cfg : W64) : Bool := tb cfg 55 && (freezeBits s).testBit (fld cfg 54 51)

/-- Does configuration `cfg` select event `bit` of class `cls` (R502)? -/
def selects (cfg : W64) (cls bit : Nat) : Bool := tb cfg 63 && (fld cfg 15 12 == cls) && tb cfg bit

/-- Adds `n` to the counter whose value register lies at `o`; its configuration lies 8 below. Answers whether it
wrapped, in which case the sticky ovf is set (R501, R502). -/
def addCnt (s : State) (o n : Nat) : State × Bool :=
  let v := (Table.get 0 s.cnts o).toNat + n
  let s := { s with cnts := Table.put s.cnts o (BitVec.ofNat 48 v) }
  if 2 ^ 48 ≤ v then (s.setHreg (o - 8) (s.hreg (o - 8) ||| atB true 62), true) else (s, false)

/-- Counts `n` events `bit` of class `cls` in block counters from number `k` on; an overflow takes its actions (R502).
`fuel` bounds the events that overflows raise in their turn. -/
def countBlk (fuel : Nat) (cls bit n : Nat) (s : State) : State :=
  match fuel with
  | 0 => s
  | fuel + 1 =>
    (List.range 8).foldl (fun s k =>
      let o := 0x500008 + 16 * k
      let cfg := s.hreg (o - 8)
      if selects cfg cls bit && !frozenBy s cfg then
        let (s, wrapped) := addCnt s o n
        if wrapped then
          let s := if tb cfg 61 then countBlk fuel 6 4 1 (fileEvent s 1368 k) else s
          if tb cfg 60 && triggers s [fld cfg 58 56] none then
            countBlk fuel 7 3 1 (countBlk fuel 6 4 1 (fileAny (haltGroups s [fld cfg 58 56] none 5 5) 1367))
          else s
        else s
      else s) s

/-- Counts block events (R506). -/
def countBlock (s : State) (cls bit n : Nat) : State := countBlk 9 cls bit n s

/-- Raises an event (R316): files it, and counts it among the events filed. -/
def raise (s : State) (src code : Nat) : State :=
  if (evRoute s src).testBit 7 then countBlock (fileEvent s src code) 6 4 1 else s

/-- Raises an event whose code the spec does not give: a free value (log entry 3). -/
def raiseAny (s : State) (src : Nat) : State := raise s.drawn src (s.freeWord.toNat % 256)

/-- Raises the event of Berth `b` (R316). -/
def raiseBerth (s : State) (b : BerthNo) (code : Nat) : State := raise s b.val code

/-- A trigger of R493 with its event. -/
def trigger (s : State) (gs : List Nat) (own : Option FerryNo) (mine others : Nat) : State :=
  if triggers s gs own then countBlock (raiseAny (haltGroups s gs own mine others) 1367) 7 3 1 else s

/-! ### Span counters -/

/-- On whose behalf a counted event happens (R505): world, level, and master of R357. -/
structure Who where
  /-- North bank? -/
  north : Bool
  /-- Supervisor level? -/
  sup : Bool
  /-- Master number of R357. -/
  master : Nat
  deriving DecidableEq, Repr

/-- Does address `a`, if the event carries one, pass the range filter of `cfg` (R507)? -/
def rangePass (s : State) (cfg : W64) (a : Option Nat) : Bool :=
  match fld cfg 47 44, a with
  | 0, _ => true
  | _, none => false
  | r + 1, some a => fld (s.hreg (0x5F0100 + 16 * r)) 47 0 ≤ a && a ≤ fld (s.hreg (0x5F0108 + 16 * r)) 47 0

/-- Does an event of a world and level pass the filters of `cfg` (R507)? -/
def worldPass (cfg : W64) (north sup : Bool) : Bool :=
  (match fld cfg 43 42 with
   | 1 => !north
   | 2 => north
   | _ => true)
  && (match fld cfg 41 40 with
   | 1 => !sup
   | 2 => sup
   | _ => true)

/-- Counts `n` events `bit` of class `cls` in the counters of Span `i` (R505, R507). -/
def countSpan (s : State) (i : SpanNo) (cls bit : Nat) (w : Who) (a : Option Nat) (n : Nat) : State :=
  (List.range 8).foldl (fun s k =>
    let o := 0x510008 + i.val * 0x100 + 16 * k
    let cfg := s.hreg (o - 8)
    if selects cfg cls bit && !frozenBy s cfg && rangePass s cfg a && worldPass cfg w.north w.sup
        && (fld cfg 39 32 == 0 || tb cfg (32 + w.master)) then
      let (s, wrapped) := addCnt s o n
      if wrapped then
        let s := if tb cfg 61 then raise s 1368 (0x10 + i.val) else s
        if tb cfg 60 then trigger s [fld cfg 58 56] none 5 5 else s
      else s
    else s) s

/-! ### Ferry counters -/

/-- Is Berth `b` a member of a global group that is frozen (R510)? -/
def berthFrozen (s : State) (b : BerthNo) : Bool :=
  (List.range 16).any fun g =>
    (freezeBits s).testBit g && tb (s.hreg (spanOff (berthSpan b) (0x100 + 8 * g))) (b.val % 64)

/-- Counter `k` of Berth `b` advances by `n`; on overflow it sets ovf and takes the actions of R502, R509. -/
def addBerthCnt (s : State) (b : BerthNo) (k n : Nat) (a : Option Nat) : State :=
  let c := s.ctx b
  let cfg := Table.get 0 c.cntCfg k
  let v := (Table.get 0 c.cntVal k).toNat + n
  let c := { c with cntVal := Table.put c.cntVal k (BitVec.ofNat 48 v) }
  if v < 2 ^ 48 then s.setCtx b c
  else
    let c := { c with cntCfg := Table.put c.cntCfg k (cfg ||| atB true 62) }
    let c := if tb cfg 61 then
        { c with
          intPend := c.intPend ||| 2
          smp := if c.smp.valid then c.smp
                 else { c.smp with valid := true, cls := BitVec.ofNat 4 (fld cfg 15 12), addrF := a.isSome,
                                   counter := BitVec.ofNat 3 k, addr := BitVec.ofNat 48 (a.getD 0), due := true } }
      else c
    let s := s.setCtx b c
    if tb cfg 60 then
      match (s.berth b).ferry with
      | some f => trigger s (groupsOf s f) (some f) 5 4
      | none => s
    else s

/-- May the counters of Berth `b` count now (R501, R510): it runs on a Ferry that is not halted, outside a gate, and is
not frozen? -/
def mayCount (s : State) (b : BerthNo) : Bool :=
  match (s.berth b).ferry with
  | none => false
  | some f => decide ((s.ferry f).halt ≠ .halted) && !(s.ctx b).gate && !berthFrozen s b

/-- Counts `n` events `bit` of class `cls` of Berth `b` (R503, R507). -/
def countBerth (s : State) (b : BerthNo) (cls bit n : Nat) (a : Option Nat) : State :=
  if mayCount s b then
    (List.range 8).foldl (fun s k =>
      let cfg := Table.get 0 (s.ctx b).cntCfg k
      if selects cfg cls bit && rangePass s cfg a && worldPass cfg (s.ctx b).north (s.ctx b).sup then
        addBerthCnt s b k n a
      else s) s
  else s

/-- Counts one microword event of R272, code 1 to 11. -/
def countEv (s : State) (b : BerthNo) (code : Nat) : State := countBerth s b 1 (code - 1) 1 none

/-! ### The clamp log -/

/-- Source code of R479. -/
def srcCode : WSrc → Nat
  | .host => 0
  | .gangway => 1
  | .fwSouth _ => 2
  | .fwNorth _ => 3
  | .viaduct _ => 4

/-- Field id of a host-window register's field at bit `lo` (R480). -/
def fidReg (o lo : Nat) : W32 := BitVec.ofNat 32 ((lo <<< 22) + o / 8)

/-- Field id of a descriptor field (R480): classes 1 to 5 by engine. -/
def fidDesc (e : Engine) (off : Nat) (b : BerthNo) : W32 :=
  BitVec.ofNat 32 (((engineIdx e + 1) <<< 28) + (off <<< 16) + ((b.val / 64) <<< 10) + b.val)

/-- Field id of a Landing (6) or Slipway (7) frame-header field (R480). -/
def fidFrame (cls off port idx : Nat) : W32 := BitVec.ofNat 32 ((cls <<< 28) + (off <<< 16) + (port <<< 14) + idx)

/-- Field id of a segment attribute (R480). -/
def fidSeg (gate : Bool) (seg : Nat) (b : Nat) : W32 :=
  BitVec.ofNat 32 ((8 <<< 28) + (if gate then 1 <<< 19 else 0) + (seg <<< 16) + b)

/-- Field id of a geometry-descriptor field (R480). -/
def fidGeo (off : Nat) (b : BerthNo) : W32 := BitVec.ofNat 32 ((9 <<< 28) + (off <<< 16) + ((b.val / 64) <<< 10) + b.val)

/-- Makes a clamp-log entry, with its count and its event (R479, R482). -/
def clampLog (s : State) (src : Nat) (kind : Nat) (field : W32) (written applied : W64) : State :=
  let l := s.logs
  let l := if l.clamps.length < 256 then
      { l with clamps := l.clamps ++ [{ field := field, kind := kind, source := src, written := written,
                                        applied := applied, time := s.time.count }] }
    else { l with lost := satAdd 8 l.lost 1 }
  countBlock (raise { s with logs := { l with count := satAdd 32 l.count 1 } } 1345 src) 6 5 1

/-! ### What the Gangway is answered (R425, R427) -/

/-- The Gangway acknowledges a command with a status and data (R425, R427). -/
def gwAck (s : State) (st : Nat) (d : W64) : State := { s with gw := { s.gw with status := st, rdata := d } }

/-- Status OK for a command that moves no data to the debugger: GW_RDATA is a free value. -/
def gwDone (s : State) : State := gwAck s.drawn 0 s.freeWord

/-- Status DENIED (R485, R492): event 1,366 with code 2, and the address in GW_DENY. -/
def gwDenied (s : State) (a : Nat) : State :=
  let s := raise s 1366 2
  gwAck { s with gw := { s.gw with deny := BitVec.ofNat 48 a } } 3 0

/-! ### Error counters -/

/-- Key of a saturating counter: PON_ERR fields 0 to 2 and CS_PERR.poisoned 3 of a Span, STG_ERR fields of a port. -/
def errKey (base i fldNo : Nat) : Nat := base + 8 * i + fldNo

/-- The state with a saturating counter of `k` bits increased by one (R483). -/
def bumpErr (s : State) (key k : Nat) : State := { s with errs := Table.put s.errs key (satAdd k (Table.get 0 s.errs key) 1) }

end Sys2Proof.Machine
end

