-- ==== Sys2Proof/Machine/RegMap.lean ====
section
/-!
DEFINITION. Which offsets of the host window hold a register (R465, R466), and which offsets of a Span's register area
firmware sees (R467).
-/
namespace Sys2Proof.Machine

/-- Does offset `x` of a Span's own area hold a register (R470)? -/
def spanRegExists (x : Nat) : Bool :=
  x == 0 || (0x100 ≤ x && x ≤ 0x188) || (0x200 ≤ x && x ≤ 0x280) || x == 0x800 || x == 0x808
    || (0x900 ≤ x && x ≤ 0x918) || (0x980 ≤ x && x ≤ 0x9F8)

/-- Does offset `x` of a world's Tollgate page hold a register (R344, R354, R358)? -/
def tollRegExists (x : Nat) : Bool := (x < 0x400 && x % 0x20 != 0x18) || (0x400 ≤ x && x ≤ 0x430)

/-- Does offset `x` of the Viaduct area hold a register (R399)? -/
def viaRegExists (x : Nat) : Bool :=
  x ≤ 0x10 || (0x20 ≤ x && x ≤ 0x70) || (0x100 ≤ x && x ≤ 0x178) || (0x1000 ≤ x && x ≤ 0x2FF8)
    || (0x3000 ≤ x && x < 0x3800 && x % 0x20 != 0x18)

/-- Does offset `x` of the counters area hold a register (R512)? -/
def cntRegExists (x : Nat) : Bool :=
  x < 0x80 || (0x10000 ≤ x && x < 0x11000 && x % 0x100 < 0x80) || (0x20000 ≤ x && x < 0x20800)
    || (0xF0000 ≤ x && x ≤ 0xF0038) || (0xF0100 ≤ x && x < 0xF0140) || (0xF0200 ≤ x && x < 0xF0400 && x % 0x40 ≤ 0x20)
    || (0xF1000 ≤ x && x < 0xF1800)

/-- Does the 8-byte-aligned offset `o` of the host window hold a register (R465)? -/
def regExists (o : Nat) : Bool :=
  o % 8 == 0 &&
  (if o < 0x1000 then o ≤ 0x10 || (0x40 ≤ o && o ≤ 0x80)
   else if o < 0x2000 then o ≤ 0x1030
   else if o < 0x3000 then o ≤ 0x2010 || (0x2100 ≤ o && o < 0x2660)
   else if o < 0x10000 then o ≤ 0x3030
   else if o < 0x20000 then spanRegExists (o % 0x1000)
   else if o < 0x100000 then false
   else if o < 0x108000 then true
   else if o < 0x110000 then o % 0x20 != 0x18
   else if o < 0x200000 then false
   else if o < 0x210000 then tollRegExists (o % 0x800)
   else if o < 0x300000 then false
   else if o < 0x303800 then viaRegExists (o - 0x300000)
   else if o < 0x400000 then false
   else if o < 0x500000 then o ≤ 0x400028
   else if o < 0x600000 then cntRegExists (o - 0x500000)
   else if o < 0x700000 then o ≤ 0x600010 || (0x600020 ≤ o && o ≤ 0x600038) || (0x601000 ≤ o && o < 0x602000)
   else if o < 0x709000 then o ≤ 0x700008 || (0x700100 ≤ o && o < 0x700160) || 0x701000 ≤ o
   else false)

/-- The host-window offset that firmware of Span `i` reaches at offset `v` of its register area (R467); none where that
offset holds no register. -/
def fwOffset (i : SpanNo) (v : Nat) : Option Nat :=
  let h := if 0x010000 ≤ v ∧ v < 0x011000 then v + i.val * 0x1000
    else if 0x100000 ≤ v ∧ v < 0x100800 then v + i.val * 0x800
    else if 0x108000 ≤ v ∧ v < 0x110000 then v
    else if 0x200000 ≤ v ∧ v < 0x201000 then v + i.val * 0x1000
    else if 0x700000 ≤ v ∧ v < 0x709000 then v
    else 0xFFFFFF
  if regExists h then some h else none

end Sys2Proof.Machine
end

