-- ==== Sys2Proof/Machine/Tollgate.lean ====
section
/-!
DEFINITION. The Tollgate's judgement of an access and the record of a violation (R341 to R349, R356 to R358).
-/
namespace Sys2Proof.Machine

/-- Who makes a memory access (R341, R357). -/
structure Acc where
  /-- The Span whose Tollgate judges. -/
  sp : SpanNo
  /-- Master of R357: 0 Ferry, 1 to 4 units, 5 Tender, 6 Pilot landing, 7 Gangway. -/
  master : Nat
  /-- World: true for North. -/
  north : Bool
  /-- Supervisor level. -/
  sup : Bool
  /-- Ferry j of the Span, for master 0. -/
  ferry : Nat
  /-- Berth on whose behalf. -/
  berth : Nat
  deriving DecidableEq, Repr

/-- Access kinds, coded as in R357. -/
inductive AKind where
  /-- 0b001. -/
  | read
  /-- 0b010. -/
  | write
  /-- 0b011. -/
  | atomic
  /-- 0b100. -/
  | fetch
  deriving DecidableEq, Repr

/-- Code of an access kind in a violation record. -/
def akindCode : AKind → Nat
  | .read => 1
  | .write => 2
  | .atomic => 3
  | .fetch => 4

/-- Host-window offset within the Tollgate area of world `north` of Span `i`. -/
def tollOff (i : SpanNo) (north : Bool) : Nat := 0x200000 + i.val * 0x1000 + (if north then 0x800 else 0)

/-- Is block address `a` reserved for master `m` of Span `i` under R203 (R346 step 2)? `dst` allows a SPAN.COPY
destination in another Span's Pontoon. -/
def reservedFor (s : State) (i : SpanNo) (m : Nat) (dst : Bool) (a : Nat) : Bool :=
  if inAnyPontoon a then !(inPontoon i a || dst)
  else if 0x20000000 ≤ a && a < 0x21000000 then !(progBase i ≤ a && a < progBase i + 0x100000)
  else if 0x30000000 ≤ a && a < 0x30100000 then false
  else if 0x40000000 ≤ a && a < 0x50000000 then
    if regBase i ≤ a && a < regBase i + 0x1000000 then (fwOffset i ((a - regBase i) / 8 * 8)).isNone else true
  else if s.inStaging a then false
  else if m == 0 then !(a < 0x8000)
  else true

/-- Does region `r`, enabled, cover the address? -/
def Region.covers (r : Region) (a : Nat) : Bool :=
  r.attr.getLsbD 15 && r.base.toNat * 4096 ≤ a && a < (r.last.toNat + 1) * 4096 && r.base.toNat ≤ r.last.toNat

/-- The master bit of a region that admits master `m` (R344). -/
def masterBit (m : Nat) : Nat := if m = 0 ∨ m = 7 then 10 else if m ≤ 4 then 11 else 12

/-- Does a region grant an access of kind `k` at a level (R343, R344)? -/
def Region.grants (r : Region) (k : AKind) (sup : Bool) : Bool :=
  let o := if sup then 3 else 0
  match k with
  | .read => r.attr.getLsbD o
  | .write => r.attr.getLsbD (o + 1)
  | .atomic => r.attr.getLsbD o && r.attr.getLsbD (o + 1)
  | .fetch => r.attr.getLsbD (o + 2)

/-- The active region `n` of a world of a Span. -/
def activeRegion (s : State) (i : SpanNo) (north : Bool) (n : Nat) : Region :=
  Table.get (Region.reset (worldOf north)) ((s.span i).toll north).active n

/-- The highest-numbered active region of a world that satisfies `h`. -/
def topRegion (s : State) (i : SpanNo) (north : Bool) (h : Region → Bool) : Option (Nat × Region) :=
  ((List.range 32).reverse.map fun n => (n, activeRegion s i north n)).find? fun x => h x.2

/-- The default map of R347: does it grant a supervisor's access of kind `k`? -/
def defaultGrants (s : State) (q : Acc) (dst : Bool) (k : AKind) (a : Nat) : Bool :=
  let i := q.sp
  let fer := q.master == 0 || q.master == 7
  let rw := k != .fetch
  if inPontoon i a then if inReserve i a then rw && q.north else rw
  else if inAnyPontoon a then
    dst && k == .write && (q.north || (a - 0x10000000) % 0x800000 < 0x780000)
  else if progBase i ≤ a && a < progBase i + 0x100000 then fer && (k == .read || k == .fetch)
  else if 0x30000000 ≤ a && a < 0x30100000 then
    let b := berthOf ((a - 0x30000000) / 0x400)
    fer && rw && berthSpan b == i && (s.ctx b).north == q.north
  else if regBase i ≤ a && a < regBase i + 0x1000000 then
    let v := a - regBase i
    fer && rw && !(0x200000 ≤ v && v < 0x201000 && (0x200800 ≤ v) != q.north)
  else if s.inStaging a then if fer then k == .read else rw
  else false

/-- The verdict on one word (R346): none passes; else the region recorded and whether it is the other world's. `dst` marks
a SPAN.COPY destination. -/
def judge (s : State) (q : Acc) (dst : Bool) (k : AKind) (a : Nat) : Option (Nat × Bool) :=
  if q.master = 0 ∧ a < 0x8000 then none
  else if reservedFor s q.sp q.master dst a then some (0xFF, false)
  else if q.master = 7 ∧ inAnySecure a then some (0xFF, false)
  else match topRegion s q.sp (!q.north) (fun r => r.covers a && r.attr.getLsbD 14) with
    | some (n, _) => some (n, true)
    | none =>
      match topRegion s q.sp q.north (fun r => r.covers a && r.attr.getLsbD (masterBit q.master)) with
      | some (n, r) => if r.grants k q.sup then none else some (n, false)
      | none => if q.sup ∧ defaultGrants s q dst k a then none else some (0xFF, false)

/-- The judgement of a SPAN.COPY destination word (R348): the issuing Span's, and step 4 of the target Span's. -/
def judgeCopyDst (s : State) (q : Acc) (a : Nat) : Option (Nat × Bool) :=
  match judge s q true .write a with
  | some v => some v
  | none =>
    match topRegion s (spanOf ((a - 0x10000000) / 0x800000)) (!q.north) (fun r => r.covers a && r.attr.getLsbD 14) with
    | some (n, _) => some (n, true)
    | none => none

/-- Violation record of R357. `size` is the log2 of the access size within the word. -/
def violation (s : State) (q : Acc) (v : Nat × Bool) (k : AKind) (size : Nat) : W64 :=
  at' (s.span q.sp).epoch.toNat 63 40 ||| at' v.1 39 32 ||| atB v.2 31 ||| atB q.north 30 ||| atB q.sup 29
    ||| at' (akindCode k) 28 26 ||| at' size 25 23 ||| at' q.master 22 19 ||| at' q.ferry 18 15 ||| at' q.berth 9 0

/-- Records a violation on the page of the access's world, with the address of the 64-byte word refused, counts it and raises
its event (R356, R358). -/
def recordViolation (s : State) (q : Acc) (a : Nat) (vr : W64) : State :=
  let s := s.modSpan q.sp fun x => x.modToll q.north fun t =>
    let t := { t with vCount := BitVec.ofNat 32 (satAdd 32 t.vCount.toNat 1) }
    if t.vValid then t else { t with vValid := true, vAddr := BitVec.ofNat 48 (a / 64 * 64), vRec := vr }
  countBlock (raise s 1358 q.sp.val) 6 6 1

/-- The words of 64 bytes that `n` bytes at `a` touch, each with the first address touched in it and the bytes touched. -/
def wordsOf : Nat → Nat → Nat → List (Nat × Nat)
  | 0, _, _ => []
  | fuel + 1, a, n =>
    if n = 0 then []
    else
      let k := min n (64 - a % 64)
      (a, k) :: wordsOf fuel (a + k) (n - k)

/-- The size field of the record for an access of `n` bytes within a word: the log2 of `n`, and for a size with no whole
log2, whose code R357 does not give, a free value of 0 to 6 (log entry 14). -/
def sizeLog (s : State) (n : Nat) : Nat := if 2 ^ Nat.log2 n = n then Nat.log2 n else s.freeWord.toNat % 7

/-- Judges every word of an access of `n` bytes at `a` (R342); the first refusal is recorded, and its word's address and
record are answered. -/
def gateCheck (s : State) (q : Acc) (dst : Bool) (k : AKind) (a n : Nat) : State × Option (Nat × W64) :=
  let bad := (wordsOf (n / 64 + 2) a n).findSome? fun w =>
    (if dst then judgeCopyDst s q w.1 else judge s q false k w.1).map fun v => (w.1, violation s q v k (sizeLog s w.2))
  match bad with
  | none => (s, none)
  | some (w, r) => (recordViolation s.drawn q w r, some (w, r))

end Sys2Proof.Machine
end

