-- ==== Sys2Proof/Machine/Phys.lean ====
section
/-!
DEFINITION. Reads and writes of the memories behind the block address map (Pontoon R319 to R325, program store R235, staging
memory R335 to R340, R416), made by a master, judged by its Tollgate and reported as each master's rules say.
-/
namespace Sys2Proof.Machine

/-- Why a checked access is not made. -/
inductive AccFail where
  /-- Refused by the Tollgate: word address and violation record. -/
  | toll (a : Nat) (vr : W64)
  /-- A poisoned Pontoon word (R321). -/
  | ecc (a : Nat)
  /-- A poisoned program-store word. -/
  | progEcc (a : Nat)
  /-- Collision retries used up (R323). -/
  | busy (a : Nat)
  /-- A staging read that returned 0b10 or 0b11 (R340). -/
  | rerr (a : Nat)
  /-- Nothing fails, but the access waits: a staging port in reset (R416), or a word held by another LOCK (R325). -/
  | wait
  deriving DecidableEq, Repr

/-- Key of a master in the table of BUSY answers: Ferry f is f. -/
def busyKey (q : Acc) : Nat :=
  if q.master = 0 then 16 * q.sp.val + q.ferry
  else if q.master = 7 then 512
  else 256 + 8 * q.sp.val + q.master

/-- Key of the Viaduct engine in the table of BUSY answers. -/
def viaBusyKey : Nat := 513

/-- Bytes of a Hash context area and of a Deflate context area (R145, R160). -/
def hashCtxSize : Nat := 512
/-- Bytes of a compression-unit context area (R145). -/
def deflCtxSize : Nat := 16896

/-- The streams of a Span whose context area a write touches lose their check value (R162, R156), unless it leaves the bytes the same. -/
def damageStreams (s : State) (i : SpanNo) (a n : Nat) (same : Bool) : State :=
  let x := s.span i
  if x.hashes.isEmpty && x.deflates.isEmpty then s
  else
    let hit := fun (k size : Nat) => k < a + n && a < k + size
    s.setSpan i { x with
      hashes := x.hashes.map fun e => if hit e.1 hashCtxSize then (e.1, { e.2 with damaged := e.2.damaged || !same }) else e
      deflates := x.deflates.map fun e => if hit e.1 deflCtxSize then (e.1, { e.2 with damaged := e.2.damaged || !same }) else e }

/-- Does an instruction-buffer line hold a byte of a range? -/
def lineHolds (e : Nat × Nat × Bool × List Byte) (a n : Nat) : Bool :=
  e.2.2.1 && decide (a < 64 * e.2.1 + 64) && decide (64 * e.2.1 < a + n)

/-- A line that holds a byte of a range is invalidated. -/
def dropLine (a n : Nat) (e : Nat × Nat × Bool × List Byte) : Nat × Nat × Bool × List Byte :=
  if lineHolds e a n then (e.1, e.2.1, false, e.2.2.2) else e

/-- The instruction-buffer lines that hold a word of the program store are invalidated by a store to it (R235). -/
def dropLines (s : State) (a n : Nat) : State :=
  if !(decide (0x20000000 ≤ a) && decide (a < 0x21000000)) then s
  else if s.ferries.all fun y => y.2.ibuf.all fun e => !lineHolds e a n then s
  else { s with ferries := s.ferries.map fun y => (y.1, { y.2 with ibuf := y.2.ibuf.map (dropLine a n) }) }

/-- Memory takes bytes `l` at block address `a`: a word written in full is no longer poisoned (R321), and holds no single-bit
error. -/
def rawWrite (s : State) (a : Nat) (l : List Byte) : State :=
  let s := dropLines s a l.length
  let same := memRead s.mem a l.length == l
  let stays := fun (w : Nat) => !(a ≤ 64 * w && 64 * w + 64 ≤ a + l.length)
  let s := { s with mem := memWrite s.mem a l, poison := s.poison.filter stays, soft := s.soft.filter fun e => stays e.1 }
  if inAnyPontoon a then damageStreams s (spanOf ((a - 0x10000000) / 0x800000)) a l.length same else s

/-- Memory from `lo` to `hi - 1` cleared to zero with fresh check bits (R327). -/
def rawClear (s : State) (lo hi : Nat) : State :=
  let stays := fun (w : Nat) => decide (64 * w < lo) || decide (hi ≤ 64 * w)
  { s with mem := memClear s.mem lo hi, poison := s.poison.filter stays, soft := s.soft.filter fun e => stays e.1 }

/-- `n` bytes of memory at `a`, unchecked. -/
def rawRead (s : State) (a n : Nat) : List Byte := memRead s.mem a n

/-- Is a word of the range held by the LOCK of a Berth other than `b` (R182, R325)? -/
def heldByOther (s : State) (b : Option Nat) (a n : Nat) : Bool :=
  s.berths.any fun e =>
    match e.2.ctx.lock with
    | some l => decide (some e.1 ≠ b) && decide (a < 64 * l.word + 64) && decide (64 * l.word < a + n)
    | none => false

/-- The staging ports that a range touches. -/
def portsOf (s : State) (a n : Nat) : List Nat :=
  if s.inStaging a then ((wordsOf (n / 64 + 2) a n).map fun w => stagingPort w.1).eraseDups else []

/-- For whom a counted access is made (R505). -/
def Acc.who (q : Acc) : Who := { north := q.north, sup := q.sup, master := q.master }

/-- Does a Span counter select an event (R502)? -/
def spanSelects (s : State) (i : SpanNo) (cls bit : Nat) : Bool :=
  (List.range 8).any fun k => selects (s.hreg (0x510000 + i.val * 0x100 + 16 * k)) cls bit

/-- Does a block counter select an event of a class (R502)? -/
def blockSelects (s : State) (cls : Nat) : Bool :=
  (List.range 8).any fun k => let c := s.hreg (0x500000 + 16 * k); tb c 63 && fld c 15 12 == cls

/-- The byte offset on its port of a block address in staging memory (R335). -/
def stagingOffset (a : Nat) : Nat := (((a - stagingBase) / 4096) / 12) * 4096 + (a - stagingBase) % 4096

/-- The command that a port drives for an access of `k` bytes at `a` within one unit of 64 bytes (R411, R412): a write of part of
a unit is masked. -/
def stagingCmd (write : Bool) (a k : Nat) : StgCmd :=
  { cmd := if !write then 0 else if k < 64 then 2 else 1
    addr := BitVec.ofNat 29 (stagingOffset a / 64)
    mask := if write && k < 64 then BitVec.ofNat 64 ((2 ^ k - 1) <<< (a % 64)) else 0 }

/-- The beats that carry a command's data (R412). -/
def stagingBeats (c : StgCmd) : Nat := if c.cmd = 2 then 2 else 1

/-- The commands of an access leave on their ports, a unit at a time, and their beats are counted (R412, R506). -/
def driveStaging (s : State) (write : Bool) (a n : Nat) : State :=
  let cls := if write then 4 else 3
  let counts := blockSelects s cls
  (wordsOf (n / 64 + 2) a n).foldl (fun s w =>
    let c := stagingCmd write w.1 w.2
    let p := stagingPort w.1
    let s := { s with ports := { s.ports with stgCmd := Table.put s.ports.stgCmd p c } }
    if counts then countBlock s cls p (stagingBeats c) else s) s

/-- Counts an access by the words it touches: Pontoon accesses by port (R320, R505), staging beats by port (R506). -/
def countAccess (s : State) (q : Acc) (write : Bool) (a n : Nat) : State :=
  if inAnyPontoon a then
    let i := spanOf ((a - 0x10000000) / 0x800000)
    let bit := if q.master = 5 ∨ q.master = 6 then 1 else 0
    if spanSelects s i 3 bit then
      (wordsOf (n / 64 + 2) a n).foldl (fun s w => countSpan s i 3 bit q.who (some w.1) 1) s
    else s
  else if s.inStaging a then driveStaging s write a n
  else s

/-- Notes an uncorrectable Pontoon read (R321, R329). -/
def notePoison (s : State) (q : Acc) (a : Nat) : State :=
  let i := (a - 0x10000000) / 0x800000
  let s := countSpan (bumpErr s (errKey 0 i 1) 16) (spanOf i) 3 7 q.who (some a) 1
  { s with ponAddr := Table.put s.ponAddr i (true, (a - 0x10000000) % 0x800000 / 64 * 64) }

/-- The first poisoned word of a range. -/
def poisonedIn (s : State) (a n : Nat) : Option Nat :=
  ((wordsOf (n / 64 + 2) a n).find? fun w => s.poison.contains (w.1 / 64)).map fun w => w.1

/-- The used-up retries of a master's access to Pontoon are reported once, counted in PON_ERR (R323). -/
def takeBusy (s : State) (q : Acc) (key a : Nat) : State × Bool :=
  if inAnyPontoon a && 4 ≤ Table.get 0 s.ports.busy key then
    let i := (a - 0x10000000) / 0x800000
    (countSpan (bumpErr { s with ports := { s.ports with busy := Table.del s.ports.busy key } } (errKey 0 i 2) 16)
      (spanOf i) 3 4 q.who (some a) 1, true)
  else (s, false)

/-- The units of 64 bytes of staging memory that a range touches, each with the first address touched in it. -/
def stagingUnits (s : State) (a n : Nat) : List Nat :=
  if s.inStaging a then (wordsOf (n / 64 + 2) a n).map fun w => w.1 else []

/-- The beats that the read of these units gets (R340, R415): each takes the next read status that stands at its port, and a port
with none answers good. Answers the statuses left and the addresses whose beat failed, with their ports. -/
def takeBeats : Table (List Nat) → List Nat → Table (List Nat) × List (Nat × Nat)
  | t, [] => (t, [])
  | t, a :: l =>
    let p := stagingPort a
    match Table.get [] t p with
    | [] => takeBeats t l
    | r :: rest =>
      let (t, bad) := takeBeats (if rest.isEmpty then Table.del t p else Table.put t p rest) l
      (t, if 2 ≤ r then (a, p) :: bad else bad)

/-- Is a write to the unit of address `a` still not accepted by its port (R414)? -/
def unaccepted (s : State) (a : Nat) : Bool := s.ports.stgWrites.any fun w => w.addr / 64 == a / 64

/-- Must the read of a unit wait: its port is in reset and brings no status for it (R416), or a write of it is not accepted
(R414)? -/
def unitWaits (s : State) (a : Nat) : Bool :=
  (flagAt s.ports.stgRst (stagingPort a) && (Table.get [] s.ports.stgRerr (stagingPort a)).isEmpty) || unaccepted s a

/-- What stops a read of a range that its Tollgate has passed. -/
def readFault (s : State) (q : Acc) (key : Nat) (b : Option Nat) (a n : Nat) : State × Option AccFail :=
  if heldByOther s b a n then (s, some .wait)
  else
    let (s, spent) := takeBusy s q key a
    if spent then (s, some (.busy a))
    else match poisonedIn s a n with
      | some w => if inAnyPontoon w then (notePoison s q w, some (.ecc w)) else (s, some (.progEcc w))
      | none =>
        let us := stagingUnits s a n
        if us.any (unitWaits s) then (s, some .wait)
        else match takeBeats s.ports.stgRerr us with
          | (_, []) => (s, none)
          | (t, (w, p) :: bad) =>
            let s := ((w, p) :: bad).foldl (fun s e => bumpErr s (errKey 0x1000 e.2 1) 32) s
            ({ s with ports := { s.ports with stgRerr := t } }, some (.rerr w))

/-- What stops a write of a range that its Tollgate has passed. A write to staging memory is posted: it does not wait for its port
(R353). -/
def writeFault (s : State) (q : Acc) (key : Nat) (b : Option Nat) (a n : Nat) : State × Option AccFail :=
  if heldByOther s b a n then (s, some .wait)
  else
    let (s, spent) := takeBusy s q key a
    if spent then (s, some (.busy a)) else (s, none)

/-- The Pontoon words with one wrong bit that an access reads: a read reads every word it touches, and a write reads those it does
not write in full (R320, R321). -/
def softIn (s : State) (write : Bool) (a n : Nat) : List Nat :=
  (s.soft.filter fun e =>
    decide (a < 64 * e.1 + 64) && decide (64 * e.1 < a + n) && !(write && a ≤ 64 * e.1 && 64 * e.1 + 64 ≤ a + n)).map (·.1)

/-- Single-bit errors in the words that a served access reads are corrected, written back and counted (R321, R505). -/
def correctSoft (s : State) (q : Acc) (write : Bool) (a n : Nat) : State :=
  let l := softIn s write a n
  l.foldl (fun s w =>
      let i := (64 * w - 0x10000000) / 0x800000
      countSpan (bumpErr { s with soft := Table.del s.soft w } (errKey 0 i 0) 32) (spanOf i) 3 6 q.who (some (64 * w)) 1) s

/-- The first addresses of an access in the Pontoon words for which the shadow stands in, once no spare is left (R328). -/
def divertedIn (s : State) (a n : Nat) : List Nat :=
  if inAnyPontoon a then
    match (s.span (spanOf ((a - 0x10000000) / 0x800000))).pon.shadow with
    | none => []
    | some r => ((wordsOf (n / 64 + 2) a n).map (·.1)).filter fun w => (w - 0x10000000) % 0x800000 / 1024 == r
  else []

/-- Diverted accesses are counted (R505). -/
def countDiverted (s : State) (q : Acc) (a n : Nat) : State :=
  (divertedIn s a n).foldl (fun s w => countSpan s (spanOf ((w - 0x10000000) / 0x800000)) 3 5 q.who (some w) 1) s

/-- The record of an access that has been checked and has not completed (R353). -/
def outstOf (s : State) (q : Acc) (key : Nat) (k : AKind) (a n : Nat) : Outst :=
  { key := key, kind := akindCode k, addr := a, len := n, span := q.sp.val, epoch := (s.span q.sp).epoch }

/-- Is this the access of the record, whatever the epoch under which it was checked? -/
def Outst.same (x y : Outst) : Bool := x.key == y.key && x.kind == y.kind && x.addr == y.addr && x.len == y.len

/-- An access that waits stays outstanding, under the epoch of its check (R353). -/
def staysOut (s : State) (q : Acc) (key : Nat) (k : AKind) (a n : Nat) : State :=
  let x := outstOf s q key k a n
  if s.ports.outst.any x.same then s else { s with ports := { s.ports with outst := s.ports.outst ++ [x] } }

/-- An access is outstanding no longer. -/
def endsOut (s : State) (q : Acc) (key : Nat) (k : AKind) (a n : Nat) : State :=
  let x := outstOf s q key k a n
  if s.ports.outst.any x.same then { s with ports := { s.ports with outst := s.ports.outst.filter fun y => !x.same y } } else s

/-- What a master still waited for is forgotten, as is the count of its retries: its access is abandoned (R278). -/
def forgetAccess (s : State) (key : Nat) : State :=
  if s.ports.outst.any (fun x => x.key == key) || Table.has s.ports.busy key then
    { s with ports := { s.ports with outst := s.ports.outst.filter fun x => x.key != key, busy := Table.del s.ports.busy key } }
  else s

/-- The Tollgate's judgement of an access (R346), made once: an access that waits keeps the verdict it has (R353). -/
def gateOnce (s : State) (q : Acc) (key : Nat) (dst : Bool) (k : AKind) (a n : Nat) : State × Option (Nat × W64) :=
  if s.ports.outst.any (outstOf s q key k a n).same then (s, none) else gateCheck s q dst k a n

/-- An access is served: its retries and its wait are over, its staging beats are taken, single-bit errors in the words it reads are
corrected, and it is counted. -/
def served (s : State) (q : Acc) (key : Nat) (k : AKind) (a n : Nat) : State :=
  let write := k == .write
  let s := endsOut s q key k a n
  let s := if inAnyPontoon a && Table.has s.ports.busy key then
    { s with ports := { s.ports with busy := Table.del s.ports.busy key } } else s
  let s := if !write && !s.ports.stgRerr.isEmpty then
    { s with ports := { s.ports with stgRerr := (takeBeats s.ports.stgRerr (stagingUnits s a n)).1 } } else s
  countAccess (countDiverted (correctSoft s q write a n) q a n) q write a n

/-- Ends an access that failed, or leaves it outstanding if it waits. -/
def stopped (s : State) (q : Acc) (key : Nat) (k : AKind) (a n : Nat) : AccFail → State
  | .wait => staysOut s q key k a n
  | _ => endsOut s q key k a n

/-- A checked read of `n` bytes on behalf of a retry key and a Berth. -/
def readAs (s : State) (q : Acc) (key : Nat) (b : Option Nat) (a n : Nat) : State × Except AccFail (List Byte) :=
  match gateOnce s q key false .read a n with
  | (s, some (w, r)) => (s, .error (.toll w r))
  | (s, none) =>
    match readFault s q key b a n with
    | (s, some e) => (stopped s q key .read a n e, .error e)
    | (s, none) => (served s q key .read a n, .ok (rawRead s a n))

/-- For whose Berth a master's access is made, when a LOCK hold of that Berth lets it pass (R182). -/
def Acc.holder (q : Acc) : Option Nat := if q.master = 0 then some q.berth else none

/-- A checked read of `n` bytes. -/
def physRead (s : State) (q : Acc) (a n : Nat) : State × Except AccFail (List Byte) := readAs s q (busyKey q) q.holder a n

/-- A write takes its place in memory, unit by unit: a unit of staging memory whose port is in reset, or that an earlier write
still waits for, waits in order (R414, R416). -/
def landAs (s : State) (q : Acc) (e : W32) (a : Nat) (l : List Byte) : State :=
  let holds := fun (s : State) (w : Nat) => flagAt s.ports.stgRst (stagingPort w) || unaccepted s w
  if (stagingUnits s a l.length).any (holds s) then
    (wordsOf (l.length / 64 + 2) a l.length).foldl (fun s w =>
      let d := (l.drop (w.1 - a)).take w.2
      if holds s w.1 then
        { s with ports := { s.ports with stgWrites := s.ports.stgWrites ++
            [{ addr := w.1, data := d, span := q.sp.val, berth := if q.master = 0 then q.berth else 1024, key := busyKey q
               epoch := e }] } }
      else rawWrite s w.1 d) s
  else rawWrite s a l

/-- A write checked under the epoch in force takes its place. -/
def land (s : State) (q : Acc) (a : Nat) (l : List Byte) : State := landAs s q (s.span q.sp).epoch a l

/-- The epoch under which an access was checked: that of its record, or for one checked just now the epoch in force (R353). -/
def checkedEpoch (s : State) (q : Acc) (key : Nat) (k : AKind) (a n : Nat) : W32 :=
  let x := outstOf s q key k a n
  match s.ports.outst.find? x.same with
  | some y => y.epoch
  | none => x.epoch

/-- A checked write on behalf of a retry key and a Berth. `dst` marks a SPAN.COPY destination. -/
def writeAs (s : State) (q : Acc) (key : Nat) (b : Option Nat) (dst : Bool) (a : Nat) (l : List Byte) : State × Except AccFail Unit :=
  match gateOnce s q key dst .write a l.length with
  | (s, some (w, r)) => (s, .error (.toll w r))
  | (s, none) =>
    match writeFault s q key b a l.length with
    | (s, some e) => (stopped s q key .write a l.length e, .error e)
    | (s, none) => (served (landAs s q (checkedEpoch s q key .write a l.length) a l) q key .write a l.length, .ok ())

/-- A checked write. `dst` marks a SPAN.COPY destination. -/
def physWrite (s : State) (q : Acc) (dst : Bool) (a : Nat) (l : List Byte) : State × Except AccFail Unit :=
  writeAs s q (busyKey q) q.holder dst a l

/-! ### What waits to take effect (R19, R325, R381, R425) -/

/-- What something that has arrived comes to. -/
inductive Applied where
  /-- It has taken effect, or has been refused. -/
  | done (s : State)
  /-- It waits: the state in which its access or request waits. -/
  | waits (s : State)

/-- The lane in which something that waits holds up what comes after it: Landing ports 0 to 3, Slipway ports 4 to 7, the Viaduct, the
Gangway. -/
def HeldCmd.lane : HeldCmd → Nat
  | .landing p _ _ _ => p
  | .slip p _ _ _ => 4 + p
  | .via _ _ => 8
  | .gw _ _ _ => 9
  | .gwCut _ _ _ => 9

/-- Does something wait in a lane? -/
def laneHeld (s : State) (k : Nat) : Bool := s.ports.held.any fun h => h.lane == k

/-- It joins what waits. -/
def holdCmd (s : State) (h : HeldCmd) : State := { s with ports := { s.ports with held := s.ports.held ++ [h] } }

/-- What waits in a lane is discarded. -/
def dropLane (s : State) (k : Nat) : State := { s with ports := { s.ports with held := s.ports.held.filter fun h => h.lane != k } }

/-- Something that waits changes nothing but what its access and its place in a queue have come to. -/
def stillWaiting (s t : State) : State :=
  { s with ports := { s.ports with outst := t.ports.outst, busy := t.ports.busy }
           keys := { s.keys with pkQueue := t.keys.pkQueue } }

/-- What arrives takes effect by `run`, or waits: behind what waits in its lane, or for its own access. -/
def takeOrHold (s : State) (h : HeldCmd) (run : State → Applied) : State :=
  if laneHeld s h.lane then holdCmd s h
  else match run s with
    | .done s => s
    | .waits t => holdCmd (stillWaiting s t) h

/-! ### B-space (R184, R185) -/

/-- The bits set in a Span's B-space of one world. -/
def Span.bits (x : Span) (north : Bool) : List Nat := if north then x.bitsN else x.bitsS

/-- Inserts a bit address into a rising list. -/
def insertBit : List Nat → Nat → List Nat
  | [], a => [a]
  | b :: t, a => if a < b then a :: b :: t else if a = b then b :: t else b :: insertBit t a

/-- Is bit address `a` reserved (R184)? -/
def bitReserved (a : Nat) : Bool := 0x3F040 ≤ a

/-- A bit of B-space: reserved bits read 0. -/
def State.bit (s : State) (i : SpanNo) (north : Bool) (a : Nat) : Bool :=
  !bitReserved a && ((s.span i).bits north).contains a

/-- Sets or clears a bit of B-space: a write of a reserved bit is ignored. -/
def State.setBit (s : State) (i : SpanNo) (north : Bool) (a : Nat) (v : Bool) : State :=
  if bitReserved a then s
  else s.modSpan i fun x =>
    let h := fun (l : List Nat) => if v then insertBit l a else l.filter (· != a)
    if north then { x with bitsN := h x.bitsN } else { x with bitsS := h x.bitsS }

/-- Address of the signal bit of Berth `b` (R184). -/
def signalBit (b : BerthNo) : Nat := 0x3F000 + b.val % 64

/-- Sets the signal bit of Berth `b` in the B-space of its home world (log entry 15). -/
def signal (s : State) (b : BerthNo) : State := s.setBit (berthSpan b) (s.ctx b).home (signalBit b) true

end Sys2Proof.Machine
end

