-- ==== Sys2Proof/Machine/Time.lean ====
section
/-!
DEFINITION. The passing of timebase ticks (R431, R434): the count, and everything that is counted in ticks at a Berth
(slack water R256, watchdog R498, gate limit R252, quantum R303, timer R254, tick counters R503 to R506). What else the
spec hangs on time happens by its own row, which first lets the ticks pass that lie before it (log entry 12).
-/
namespace Sys2Proof.Machine

/-- Do ticks reach the block: edges arrive, and the count is not held by Moored or Laid up (R21, R442)? An emulated sleep
leaves the count running (R497). -/
def ticking (s : State) : Bool :=
  !s.time.lost && s.power.good && (s.power.st == .underWay || s.power.st == .holding || s.power.emul != 0)

/-- Does Berth `b` sit on a Ferry that is halted (R490)? -/
def onHalted (s : State) (x : Berth) : Bool :=
  match x.ferry with
  | some f => (s.ferry f).halt == .halted
  | none => false

/-- Closes slack water as though its limit had expired (R21, R256). -/
def slackExpire (s : State) (b : BerthNo) : State :=
  let c := s.ctx b
  if c.slack then
    (s.setCtx b { c with slack := false, slackRem := 0, slackMark := true }).modSpan (berthSpan b) fun x =>
      x.modWorld c.north fun w => { w with slackStat := BitVec.ofNat 32 (satAdd 32 w.slackStat.toNat 1) }
  else s

/-- The watchdog of a context after `n` ticks, at count `now` (R498): it stops at its expiry, which then waits to be taken
(R257). -/
def wdogTicks (n : Nat) (now : W64) (c : Ctx) : Ctx :=
  if c.wdogLim = 0 ∨ c.wdogPend then c
  else if n < c.wdogRem.toNat then { c with wdogRem := BitVec.ofNat 32 (c.wdogRem.toNat - n) }
  else { c with wdogRem := 0, wdogPend := true, wdogAt := now - BitVec.ofNat 64 (n - c.wdogRem.toNat) }

/-- The timer of a context at count `now` (R254). -/
def timerAt (now : W64) (c : Ctx) : Ctx :=
  if c.timerArmed ∧ c.timerCmp ≠ 0 ∧ c.timerCmp.toNat ≤ now.toNat then
    { c with intPend := c.intPend ||| 1, timerArmed := false }
  else c

/-- GATE_LIM of the world a context runs in. -/
def gateLimit (s : State) (b : BerthNo) : Nat := ((s.span (berthSpan b)).world (s.ctx b).north).gateLim.toNat

/-- The gate of a Berth after `n` ticks (R252). -/
def gateTicks (n lim : Nat) (g : GateSave) : GateSave :=
  if g.raised then { g with ticks := g.ticks + n }
  else if g.ticks + n < lim then { g with ticks := g.ticks + n }
  else { g with ticks := g.ticks + n, due := true, raised := true }

/-- Does any counter of the Berth count top-down classes? -/
def countsTopDown (c : Ctx) : Bool :=
  (List.range 8).any fun k => let cfg := Table.get 0 c.cntCfg k; tb cfg 63 && (fld cfg 15 12 == 3)

/-- Tick counters of a running Berth (R503, R504): the class of a tick depends on microwords, so each tick falls to a
class by a free choice (log entry 13), but for a Berth held on its Ferry by a wait, whose ticks are back-starved. -/
def countTicks (s : State) (b : BerthNo) (n : Nat) : State :=
  let s := countBerth s b 6 0 n none
  let s := if (s.ctx b).slack then countBerth s b 6 1 n none else s
  if countsTopDown (s.ctx b) then
    if (s.berth b).wait ≠ .none then countBerth s b 3 3 n none
    else
      let k0 := s.freeWord.toNat % (n + 1)
      let k1 := s.drawn.freeWord.toNat % (n - k0 + 1)
      let k2 := s.drawn.drawn.freeWord.toNat % (n - k0 - k1 + 1)
      let s := countBerth s.drawn.drawn.drawn b 3 0 k0 none
      let s := countBerth s b 3 1 k1 none
      let s := countBerth s b 3 2 k2 none
      countBerth s b 3 3 (n - k0 - k1 - k2) none
  else s

/-- Berth `b` after `n` ticks. -/
def berthTicks (n : Nat) (s : State) (b : BerthNo) : State :=
  let x := s.berth b
  let held := onHalted s x
  let stopped := s.power.st != .underWay
  let c := timerAt s.time.count x.ctx
  let c := if !stopped && !held && (x.st == .ready || x.st == .running) then wdogTicks n s.time.count c else c
  let x := { x with
    ctx := c
    quantum := if x.st == .running && !held && !stopped then x.quantum + n else x.quantum
    gate := if held || stopped then x.gate else x.gate.map (gateTicks n (gateLimit s b)) }
  let s := s.setBerth b x
  let s := if x.st == .running && !held then countTicks s b n else s
  let c := s.ctx b
  if c.slack && !held && x.st == .running then
    if n < c.slackRem then s.setCtx b { c with slackRem := c.slackRem - n } else slackExpire s b
  else s

/-- BWDOG_CTL.limit. -/
def bwLimit (s : State) : Nat := fld (s.hreg 0x5F0020) 31 0

/-- Does the block watchdog count (R499)? -/
def bwCounts (s : State) : Bool :=
  s.power.st == .underWay && bwLimit s != 0 && !s.gw.bwExpired
    && !(tb (s.hreg 0x5F0000) 0 && s.ferries.any fun x => x.2.halt == .halted)

/-- Busy ticks of Span `i` (R505). -/
def spanBusy (n : Nat) (s : State) (i : SpanNo) : State :=
  let x := s.span i
  let who : Who := { north := false, sup := true, master := 6 }
  let free := (ferriesOf i).any fun f => (s.ferry f).berth.isNone && !(s.ferry f).agr.aground
  let waiting := (List.range 4).any fun p => !(Table.get [] x.ready p).isEmpty
  let s := if waiting && !free then countSpan s i 5 0 who none n else s
  let busy := fun (e : Engine) => !(x.unit e).jobs.isEmpty
  let s := if busy .truss then countSpan s i 5 1 { who with master := 1 } none n else s
  let s := if busy .sealU then countSpan s i 5 2 { who with master := 2 } none n else s
  let s := if busy .tender then countSpan s i 5 7 { who with master := 5 } none n else s
  let ops := fun (e : Engine) (lo hi : Nat) => (x.unit e).jobs.any fun j => lo ≤ fieldAt j.desc 0 2 && fieldAt j.desc 0 2 ≤ hi
  let s := if ops .cmpr 0x10 0x10 then countSpan s i 5 3 { who with master := 3 } none n else s
  let s := if busy .cmpr && !ops .cmpr 0x10 0x10 then countSpan s i 5 4 { who with master := 3 } none n else s
  let s := if ops .hash 0 0x1F then countSpan s i 5 5 { who with master := 4 } none n else s
  if ops .hash 0x20 0x2F then countSpan s i 5 6 { who with master := 4 } none n else s

/-- Does any Span counter count busy ticks? -/
def countsBusy (s : State) (i : SpanNo) : Bool :=
  (List.range 8).any fun k =>
    let cfg := s.hreg (0x510000 + i.val * 0x100 + 16 * k); tb cfg 63 && (fld cfg 15 12 == 5)

/-- `n` ticks of the timebase pass. -/
def passTicks (n : Nat) (s : State) : State :=
  if ticking s && n != 0 then
    let t := s.time
    let s := { s with time := { t with count := t.count + BitVec.ofNat 64 n, ticks := t.ticks + n } }
    let s := s.berths.foldl (fun s e => berthTicks n s (berthOf e.1)) s
    let s := if bwCounts s then { s with gw := { s.gw with bwRem := BitVec.ofNat 32 (s.gw.bwRem.toNat - n) } } else s
    let s := allSpans.foldl (fun s i => if countsBusy s i then spanBusy n s i else s) s
    countBlock s 6 7 n
  else s

/-- Ticks pass until `n` have passed since tick `start`, if they have not already. -/
def passUntil (start n : Nat) (s : State) : State := passTicks (start + n - s.time.ticks) s

end Sys2Proof.Machine
end

