-- ==== Sys2Proof/Machine/Micro.lean ====
section
/-!
DEFINITION. The microengine of a Ferry beneath the Natuta instructions: the read of a control-store word (R261, R279), the
conditions (R264), the ALU and the shifter (R266, R269), a Ferry that goes aground (R249), and the extension words that the base
microcode calls (R286, R287). What a base routine does is given by the rule of its Natuta instruction (log entry 79).
-/
namespace Sys2Proof.Machine

/-! ### Interrupts (R253) -/

/-- The highest level among the pending routed sources, 0 when there is none. -/
def pendLevel (c : Ctx) : Nat :=
  (List.range 6).foldl (fun m k => if c.intPend.getLsbD k then max m (fld (c.intRoute.setWidth 64) (4 * k + 3) (4 * k)) else m) 0

/-- Is an interrupt takeable? -/
def takeable (c : Ctx) : Bool :=
  decide (c.ipl.toNat < pendLevel c) && c.ie && !c.slack && c.lock.isNone && !c.gate

/-! ### Load delay (R188) -/

/-- Every load result still on its way lands (R188). -/
def Ctx.landAll (c : Ctx) : Ctx := { c with g := c.late.foldl (fun g e => Table.put g e.1 e.2) c.g, late := [] }

/-! ### Aground (R249) -/

/-- Ferry `f` goes aground with a cause (R249): it stops at once, its Berth is marked, and groups with agr = 1 are triggered. -/
def goAground (s : State) (f : FerryNo) (cause : Nat) (bare : Bool) : State :=
  let y := s.ferry f
  let rec' : AgroundRec := match y.berth with
    | none => { pc := 0, berth := 0, bare := bare, north := false, cause := BitVec.ofNat 6 cause, aground := true }
    | some b => { pc := (s.ctx b).pc, berth := BitVec.ofNat 10 b.val, bare := bare, north := (s.ctx b).north
                  cause := BitVec.ofNat 6 cause, aground := true }
  let s := (forgetAccess s f.val).setFerry f
    { y with agr := rec', berth := none, localMem := [], step := false, stepMask := false, micro := Micro.reset }
  let s := match y.berth with
    | none => s
    | some b =>
      raiseBerth (s.modBerth b fun x =>
        { x with st := .aground, ferry := none, wait := .none, cmd := none, switchReq := false, quantum := 0
                 acause := BitVec.ofNat 8 cause, lastRun := s.time.ticks
                 ctx := { x.ctx.landAll with slack := false, slackRem := 0, lock := none, wrote := [] } }) b 2
  let s := raise s (1024 + f.val) 1
  trigger s ((groupsOf s f).filter fun g => tb (xtCtl s g) 3) none 6 6

/-! ### Reading a control-store word (R261, R279) -/

/-- What the check bits and the parity bit make of a word. -/
inductive EccRead where
  /-- No error. -/
  | good
  /-- The parity bit is in error. -/
  | parity
  /-- A single error at a position of R261. -/
  | single (p : Nat)
  /-- Uncorrectable. -/
  | bad
  deriving DecidableEq, Repr

/-- The outcome of a read by the syndrome and the parity (R261): of a word whose bits at `flips` are wrong, where 0 is the parity
bit, the syndrome is the exclusive or of the positions, and the parity disagrees when their number is odd. -/
def eccRead (flips : List Nat) : EccRead :=
  let syn := flips.foldl (· ^^^ ·) 0
  if flips.length % 2 = 0 then (if syn = 0 then .good else .bad)
  else if syn = 0 then .parity
  else if syn ≤ 144 then .single syn
  else .bad

/-- The wrong bits with the one at `p` turned over. -/
def toggle (flips : List Nat) (p : Nat) : List Nat := if flips.contains p then flips.filter (· != p) else flips ++ [p]

/-- The bit of a word at a position 1 to 144. -/
def posBit (p : Nat) : Nat :=
  match [1, 2, 4, 8, 16, 32, 64, 128].idxOf? p with
  | some k => 136 + k
  | none => (eccPositions.idxOf? p).getD 0

/-- A word with the bits at some positions turned over. -/
def flipBits (w : Nat) (ps : List Nat) : Nat := ps.foldl (fun w p => if p = 0 then w else w ^^^ 2 ^ posBit p) w

/-- Word `a` of Ferry `f`'s store as the loader wrote it (R260, R282). -/
def storeWord (s : State) (f : FerryNo) (a : Nat) : Nat := fieldAt (Table.get [] s.ldr.stores f.val) (128 + 18 * a) 18

/-- Ferry `f` reads word `a` of its store (R261, R279): the word executed, a single-bit error corrected and counted; none where it is
uncorrectable or marked poisoned. -/
def fetchWord (s : State) (f : FerryNo) (a : Nat) : State × Option Nat :=
  let y := s.ferry f
  let w := storeWord s f a
  if y.cs.poison.contains a then (s, none)
  else if y.cs.flips.isEmpty then (s, some w)
  else
    let fl := Table.get [] y.cs.flips a
    match eccRead fl with
    | .good => (s, some (flipBits w fl))
    | .parity => (s.setFerry f { y with cs := { y.cs with flips := Table.put y.cs.flips a (toggle fl 0) } }, some (flipBits w fl))
    | .single p => (s.setFerry f { y with csErr := BitVec.ofNat 32 (satAdd 32 y.csErr.toNat 1) }, some (flipBits w (toggle fl p)))
    | .bad => (s, none)

/-- The words that a path from entry `a` may read, `a` first. -/
def routineWords (s : State) (f : FerryNo) (a : Nat) : List Nat :=
  ((mReach 4096 (storeWord s f) mFuel [{ a := a, stack := [], done := false }] []).map (·.a)).reverse.eraseDups

/-- Ferry `f` runs the base routine at entry `a`: its store's errors show in the words it reads. The entry is read; whether a word
further on is read is not known, and free (log entry 79). Answers whether an uncorrectable word was met. -/
def fetchRoutine (s : State) (f : FerryNo) (a : Nat) : State × Bool :=
  let cs := (s.ferry f).cs
  if cs.poison.isEmpty && cs.flips.isEmpty then (s, false)
  else
    (((a :: routineWords s f a).eraseDups).filter fun w => cs.poison.contains w || Table.has cs.flips w).foldl (fun r w =>
      if r.2 then r
      else if w = a || r.1.freeBit then
        let x := fetchWord (if w = a then r.1 else r.1.drawn) f w
        (x.1, x.2.isNone)
      else (r.1.drawn, false)) (s, false)

/-! ### ALU and shifter (R266, R269) -/

/-- A sum with its carry and its signed overflow (R195). -/
def addC (a b : W64) (c : Bool) : W64 × Bool × Bool :=
  let k := if c then 1 else 0
  let r := a + b + BitVec.ofNat 64 k
  (r, decide (2 ^ 64 ≤ a.toNat + b.toNat + k), decide (r.toInt ≠ a.toInt + b.toInt + (k : Int)))

/-- The number of ones of a word. -/
def ones64 (a : W64) : Nat := ((List.range 64).filter fun i => tb a i).length

/-- A result without carry or overflow. -/
def plain (r : W64) : W64 × Bool × Bool := (r, false, false)

/-- The ALU operations of R266: result, uc and uv. `fc` is FLAGS.c and `lit` the literal. NEG, INC and DEC carry as the difference or the
sum that they are (log entry 80). -/
def mAlu (op : Nat) (a b : W64) (fc : Bool) (lit : Nat) : W64 × Bool × Bool :=
  match op with
  | 0x00 => plain a
  | 0x01 => plain b
  | 0x02 => addC a b false
  | 0x03 => addC a b fc
  | 0x04 => addC a (~~~b) true
  | 0x05 => addC a (~~~b) fc
  | 0x06 => plain (a &&& b)
  | 0x07 => plain (a ||| b)
  | 0x08 => plain (a ^^^ b)
  | 0x09 => plain (a &&& ~~~b)
  | 0x0A => plain (~~~(a ||| b))
  | 0x0B => plain (~~~a)
  | 0x0C => addC 0 (~~~a) true
  | 0x0D => plain (if a.toInt < b.toInt then a else b)
  | 0x0E => plain (if a.toInt < b.toInt then b else a)
  | 0x0F => plain (if a.toNat < b.toNat then a else b)
  | 0x10 => plain (if a.toNat < b.toNat then b else a)
  | 0x11 => plain (BitVec.ofNat 64 (if a = 0 then 64 else 63 - Nat.log2 a.toNat))
  | 0x12 => plain (BitVec.ofNat 64 (ones64 a))
  | 0x13 => plain (BitVec.ofNat 64 (natOfBytesBE (bytesOfNat 8 a.toNat)))
  | 0x14 => plain (sext 8 a.toNat)
  | 0x15 => plain (sext 16 a.toNat)
  | 0x16 => plain (sext 32 a.toNat)
  | 0x17 => plain (at' a.toNat 7 0)
  | 0x18 => plain (at' a.toNat 15 0)
  | 0x19 => plain (at' a.toNat 31 0)
  | 0x1A => plain (setFld a (16 * (lit % 4) + 15) (16 * (lit % 4)) (b.toNat % 65536))
  | 0x1B => plain (BitVec.ofNat 64 ((a.toNat * 2 ^ 64 + b.toNat) >>> (8 * (lit % 8))))
  | 0x1C => plain (crc64 a (bytesOfNat 8 b.toNat))
  | 0x1D => plain (BitVec.ofNat 64 (((List.range 64).find? fun i => tb a i).getD 64))
  | 0x1E => addC a 1 false
  | 0x1F => addC a (~~~1) true
  | _ => plain a

/-- The shifter on B (R269, R197): the value and, for a shift that moves bits out, the last of them. `sh` is the instruction's sh field. -/
def mShift (shf : Nat) (b : W64) (sh : Nat) : W64 × Option Bool :=
  if shf = 0 then (b, none)
  else
    let n := match shf / 8 % 4 with
      | 0 => 8 * (shf % 8)
      | 1 => b.toNat
      | _ => sh
    match shf / 32 with
    | 0 => (if n < 64 then b <<< n else 0, some (0 < n && n < 64 && tb b (64 - n)))
    | 1 => (if n < 64 then b >>> n else 0, some (0 < n && n < 64 && tb b (n - 1)))
    | 2 => (b.sshiftRight (min n 64), some (0 < n && n < 64 && tb b (n - 1)))
    | _ => (b.rotateRight (n % 64), some false)

/-! ### Conditions (R264) -/

/-- The word of the instruction at the PC of Berth `b`, as its Span's program store holds it. -/
def instrWord (s : State) (b : BerthNo) : Nat :=
  let c := s.ctx b
  natOfBytes (memRead s.mem ((c.seg 0).base.toNat + c.pc.toNat) 4)

/-- The f bit of an instruction word (R207, R210): bit 11 in layouts I and I.h, bit 6 in layout A. -/
def fBit (w : Nat) : Bool := if 0x02 ≤ mf w 27 22 ∧ mf w 27 22 ≤ 0x05 then w.testBit 11 else w.testBit 6

/-- Bytes that Ferry `f` has posted and no port has accepted: what its write buffer holds (R270). -/
def postedBytes (s : State) (f : FerryNo) : Nat :=
  (s.ports.stgWrites.filter fun w => w.key == f.val).foldl (fun n w => n + w.data.length) 0

/-- Is epoch `x` older than `e`, in a count of 32 bits? -/
def olderEpoch (x e : W32) : Bool := x != e && decide ((e - x).toNat < 2 ^ 31)

/-- Is an access of Span `i` outstanding that was checked under an epoch older than `e` (R353, R354)? -/
def olderAccess (s : State) (i : SpanNo) (e : W32) : Bool :=
  (s.ports.stgWrites.any fun w => w.span == i.val && olderEpoch w.epoch e)
    || s.ports.outst.any fun x => x.span == i.val && olderEpoch x.epoch e

/-- The address of the record at the head of Berth `b`'s inbound ring (R300, R308). -/
def ringHead (s : State) (b : BerthNo) : Nat :=
  pontoonBase (berthSpan b) + 0x600000 + fld (s.hreg (bteOff b 8)) 4 0 * 65536 + (s.berth b).cons

/-- The value of a condition now, for a Ferry that runs Berth `b` (R264): codes that tell of a request or an access under way are known
only by what has been met. -/
def condNow (s : State) (f : FerryNo) (b : BerthNo) (m : Micro) (c : Nat) : Bool :=
  let x := s.berth b
  let k := x.ctx
  let y := s.ferry f
  let w := instrWord s b
  let i := berthSpan b
  let accepts := fun (e : Engine) => (((s.span i).unit e).jobs.filter fun j => j.berth == b).length < 4
  let inner := k.loops.head?
  let p := fun (n : Nat) => k.getP (BitVec.ofNat 3 n)
  let inLoop := fun (l : Loop) (a : W32) => decide (l.start.toNat ≤ a.toNat) && decide (a.toNat ≤ l.stop.toNat)
  let target := (k.pc.setWidth 64 + sext 22 (w % 2 ^ 22) * 4).setWidth 32
  match c with
  | 0 => m.uc
  | 1 => m.uv
  | 2 => m.uz
  | 3 => m.un
  | 4 => !m.uc
  | 5 => m.un != m.uv
  | 6 => (m.un != m.uv) || m.uz
  | 7 => !m.uc || m.uz
  | 8 => k.flags.c
  | 9 => k.flags.v
  | 10 => k.flags.z
  | 11 => k.flags.n
  | 12 => k.flags.dz
  | 13 => k.dzt
  | 14 => tb m.res 0
  | 15 => tb m.res 63
  | 24 => k.guard { gp := BitVec.ofNat 3 (mf w 31 29), gn := w.testBit 28 }
  | 25 => fBit w
  | 26 => p (mf w 15 13) != w.testBit 12
  | 27 => p (mf w 11 9) != w.testBit 8
  | 28 => (if mf w 27 22 = 0 then mf w 16 14 else mf w 21 19) == 0
  | 29 => mf w 18 16 == 0
  | 30 => mf w 21 17 == 0
  | 31 => mf w 16 12 == mf w 21 17
  | 32 => accepts .truss
  | 33 => accepts .sealU
  | 34 => accepts .cmpr
  | 35 => accepts .hash
  | 36 => accepts .tender
  | 39 => s.ent.st == .running
  | 40 => s.ent.st == .stopped || s.ent.st == .locked
  | 46 => berthFrozen s b
  | 47 => s.time.lost
  | 48 => x.cons != x.prod
  | 49 => x.cons != x.prod && fieldAt (memRead s.mem (ringHead s b) 64) 4 1 == 1
  | 52 => accepts .tender
  | 54 => s.via.linkUp
  | 55 => s.via.st == .paired
  | 56 => s.via.role == .lead
  | 57 => k.timerCmp != 0 && decide (k.timerCmp.toNat ≤ s.time.count.toNat)
  | 58 => (match x.wait with
    | .bitT _ d _ => decide (d.toNat ≤ s.time.count.toNat)
    | _ => false)
  | 59 => (match x.wait with
    | .bitT a _ _ => s.bit i k.north a.toNat
    | .bit a => s.bit i k.north a.toNat
    | _ => false)
  | 60 => s.bit i k.home (signalBit b)
  | 61 => y.berth.isSome
  | 62 => x.switchReq
  | 63 => (y.lb k.north).occ
  | 64 => takeable k
  | 65 => k.wdogPend
  | 66 => (match x.gate with
    | some g => g.due
    | none => false)
  | 67 => k.wdogPend || takeable k
  | 68 => decide (fld (s.hreg (spanOff i 0x800)) 31 0 ≤ x.quantum)
  | 69 => y.halt == .halting
  | 70 => k.slack
  | 71 => k.slackMark
  | 72 => k.lock.isSome
  | 73 => k.gate
  | 74 => k.sup
  | 75 => k.north
  | 76 => y.refloat
  | 77 => s.tamper.hold
  | 78 => x.switchReq || x.cmd.isSome
  | 79 => s.gw.attached
  | 80 => k.loops.isEmpty
  | 81 => k.loops.length == 4
  | 82 => (match inner with
    | some l => l.stop == k.pc
    | none => false)
  | 83 => (match inner with
    | some l => l.count == 1
    | none => false)
  | 84 => (match inner with
    | some l => !inLoop l target
    | none => true)
  | 85 => (match inner with
    | some l => inLoop l k.pc
    | none => false)
  | 90 => m.stack.isEmpty
  | 91 => 8 ≤ m.stack.length
  | 92 => k.long
  | 93 => k.getG (mf w 21 17 + 1) == 0
  | 94 => k.sup
  | 95 => (match k.loops with
    | l :: n :: _ => n.stop == l.stop
    | _ => false)
  | 105 =>
    let a := ((k.seg 0).base.toNat + k.pc.toNat) / 64
    (match Table.find y.ibuf (a % 256) with
     | some (t, v, _) => v && t == a
     | none => false)
  | 107 => postedBytes s f ≤ 128
  | 108 => postedBytes s f == 0
  | 109 => !olderAccess s i (s.span i).epoch
  | 110 => s.ports.outst.any fun o => o.key == f.val && o.kind == 1 && s.inStaging o.addr
  | 127 => true
  | n =>
    if 16 ≤ n ∧ n < 24 then p (n - 16)
    else if 86 ≤ n ∧ n < 90 then Table.get 0 m.ul (n - 86) == 0
    else false

/-- The value of a condition: one of codes 32 to 111 that has been met stays met (R265). -/
def condVal (s : State) (f : FerryNo) (b : BerthNo) (m : Micro) (c : Nat) : Bool :=
  condNow s f b m c || (32 ≤ c && c < 112 && m.met.contains c)

/-- Is a condition met under a polarity (R262)? -/
def condMet (cond : Nat → Bool) (c pol : Nat) : Bool := cond c != (pol == 1)

/-! ### Events of words (R272, R503) -/

/-- Event `evt` of a microword on behalf of Berth `b`: codes 12 to 15 are the operator events OE0 to OE3. -/
def microEvent (s : State) (b : BerthNo) (evt : Nat) : State :=
  if evt = 0 then s
  else if evt < 12 then countEv s b evt
  else countBerth s b 2 (evt - 12) 1 none

/-! ### What a word does inside the microengine (R260, R262, R266 to R269) -/

/-- The literal of a word: lit sign-extended (0x18), or lit_hi and lit (0x19). -/
def mLit (w sel : Nat) : W64 := if sel = 0x18 then sext 32 (mf w 31 0) else at' (mf w 47 0) 47 0

/-- A source that the microengine holds itself (R267); none for one of the Berth. -/
def mSource (m : Micro) (w sel : Nat) : Option W64 :=
  match sel with
  | 0x00 => some 0
  | 0x18 => some (mLit w sel)
  | 0x19 => some (mLit w sel)
  | 0x1E => some m.md
  | 0x1F => some m.ur
  | 0x2C => some (Table.get 0 m.ul (mf w 49 48))
  | 0x2D => some m.mul.1
  | 0x2E => some m.mul.2
  | 0x2F => some m.quot.1
  | 0x30 => some m.quot.2
  | 0x34 => some (Table.get 0 m.frame (mf w 3 0))
  | _ => if 0x08 ≤ sel ∧ sel ≤ 0x17 then some (Table.get 0 m.t (sel - 8)) else none

/-- A write to a destination that the microengine holds itself (R268); none for one of the Berth. -/
def mDest (m : Micro) (w : Nat) (r : W64) : Option Micro :=
  let d := mf w 85 80
  match d with
  | 0x00 => some m
  | 0x18 => some { m with ma := r }
  | 0x19 => some { m with mdOut := r }
  | 0x29 => some { m with uda := r }
  | 0x2C => some { m with frame := Table.put m.frame (mf w 3 0) r }
  | _ =>
    if 0x08 ≤ d ∧ d ≤ 0x17 then some { m with t := Table.put m.t (d - 8) r }
    else if 0x25 ≤ d ∧ d ≤ 0x28 then some { m with ul := Table.put m.ul (d - 0x25) r }
    else none

/-- The machine after the ALU and shifter of a word with operands `a` and `b`: its result and the micro flags (R266, R269). `fc` is FLAGS.c
and `sh` the instruction's sh field. -/
def mOperate (m : Micro) (w : Nat) (a b : W64) (fc : Bool) (sh : Nat) : Micro :=
  let (b, out) := mShift (mf w 79 73) b sh
  let (r, c, v) := mAlu (mf w 103 98) a b fc (mf w 31 0)
  { m with res := r, uc := out.getD c, uv := v, uz := r == 0, un := tb r 63 }

/-- Where a word leads (R262, R273, R275). -/
inductive MSucc where
  /-- To this word. -/
  | word (a : Nat)
  /-- The instruction ends: it retires, or is dispatched again. -/
  | dispatch (resume : Bool)
  /-- A push, pop or dispatch that the micro-stack does not allow: cause 0x18 (R274). -/
  | broken
  deriving DecidableEq, Repr

/-- The choice of the word after word `w` at `m.upc`, with what it does to the micro-stack and to UL(lsel) (R262, R274, R275). `cond` gives
the value of each condition. -/
def mSucc (m : Micro) (w : Nat) (cond : Nat → Bool) : Micro × MSucc :=
  let t := mf w 131 120
  let on := MSucc.word (m.upc + 1)
  match mf w 135 132 with
  | 0 => (m, on)
  | 1 => (m, .word t)
  | 2 => (m, if condMet cond (mf w 119 113) (mf w 112 112) then .word t else on)
  | 3 => if 8 ≤ m.stack.length then (m, .broken) else ({ m with stack := (m.upc + 1) :: m.stack }, .word t)
  | 4 => (match m.stack with
    | [] => (m, .broken)
    | a :: st => ({ m with stack := st }, .word a))
  | 5 => (m, if m.stack.isEmpty then .dispatch (w.testBit 0) else .broken)
  | 6 =>
    let q := 4 * mf w 119 115
    let k := (List.range 4).foldl (fun n i => if cond (q + i) then n + 2 ^ i else n) 0
    (m, .word (t / 16 * 16 + (t % 16 ||| k)))
  | 7 =>
    let k := mf w 49 48
    let n := Table.get 0 m.ul k - 1
    ({ m with ul := Table.put m.ul k n }, if n != 0 then .word t else on)
  | _ => (m, .broken)

/-- Runs the extension words from `m.upc` on, at most `n` of them, until the call has returned (R286, R287). They name no source or
destination outside the microengine, ask for no memory operation and no request, and wait for nothing. -/
def extRun (f : FerryNo) (b : BerthNo) : Nat → Micro → State → State
  | 0, m, s => s.modFerry f fun y => { y with micro := m }
  | n + 1, m, s =>
    match fetchWord s f m.upc with
    | (s, none) => goAground s f 0x19 false
    | (s, some w) =>
      let x := mOperate m w ((mSource m w (mf w 97 92)).getD 0) ((mSource m w (mf w 91 86)).getD 0) (s.ctx b).flags.c
        (mf (instrWord s b) 5 0)
      let x := (mDest x w x.res).getD x
      let s := microEvent s b (mf w 59 56)
      match mSucc x w (condVal s f b x) with
      | (x, .word a) =>
        if x.stack.isEmpty then s.modFerry f fun y => { y with micro := { x with upc := a } }
        else extRun f b n { x with upc := a } s
      | (_, _) => goAground s f 0x18 false

/-- The null extension word (R282), its check bits apart. -/
def nullExtWord (w : Nat) : Bool := mf w 135 0 == 4 * 2 ^ 132 + 127 * 2 ^ 105

/-- The machinery as the base microcode leaves it at a call: its arguments in T0 to T3, and the rest of it, which the base routine used
for itself, free (log entry 79). -/
def calledMicro (n a : Nat) (t0 t1 : W64) : Micro :=
  let g := fun (k : Nat) => Config.freeWord (n + k)
  let z := Config.freeWord (n + 20)
  { Micro.reset with
    upc := a, t := [(0, t0), (1, t1), (2, 0), (3, 0)] ++ (List.range 12).map fun k => (k + 4, g k)
    ul := (List.range 4).map fun k => (k, g (12 + k)), uc := tb z 0, uv := tb z 1, uz := tb z 2, un := tb z 3, res := g 16, stack := [0]
    met := (List.range 80).filterMap fun c => if (Config.freeByte n c).getLsbD 0 then some (c + 32) else none }

/-- Ferry `f` calls extension vector `v` for Berth `b` with its arguments (R286). Where the vector holds the null extension word, or no
image has been loaded, nothing happens. -/
def callVector (s : State) (f : FerryNo) (b : BerthNo) (v : Nat) (t0 t1 : W64) : State :=
  let a := 3584 + v
  let cs := (s.ferry f).cs
  let w := storeWord s f a
  if (w = 0 ∨ nullExtWord w) ∧ cs.poison.isEmpty ∧ cs.flips.isEmpty then s
  else
    let n := s.free
    extRun f b 33 (calledMicro n a t0 t1) { s with free := n + 21 }

end Sys2Proof.Machine
end

