-- ==== Sys2Proof/Machine/Berths.lean ====
section
/-!
DEFINITION. Berths as the Pilot handles them: the context in the Berth store (R301), ready queues and switches (R302 to
R304), and the commands of the Berth table (R297 to R299).
-/
namespace Sys2Proof.Machine

/-! ### The context in the Berth store -/

/-- Predicates as a byte: bit n is Pn, and bit 0 reads as 1 (R242). -/
def Ctx.predByte (c : Ctx) : Byte := c.p ||| 1

/-- A segment register pair in 16 bytes (R301). -/
def Seg.bytes (x : Seg) : List Byte := bytesOfNat 8 x.base.toNat ++ bytesOfNat 8 x.attr.toNat

/-- The microcode working state, bytes 648 to 1,023 of a context (R301): the custody mark in bit 0 of its first byte (R492, log entry
81), and what the last switch-out saved. -/
def Ctx.workBytes (c : Ctx) : List Byte :=
  let l := padTo 376 c.work
  ((l.headD 0 &&& 0xFE) ||| (if c.custody then 1 else 0)) :: l.drop 1

/-- The 1,024 bytes of a context (R301). -/
def Ctx.bytes (c : Ctx) (b : BerthNo) : List Byte :=
  let g := fun k => bytesOfNat 8 (Table.get (0 : W64) c.g k).toNat
  zeros 8 ++ (List.range 31).flatMap (fun k => g (k + 1)) ++ g 32
    ++ bytesOfNat 4 c.pc.toNat ++ [c.predByte, BitVec.ofNat 8 c.flags.byte, c.badDepth.getD (BitVec.ofNat 8 c.loops.length), 0]
    ++ bytesOfNat 8 (c.status b).toNat
    ++ (loopBytes c.loops).take (12 * c.loops.length) ++ (padTo 48 c.loopTail).drop (12 * c.loops.length)
    ++ (List.range 8).flatMap (fun k => (c.seg k).bytes)
    ++ bytesOfNat 8 c.intPend.toNat ++ bytesOfNat 8 c.intRoute.toNat ++ bytesOfNat 8 c.timerCmp.toNat
    ++ bytesOfNat 8 c.wdogLim.toNat ++ bytesOfNat 8 c.wdogRem.toNat ++ bytesOfNat 8 c.bcval.toNat
    ++ (List.range 8).flatMap (fun k => bytesOfNat 8 (Table.get (0 : W64) c.cntCfg k).toNat)
    ++ (List.range 8).flatMap (fun k => bytesOfNat 8 (Table.get (0 : W48) c.cntVal k).toNat)
    ++ padTo 16 c.waitRec ++ c.workBytes

/-- Does a write of `n` bytes at offset `o` touch bytes `lo` to `hi`? -/
def touches (o n lo hi : Nat) : Bool := o ≤ hi && lo < o + n

/-- A counter configuration as it is stored: reserved bits zero, reserved codes at their safe default (R502). -/
def cntCfgStored (v : W64) : W64 :=
  let v := v &&& ~~~ (ones 59 59 ||| ones 50 48 ||| ones 31 16)
  let v := if 4 < fld v 47 44 then setFld v 47 44 0 else v
  let v := if fld v 43 42 = 3 then setFld v 43 42 0 else v
  let v := if fld v 41 40 = 3 then setFld v 41 40 0 else v
  let v := if ferryClasses.length ≤ fld v 15 12 then setFld v 15 12 0 else v
  setFld v 11 0 (fld v 11 0 &&& ferryClasses.getD (fld v 15 12) 0)

/-- The context after bytes `l` are written at its offset `o` by source `src` (R301): STATUS keeps berth, home, world and
gate; bytes 648 on are not written. -/
def Ctx.written (c : Ctx) (b : BerthNo) (src : Nat) (o : Nat) (l : List Byte) : Ctx :=
  let m := overlay (c.bytes b) o l
  let f := fun k n => fieldAt m k n
  let n := l.length
  let depth := f 270 1
  let st := BitVec.ofNat 64 (f 272 8)
  { c with
    g := (List.range 31).foldl (fun t k => Table.put t (k + 1) (BitVec.ofNat 64 (f (8 * (k + 1)) 8)))
           (Table.put c.g 32 (BitVec.ofNat 64 (f 256 8)))
    pc := BitVec.ofNat 32 (f 264 4)
    p := BitVec.ofNat 8 (f 268 1)
    flags := Flags.ofByte (f 269 1)
    badDepth := if 4 < depth then some (BitVec.ofNat 8 depth) else none
    loops := if 4 < depth then [] else loopsOf depth ((m.drop 280).take 48)
    loopTail := (m.drop 280).take 48
    slack := if touches o n 272 279 then tb st 28 else c.slack
    sup := tb st 24, ipl := BitVec.ofNat 4 (fld st 23 20), ie := tb st 19, dzt := tb st 18
    segs := (List.range 8).foldl (fun t k => Table.put t k
        (({ Seg.zero with base := BitVec.ofNat 48 (f (328 + 16 * k) 8) }).withAttr (BitVec.ofNat 64 (f (336 + 16 * k) 8)))) c.segs
    segSrc := (List.range 8).foldl (fun t k =>
        if touches o n (336 + 16 * k) (343 + 16 * k) then Table.put t k src else t) c.segSrc
    intPend := BitVec.ofNat 6 (f 456 8), intRoute := BitVec.ofNat 24 (f 464 8), timerCmp := BitVec.ofNat 64 (f 472 8)
    timerArmed := c.timerArmed || touches o n 472 479
    wdogLim := BitVec.ofNat 32 (f 480 8), wdogRem := BitVec.ofNat 32 (f 488 8), bcval := BitVec.ofNat 64 (f 496 8)
    cntCfg := (List.range 8).foldl (fun t k =>
        if touches o n (504 + 8 * k) (511 + 8 * k) then Table.put t k (cntCfgStored (BitVec.ofNat 64 (f (504 + 8 * k) 8))) else t) c.cntCfg
    cntVal := (List.range 8).foldl (fun t k =>
        if touches o n (568 + 8 * k) (575 + 8 * k) then Table.put t k (BitVec.ofNat 48 (f (568 + 8 * k) 8)) else t) c.cntVal
    waitRec := (m.drop 632).take 16 }

/-- Is the Berth's live context what its store shows (R301, R491): idle or parked, or on a halted Ferry? -/
def ctxCurrent (s : State) (x : Berth) : Bool := x.st == .idle || x.st == .parked || onHalted s x

/-- The context a read of the Berth store returns. -/
def shownCtx (s : State) (b : BerthNo) : Ctx :=
  let x := s.berth b
  if ctxCurrent s x || x.st == .aground then x.ctx else x.img

/-- `n` bytes at offset `o` of Berth `b`'s context. -/
def readCtx (s : State) (b : BerthNo) (o n : Nat) : List Byte := (((shownCtx s b).bytes b).drop o).take n

/-- The context that a whole image of 1,024 bytes makes of Berth `b`'s context `c`: the working state and the custody mark come with
it (R389, R492). -/
def Ctx.imaged (c : Ctx) (b : BerthNo) (src : Nat) (l : List Byte) : Ctx :=
  { c.written b src 0 l with work := l.drop 648, custody := (l.getD 648 0).getLsbD 0 }

/-- Bytes `l` written at offset `o` of Berth `b`'s context: in a state in which the context is not current they are lost
at the next switch-out (R301). -/
def writeCtx (s : State) (b : BerthNo) (src o : Nat) (l : List Byte) : State :=
  s.modBerth b fun x =>
    if ctxCurrent s x || x.st == .aground then { x with ctx := x.ctx.written b src o l }
    else { x with img := x.img.written b src o l }

/-! ### Ready queues and switches -/

/-- BTE_CTL.prio of Berth `b` (R300). -/
def berthPrio (s : State) (b : BerthNo) : Nat := fld (s.hreg (bteOff b 0)) 21 20

/-- A Span's ready queue of priority `p`. -/
def readyQ (s : State) (i : SpanNo) (p : Nat) : List BerthNo := Table.get [] (s.span i).ready p

/-- Berth `b` leaves every ready queue. -/
def unqueue (s : State) (b : BerthNo) : State :=
  s.modSpan (berthSpan b) fun x => { x with ready := x.ready.map fun e => (e.1, e.2.filter (· != b)) }

/-- Berth `b` becomes ready, at the tail of the queue of its priority (R302). -/
def enqueue (s : State) (b : BerthNo) : State :=
  let p := berthPrio s b
  (s.modBerth b fun x => { x with st := .ready, ferry := none }).modSpan (berthSpan b) fun x =>
    { x with ready := Table.put x.ready p (Table.get [] x.ready p ++ [b]) }

/-- The wait record of a context (R301). -/
def waitBytes : Wait → List Byte
  | .none => zeros 16
  | .unit .tender bit => bytesOfNat 4 2 ++ bytesOfNat 4 bit.toNat ++ zeros 8
  | .unit _ bit => bytesOfNat 4 1 ++ bytesOfNat 4 bit.toNat ++ zeros 8
  | .bit a => bytesOfNat 4 4 ++ bytesOfNat 4 a.toNat ++ zeros 8
  | .bitT a d _ => bytesOfNat 4 3 ++ bytesOfNat 4 a.toNat ++ bytesOfNat 8 d.toNat
  | .bar _ _ _ => bytesOfNat 4 5 ++ zeros 12
  | .ckpt _ _ _ => bytesOfNat 4 6 ++ zeros 12
  | .key _ => bytesOfNat 4 7 ++ zeros 12
  | .rnd _ _ => bytesOfNat 4 7 ++ zeros 12
  | .post => bytesOfNat 4 2 ++ zeros 12
  | .fence _ => zeros 16

/-- The switch-out routine of Ferry `f` (R259): word 2 and its path, with the call of extension vector 1 (R286). Answers whether the
Ferry is still afloat. -/
def switchOutRoutine (s : State) (f : FerryNo) (b : BerthNo) : State × Bool :=
  match fetchRoutine s f 2 with
  | (s, true) => (goAground s f 0x19 false, false)
  | (s, false) =>
    let s := callVector s f b 1 (BitVec.ofNat 64 b.val) (BitVec.ofNat 64 (s.time.ticks - (s.berth b).heldSince))
    (s, !(s.ferry f).agr.aground)

/-- The Ferry of Berth `b` is freed and the context saved (R304): slack water closes (R256), local data is marked unwritten (R204), what
was left of a routine is discarded (R278), and the Berth takes state `dst` with wait `w`. What the microcode saves of its own is
not documented: free bytes (R301, log entry 3). -/
def saveBerth (s : State) (b : BerthNo) (dst : BerthSt) (w : Wait) : State :=
  let x := s.berth b
  let c := { x.ctx.landAll with slack := false, slackRem := 0, lock := none, wrote := [], waitRec := waitBytes w
                                work := (List.range 376).map (Config.freeByte s.free) }
  let s := match x.ferry with
    | some f => (forgetAccess s f.val).modFerry f fun y =>
        { y with berth := none, localMem := [], step := false, stepMask := false, micro := Micro.reset }
    | none => s
  let s := s.drawn.setBerth b { x with st := dst, ctx := c, img := c, ferry := none, wait := w, quantum := 0, switchReq := false,
                                       cmd := if dst = .waiting ∨ dst = .ready then x.cmd else none, lastRun := s.time.ticks }
  countSpan s (berthSpan b) 4 0 { north := c.north, sup := c.sup, master := 6 } none 1

/-- Berth `b` leaves its Ferry (R304), unless the routine that saves it puts the Ferry aground. -/
def leaveFerry (s : State) (b : BerthNo) (dst : BerthSt) (w : Wait) : State :=
  match (s.berth b).ferry with
  | none => saveBerth s b dst w
  | some f =>
    match switchOutRoutine s f b with
    | (s, true) => saveBerth s b dst w
    | (s, false) => s

/-- Berth `b` leaves its Ferry and stays ready. -/
def leaveReady (s : State) (b : BerthNo) : State :=
  let s := leaveFerry s b .ready .none
  if (s.berth b).st = .ready then enqueue s b else s

/-- Arrival of Berth `b` at a barrier is withdrawn (log entry 16). -/
def withdraw (s : State) (b : BerthNo) : State :=
  let l := s.barriers.map fun e => (e.1, { e.2 with arrived := e.2.arrived.filter (· != b) })
  { s with barriers := l.filter fun e => !e.2.arrived.isEmpty }

/-- A wait of Berth `b` is abandoned (R278): its arrival at a barrier, its checkpoint or its request is withdrawn. -/
def abandonWait (s : State) (b : BerthNo) : State :=
  let s := withdraw s b
  { s with
    via := { s.via with
      items := s.via.items.filter fun e => decide (e.2 ≠ .ckpt b)
      lags := Table.del s.via.lags b.val }
    ent := { s.ent with waits := s.ent.waits.filter fun w => w.berth != b } }

/-- Judges the segment attributes written to a context since its last load (R179, R301). -/
def judgeSegs (s : State) (b : BerthNo) : State :=
  let c := s.ctx b
  let s := c.segSrc.foldl (fun s e =>
    let x := (s.ctx b).seg e.1
    if x.north = c.north then s
    else
      let y := { x with north := c.north, r := false, w := false, x := false }
      clampLog (s.modCtx b fun c => c.setSeg e.1 y) e.2 3 (fidSeg false e.1 b.val) x.attr 0) s
  s.modCtx b fun c => { c with segSrc := [] }

/-- Places Berth `b` on Ferry `f` (R302): its context is loaded, local data is unwritten (R204), and the switch-in routine at word 1
calls extension vector 0 before the first instruction (R259, R286). -/
def placeOn (s : State) (b : BerthNo) (f : FerryNo) : State :=
  let s := judgeSegs (unqueue s b) b
  let idle := s.time.ticks - (s.berth b).lastRun
  let s := s.modBerth b fun x => { x with st := .running, ferry := some f, wait := .none, quantum := 0, switchReq := false,
                                          heldSince := s.time.ticks }
  let s := s.modFerry f fun y => { y with berth := some b, localMem := [], micro := Micro.reset }
  match fetchRoutine s f 1 with
  | (s, true) => goAground s f 0x19 false
  | (s, false) => callVector s f b 0 (BitVec.ofNat 64 b.val) (BitVec.ofNat 64 idle)

/-- May the Pilot place a Berth on Ferry `f` (R249, R302, R490, R444)? -/
def ferryFree (s : State) (f : FerryNo) : Bool :=
  let y := s.ferry f
  y.berth.isNone && !y.agr.aground && !y.refloat && y.halt == .run

/-- Do the engines of the block run: Under way, afloat, no tamper hold (R442, R462)? -/
def enginesRun (s : State) : Bool := s.power.st == .underWay && s.power.target.isNone && !s.ashore && !s.tamper.hold

/-- The Pilot of Span `i` places the head of the highest ready queue on the lowest free Ferry (R302). -/
def pilotPlace (s : State) (i : SpanNo) : State :=
  if enginesRun s && !(s.span i).pilotFault then
    match (ferriesOf i).find? (ferryFree s), ((List.range 4).flatMap fun p => readyQ s i p).head? with
    | some f, some b => placeOn s b f
    | _, _ => s
  else s

/-- Is a switch-out of Berth `b` postponed (R297): slack water, a LOCK hold or an occupied lifeboat set? -/
def postponed (s : State) (b : BerthNo) : Bool :=
  let x := s.berth b
  x.ctx.slack || x.ctx.lock.isSome ||
    (match x.ferry with
     | some f => ((s.ferry f).lb x.ctx.north).occ
     | none => false)

/-! ### Commands of the Berth table -/

/-- The Berth table's command codes (R297). -/
inductive BCmd where
  /-- 0x1. -/
  | start
  /-- 0x2. -/
  | resume
  /-- 0x3. -/
  | park
  /-- 0x4. -/
  | unpark
  /-- 0x5. -/
  | stop
  /-- 0x6. -/
  | rehome
  deriving DecidableEq, Repr

/-- BTE_CTL.world of Berth `b`. -/
def bteWorld (s : State) (b : BerthNo) : Bool := tb (s.hreg (bteOff b 0)) 17

/-- BTE_CTL.level of Berth `b`. -/
def bteLevel (s : State) (b : BerthNo) : Bool := tb (s.hreg (bteOff b 0)) 16

/-- The fresh context of R299. -/
def freshCtx (s : State) (b : BerthNo) : Ctx :=
  let w := bteWorld s b
  { Ctx.zero with
    pc := BitVec.ofNat 32 (fld (s.hreg (bteOff b 0)) 63 32 / 4 * 4), north := w, home := w, sup := bteLevel s b
    segs := [(0, { base := BitVec.ofNat 48 (progBase (berthSpan b)), limit := 0xFFFFF, north := w, x := true, w := false,
                   r := true })] }

/-- Is Berth `b` marked in VIA_MB on a Mirror (R389)? -/
def mirroredHere (s : State) (b : BerthNo) : Bool :=
  s.via.role == .mirror && tb (s.hreg (0x300100 + 8 * (b.val / 64))) (b.val % 64)

/-- Is a command accepted in the Berth's state (R297, R389)? -/
def cmdAccepted (s : State) (b : BerthNo) (k : BCmd) : Bool :=
  let st := (s.berth b).st
  !s.ashore && !(mirroredHere s b && k != .stop) &&
  match k with
  | .start => st == .idle
  | .resume => st == .idle
  | .park => st != .idle && st != .parked
  | .unpark => st == .parked
  | .stop => st != .idle
  | .rehome => st == .idle || st == .parked

/-- The end test of the loop stack when the instruction at `pc` retires (R186): the stack left, and where execution
continues if a level goes round again. -/
def loopEnd (pc : W32) : List Loop → List Loop × Option W32
  | [] => ([], none)
  | l :: t =>
    if l.stop = pc then
      if l.count - 1 = 0 then loopEnd pc t else ({ l with count := l.count - 1 } :: t, some l.start)
    else (l :: t, none)

/-- The context after the instruction at its PC retires without a transfer (R186). -/
def Ctx.advance (c : Ctx) : Ctx :=
  let r := loopEnd c.pc c.loops
  { c with loops := r.1, pc := r.2.getD (c.pc + 4) }

/-- Applies the registers that a completed KEY or PK operation writes and retires it. -/
def keyRetire (s : State) (b : BerthNo) (outs : List (Nat × W64)) : State :=
  s.modBerth b fun x =>
    let c := outs.foldl (fun c e => c.setG e.1 e.2) x.ctx
    { x with ctx := { c.advance with wrote := [] }, wait := .none }

/-- The instruction that Berth `b` waits at retires, its context changed by `h` first (the PC of an accepted issue.W has
moved on already, R228): a waiting Berth becomes ready, or
takes the state of a postponed PARK or STOP; one held on its Ferry goes on there (R212, R248, R296). -/
def finishWait (s : State) (b : BerthNo) (h : Ctx → Ctx) : State :=
  let x := s.berth b
  let c := match x.wait with
    | .unit _ _ => h x.ctx
    | _ => { (h x.ctx).advance with wrote := [] }
  match x.st, x.cmd with
  | .waiting, some dst => s.setBerth b { x with ctx := c, img := c, wait := .none, st := dst, cmd := none }
  | .waiting, none => enqueue (s.setBerth b { x with ctx := c, wait := .none }) b
  | _, _ => s.setBerth b { x with ctx := c, wait := .none }

/-- Releases the members of group `g` that wait at its barrier, with result `v` (R212, R394, R471). -/
def releaseBarrier (s : State) (g : Nat) (v : Bool) : State :=
  match Table.find s.barriers g with
  | none => s
  | some x =>
    let s := { s with barriers := Table.del s.barriers g }
    x.arrived.foldl (fun s b =>
      match (s.berth b).wait with
      | .bar _ pd _ => finishWait s b fun c => c.setP pd v
      | _ => s) s

/-- PARK or STOP of Berth `b` (R297): at once when it is not running or its Ferry is halted (R496), else at its next
dispatch. A KEY or PK operation under way completes first (R231). -/
def haltBerth (s : State) (b : BerthNo) (dst : BerthSt) : State :=
  let x := s.berth b
  match x.st with
  | .running => if onHalted s x then leaveFerry s b dst .none else s.setBerth b { x with cmd := some dst }
  | .waiting =>
    (match x.wait with
     | .key (.done outs) => (keyRetire s b outs).modBerth b fun y => { y with st := dst, img := y.ctx, cmd := none }
     | .key _ => s.setBerth b { x with cmd := some dst }
     | _ => (abandonWait s b).modBerth b fun y => { y with st := dst, wait := .none, img := y.ctx, cmd := none })
  | _ => (unqueue s b).modBerth b fun y => { y with st := dst, img := y.ctx, cmd := none }

/-- A Berth command (R297): carried out, or refused with its flag and event. -/
def berthCmd (s : State) (b : BerthNo) (k : BCmd) : State :=
  if cmdAccepted s b k then
    match k with
    | .start =>
      enqueue (s.modBerth b fun x =>
        { Berth.reset with ctx := freshCtx s b, img := freshCtx s b, drops := x.drops, refused := x.refused, acause := x.acause,
                           lastRun := x.lastRun }) b
    | .resume => enqueue s b
    | .park => haltBerth s b .parked
    | .unpark => enqueue s b
    | .stop => haltBerth s b .idle
    | .rehome => s.modBerth b fun x =>
        let c := { Ctx.zero with north := bteWorld s b, home := bteWorld s b, sup := bteLevel s b }
        { x with ctx := c, img := c, gate := none }
  else raiseBerth (s.modBerth b fun x => { x with refused := true }) b 4

end Sys2Proof.Machine
end

