-- ==== Sys2Proof/Machine/ViaSend.lean ====
section
/-!
DEFINITION. Sending on the Viaduct (R376 to R378): frames as they leave, protected under the link keys.
-/
namespace Sys2Proof.Machine

/-- Keystone slot `n`. -/
def State.slot (s : State) (n : Nat) : KeySlot := Table.get KeySlot.empty s.keys.slots n

/-- The state with Keystone slot `n` replaced. -/
def State.setSlot (s : State) (n : Nat) (k : KeySlot) : State :=
  { s with keys := { s.keys with slots := Table.put s.keys.slots n k } }

/-- Key material of slot `n`. -/
def State.keyOf (s : State) (n : Nat) : List Byte := (s.slot n).key

/-- Header bytes 0 to 31 of a frame (R376). -/
def viaHeader (ty : Nat) (prot : Bool) (len seq : Nat) (epoch : W32) (pair : List Byte) : List Byte :=
  bytesOfNat 2 0x5644 ++ [BitVec.ofNat 8 ty, if prot then 1 else 0] ++ bytesOfNat 4 len ++ bytesOfNat 8 seq
    ++ bytesOfNat 4 epoch.toNat ++ zeros 4 ++ padTo 8 (pair.take 8)

/-- The IV of a protected frame (R377). -/
def viaIv (seq : Nat) : List Byte := bytesOfNat 8 seq ++ zeros 4

/-- Link slot that protects frames this block sends: 4 from the Lead, 5 from the Mirror (R377). -/
def viaTxSlot (s : State) : Nat := if s.via.role == .mirror then 5 else 4

/-- Link slot of frames this block receives. -/
def viaRxSlot (s : State) : Nat := if s.via.role == .mirror then 4 else 5

/-- The key of a direction: the derived key while the pairing still verifies, the link slot after (R380, R381). -/
def linkKey (s : State) (slot : Nat) : List Byte :=
  if s.via.linkKeys.isEmpty then s.keyOf slot else (s.via.linkKeys.drop (32 * (slot - 4))).take 32

/-- Beats of a frame with `n` payload bytes (R376). -/
def viaBeats (n : Nat) : Nat := 2 + (n + 127) / 128

/-- Can a frame leave: LINK_UP and VD_RST_N are both high (R418)? -/
def viaLive (s : State) : Bool := s.via.linkUp && !s.ports.vdRst

/-- Sends one frame (R376 to R378); protected frames take the next sequence. Nothing leaves while LINK_UP or VD_RST_N is low (R418). -/
def viaSend (s : State) (ty : Nat) (prot : Bool) (body : List Byte) : State :=
  if !viaLive s then s
  else
  let v := s.via
  let seq := if prot then v.txSeq else 0
  let hdr := viaHeader ty prot body.length seq v.epoch (if prot then v.transcript else [])
  let (ct, tag) := if prot then gcmEnc (linkKey s (viaTxSlot s)) (viaIv seq) hdr body else (body, zeros 16)
  let s := { s with via := { v with
    out := v.out ++ [{ hdr := hdr, body := ct, tag := tag }]
    txSeq := if prot then v.txSeq + 1 else v.txSeq
    lastTx := s.time.ticks } }
  let s := countBlock s 5 0 (viaBeats body.length)
  let s := countBlock s 5 2 1
  if ty = 0x10 then countBlock s 5 4 1 else s

/-- Sends a frame whose item waits for an ACK of its sequence (R383). -/
def viaSendItem (s : State) (ty : Nat) (body : List Byte) (it : ViaItem) : State :=
  let q := s.via.txSeq
  let s := viaSend s ty true body
  { s with via := { s.via with items := s.via.items ++ [(q, it)] } }

/-- Is the block a Lead in Syncing or Paired (R382)? -/
def mirroring (s : State) : Bool := s.via.role == .lead && (s.via.st == .syncing || s.via.st == .paired)

/-- Is the block a Mirror in Syncing or Paired (R392)? -/
def mirrorBusy (s : State) : Bool := s.via.role == .mirror && (s.via.st == .syncing || s.via.st == .paired)

/-- Is host-window offset `o` a mirrored register (R392)? -/
def mirroredReg (o : Nat) : Bool :=
  (0x200000 ≤ o && o < 0x210000 && (o % 0x800 < 0x400 || o % 0x800 == 0x400))
    || (0x100000 ≤ o && o < 0x108000 && o % 0x20 < 0x18)
    || (0x010000 ≤ o && o < 0x020000 && (o % 0x1000 == 0x800 || o % 0x1000 == 0x808))
    || (0x108000 ≤ o && o < 0x110000 && o % 0x20 == 0)
    || (0x300100 ≤ o && o ≤ 0x300178) || (0x301000 ≤ o && o ≤ 0x302FF8)

/-- Mirrors a write of register `o` with its value as written (R378, R392). -/
def viaConfigSend (s : State) (src : WSrc) (o : Nat) (v : W64) : State :=
  if mirroring s && mirroredReg o then
    let by' := match src with
      | .host => 0
      | .gangway => 0
      | _ => 1
    viaSend s 0x25 true (bytesOfNat 4 o ++ [BitVec.ofNat 8 by'] ++ zeros 3 ++ bytesOfNat 8 v.toNat)
  else s

end Sys2Proof.Machine
end

