-- ==== Sys2Proof/Machine/Entropy.lean ====
section
/-!
DEFINITION. The DRBG as its consumers meet it (R363 to R367) and the eddy sources with their health tests (R359 to R362,
R369, R370). Which requests wait, and what serving them does, stands in EntropyRows.lean.
-/
namespace Sys2Proof.Machine

/-- The count at which requests wait for a seed (R367). -/
def stretchLimit : Nat := 1048576

/-- The reseed interval (R363). -/
def drbgInterval (s : State) : Nat := 2 ^ fld (s.hreg 0x400010) 3 0

/-- Is a reseed due before the next request (R367)? -/
def reseedDue (s : State) : Bool := s.ent.st == .running && drbgInterval s ≤ s.ent.served && s.ent.seed.isSome

/-- Reseeds from the ready seed (R367). -/
def reseed (s : State) : State :=
  match s.ent.seed with
  | none => s
  | some x =>
    let kv := drbgReseed s.ent.key s.ent.v x
    countBlock { s with ent := { s.ent with key := kv.1, v := kv.2, served := 0, seed := none } } 6 1 1

/-- One request of `n` bytes of a running DRBG (R366). -/
def drawOne (s : State) (n : Nat) : State × List Byte :=
  let s := if reseedDue s then reseed s else s
  let r := drbgGen s.ent.key s.ent.v n
  (countBlock { s with ent := { s.ent with key := r.2.1, v := r.2.2, served := s.ent.served + 1 } } 6 0 1, r.1)

/-- How requests end (R365). -/
inductive Draw where
  /-- Served: the bytes of each request. -/
  | ok (l : List (List Byte))
  /-- They wait. -/
  | wait
  /-- They end with this status, and deliver no bits. -/
  | fail (status : Nat)
  deriving DecidableEq, Repr

/-- Can the DRBG serve a request at once (R365): it is running, and below the stretch limit or with a seed to take? -/
def canServe (s : State) : Bool := s.ent.st == .running && (decide (s.ent.served < stretchLimit) || s.ent.seed.isSome)

/-- Makes requests one at a time for as long as each can be served (R365, R367): the bytes of those served join `l`. -/
def drawMany : List Nat → State → List (List Byte) → State × List (List Byte)
  | [], s, l => (s, l)
  | n :: ns, s, l => if canServe s then drawMany ns (drawOne s n).1 (l ++ [(drawOne s n).2]) else (s, l)

/-- The bits that the operation of Berth `b` in wait has drawn. -/
def drawnFor (s : State) (b : BerthNo) : List (List Byte) :=
  match s.ent.waits.find? fun w => w.berth == b with
  | some w => w.got
  | none => []

/-- Berth `b` waits for the DRBG no longer. -/
def dropWait (s : State) (b : BerthNo) : State :=
  { s with ent := { s.ent with waits := s.ent.waits.filter fun w => w.berth != b } }

/-- The next request of Berth `b` joins those that wait, or waits on (R365): a request arrives when the one before it in its
operation has been served. -/
def drawWait (s : State) (b : BerthNo) (got : List (List Byte)) : State :=
  let x : DrbgReq := { berth := b, since := s.time.ticks, tmo := fld (s.hreg 0x400018) 31 0, got := got }
  match s.ent.waits.find? fun w => w.berth == b with
  | none => { s with ent := { s.ent with waits := s.ent.waits ++ [x] } }
  | some w =>
    if w.got.length = got.length then s
    else { s with ent := { s.ent with waits := s.ent.waits.map fun y => if y.berth == b then x else y } }

/-- Makes the requests of an operation of Berth `b`, of the given lengths, at most 128 bytes each (R365, R367). What has been
served stays served while the next one waits. -/
def draws (s : State) (b : BerthNo) (ns : List Nat) : State × Draw :=
  match s.ent.st with
  | .stopped => (dropWait s b, .fail 0x0D)
  | .locked => (dropWait s b, .fail 0x0D)
  | _ =>
    let got := drawnFor s b
    let r := drawMany (ns.drop got.length) s got
    if r.2.length < ns.length then (drawWait r.1 b r.2, .wait) else (dropWait r.1 b, .ok r.2)

/-- The waiting request of Berth `b` ends with a status and delivers no bits (R365). -/
def endRequest (s : State) (b : BerthNo) (status : Nat) : State :=
  let s := dropWait s b
  match (s.berth b).wait with
  | .rnd rd rb => finishWait s b fun c => (c.setG rd.toNat 0).setG rb.toNat (BitVec.ofNat 64 status)
  | .key (.drbg _ _) => s.modBerth b fun x => { x with wait := .key (.done [(1, BitVec.ofNat 64 status)]) }
  | _ => s

/-- Every waiting request ends with ENTROPY_FAIL (R365, R369). -/
def failWaits (s : State) : State := s.ent.waits.foldl (fun s w => endRequest s w.berth 0x0D) s

/-! ### Eddy sources -/

/-- Source 0 or 1. -/
def State.eddy (s : State) (k : Bool) : Eddy := if k then s.ent.e1 else s.ent.e0

/-- The state with source 0 or 1 replaced. -/
def State.setEddy (s : State) (k : Bool) (x : Eddy) : State :=
  if k then { s with ent := { s.ent with e1 := x } } else { s with ent := { s.ent with e0 := x } }

/-- The two health tests of R360 over one more sample: the source with its tests advanced, and whether the repetition
count and the adaptive proportion fail at it. -/
def eddyTests (x : Eddy) (bit : Bool) : Eddy × Bool × Bool :=
  let run := if x.run ≠ 0 ∧ bit = x.last then x.run + 1 else 1
  let start := x.win = 0
  let first := if start then bit else x.first
  let recur := if start then 1 else if bit = x.first then x.recur + 1 else x.recur
  let win := if x.win + 1 = 1024 then 0 else x.win + 1
  ({ x with last := bit, run := run, first := first, win := win, recur := recur }, 35 ≤ run, 757 ≤ recur)

/-- Number of a source. -/
def eddyNo (k : Bool) : Nat := if k then 1 else 0

/-- How many sources are enabled. -/
def eddiesOn (s : State) : Nat := (if s.ent.e0.st = .enabled then 1 else 0) + (if s.ent.e1.st = .enabled then 1 else 0)

/-- The DRBG stops, its state zeroised (R369, R371). -/
def stopDrbg (s : State) : State :=
  { s with ent := { s.ent with st := .stopped, key := [], v := [], served := 0, seed := none, gather := [] } }

/-- Source `k` is disabled (R369): its event, and what follows for the seed and the DRBG. A ready seed is complete and
stays. -/
def disableEddy (s : State) (k : Bool) (why : Nat) : State :=
  let x := s.eddy k
  let s := s.setEddy k { x with st := .disabled, testing := false, why := BitVec.ofNat 2 why }
  let s := raise { s with ent := { s.ent with gather := [] } } 1348 (eddyNo k)
  if eddiesOn s = 0 ∧ !(s.ent.e0.st = .starting) ∧ !(s.ent.e1.st = .starting) ∧ s.ent.st ≠ .locked then
    if s.ent.st = .stopped then s else raise (failWaits (stopDrbg s)) 1349 1
  else s

/-- Is it the turn of source `k` in the gathering of a seed (R362): alternately with both enabled? -/
def gatherTurn (s : State) (k : Bool) : Bool :=
  s.ent.seed.isNone && s.ent.gather.length < 768 && (s.eddy k).st == .enabled
    && (eddiesOn s == 1 || s.ent.gather.length % 2 == eddyNo k)

/-- The bytes of a bit string, its first bit the least significant of the first byte. -/
def bytesOfBits : Nat → List Bool → List Byte
  | 0, _ => []
  | n + 1, l =>
    BitVec.ofNat 8 ((l.take 8).foldr (fun b a => (if b then 1 else 0) + 2 * a) 0) :: bytesOfBits n (l.drop 8)

/-- Do the sources, the conditioner and the DRBG run (R364, R371, R445, R497): the core works, its start sequence has begun to serve,
and no sleep has been entered? -/
def entropyOn (s : State) : Bool :=
  s.power.good && (s.power.st == .underWay || s.power.st == .holding) && s.power.fin != some .started
    && s.power.target != some .moored && s.power.target != some .laidUp

/-- The conditioner forms the Pontoon scramble key from the first 768 samples after a reset, in the order in which they are taken (R319,
R371; log entry 83). -/
def scrambleSample (s : State) (bit : Bool) : State :=
  if s.ent.scramble.isSome then s
  else
    let l := s.ent.raw ++ [bit]
    if l.length < 768 then { s with ent := { s.ent with raw := l } }
    else { s with ent := { s.ent with raw := [], scramble := some (sha3_384 (bytesOfBits 96 l)) } }

/-- A source takes one sample (R360, R361): its tests run; it fails, or the sample joins the seed. -/
def eddySample (s : State) (k bit : Bool) : State :=
  let x := s.eddy k
  if s.time.lost ∨ !entropyOn s ∨ (x.st ≠ .enabled ∧ !x.testing) ∨ (x.testing ∧ 1024 ≤ x.taken) then s
  else
    let (x, rct, apt) := eddyTests x bit
    let x := { x with rct := if rct then satAdd 16 x.rct 1 else x.rct, apt := if apt then satAdd 16 x.apt 1 else x.apt,
                      run := if rct then 0 else x.run, win := if apt then 0 else x.win }
    let s := scrambleSample s bit
    if x.testing then s.setEddy k { x with taken := x.taken + 1, failed := x.failed || rct || apt }
    else if rct ∨ apt then disableEddy (s.setEddy k x) k (if rct then 1 else 2)
    else
      let s := s.setEddy k x
      if gatherTurn s k then { s with ent := { s.ent with gather := s.ent.gather ++ [bit] } } else s

end Sys2Proof.Machine
end

