-- ==== Sys2Proof/Machine/Sha2.lean ====
section
/-!
DEFINITION. SHA-256 and SHA-384 of FIPS 180-4 (R162, R283, R381), and HMAC with SHA-384.
-/
namespace Sys2Proof.Machine

/-- The largest integer whose cube is at most `n`, by bisection over `k` bits. -/
def icbrt (n : Nat) : Nat → Nat → Nat
  | 0, a => a
  | k + 1, a => let b := a + 2 ^ k; if b * b * b ≤ n then icbrt n k b else icbrt n k a

/-- The largest integer whose square is at most `n`, by bisection over `k` bits. -/
def isqrt (n : Nat) : Nat → Nat → Nat
  | 0, a => a
  | k + 1, a => let b := a + 2 ^ k; if b * b ≤ n then isqrt n k b else isqrt n k a

/-- Is `n` prime, by trial division? -/
def isPrime (n : Nat) : Bool := 2 ≤ n && (List.range (n - 2)).all fun d => n % (d + 2) != 0

/-- The first primes, enough for the round constants. -/
def primes80 : List Nat := (List.range 410).filter isPrime

/-- First `w` bits of the fractional part of the cube root of a prime. -/
def cbrtFrac (w p : Nat) : Nat := icbrt (p * 2 ^ (3 * w)) (w + 4) 0 % 2 ^ w

/-- First `w` bits of the fractional part of the square root of a prime. -/
def sqrtFrac (w p : Nat) : Nat := isqrt (p * 2 ^ (2 * w)) (w + 5) 0 % 2 ^ w

/-- Parameters of one of the two word sizes. -/
structure ShaParam where
  /-- Word width in bits. -/
  w : Nat
  /-- Round constants. -/
  k : List Nat
  /-- Rotations of the two upper functions. -/
  up : List Nat
  /-- Rotations and shifts of the two schedule functions. -/
  low : List Nat
  deriving DecidableEq, Repr

/-- SHA-256. -/
def sha256Param : ShaParam :=
  { w := 32, k := (primes80.take 64).map (cbrtFrac 32), up := [2, 13, 22, 6, 11, 25], low := [7, 18, 3, 17, 19, 10] }

/-- SHA-384 and SHA-512. -/
def sha512Param : ShaParam :=
  { w := 64, k := (primes80.take 80).map (cbrtFrac 64), up := [28, 34, 39, 14, 18, 41], low := [1, 8, 7, 19, 61, 6] }

/-- Right rotation of a `w`-bit number. -/
def rotR (w x n : Nat) : Nat := (x >>> n) ||| ((x <<< (w - n)) % 2 ^ w)

/-- The message schedule: `l` holds the words so far, latest first. -/
def shaSched (p : ShaParam) : Nat → List Nat → List Nat
  | 0, l => l
  | n + 1, l =>
    let g := fun i => l.getD i 0
    let r := fun i => p.low.getD i 0
    let s0 := rotR p.w (g 14) (r 0) ^^^ rotR p.w (g 14) (r 1) ^^^ (g 14 >>> r 2)
    let s1 := rotR p.w (g 1) (r 3) ^^^ rotR p.w (g 1) (r 4) ^^^ (g 1 >>> r 5)
    shaSched p n ((s1 + g 6 + s0 + g 15) % 2 ^ p.w :: l)

/-- One round: constant plus schedule word `kw`. -/
def shaRound (p : ShaParam) (st : List Nat) (kw : Nat) : List Nat :=
  match st with
  | [a, b, c, d, e, f, g, h] =>
    let m := 2 ^ p.w
    let r := fun i => p.up.getD i 0
    let s1 := rotR p.w e (r 3) ^^^ rotR p.w e (r 4) ^^^ rotR p.w e (r 5)
    let ch := (e &&& f) ^^^ ((m - 1 - e) &&& g)
    let t1 := h + s1 + ch + kw
    let s0 := rotR p.w a (r 0) ^^^ rotR p.w a (r 1) ^^^ rotR p.w a (r 2)
    let mj := (a &&& b) ^^^ (a &&& c) ^^^ (b &&& c)
    [(t1 + s0 + mj) % m, a, b, c, (d + t1) % m, e, f, g]
  | _ => st

/-- One block. -/
def shaBlock (p : ShaParam) (h : List Nat) (blk : List Byte) : List Nat :=
  let ws := ((chunksOf (p.w / 8) blk).map natOfBytesBE).reverse
  let sched := (shaSched p (p.k.length - 16) ws).reverse
  let out := (List.zipWith (· + ·) p.k sched).foldl (shaRound p) h
  List.zipWith (fun a b => (a + b) % 2 ^ p.w) h out

/-- The padded message in blocks of `16 w` bits. -/
def shaPad (p : ShaParam) (m : List Byte) : List Byte :=
  let blk := 2 * p.w
  let tail := p.w / 4
  m ++ [0x80] ++ zeros ((blk - (m.length + 1 + tail) % blk) % blk) ++ bytesOfNatBE tail (8 * m.length)

/-- The hash from an initial value. -/
def shaHash (p : ShaParam) (h : List Nat) (m : List Byte) : List Byte :=
  ((chunksOf (2 * p.w) (shaPad p m)).foldl (shaBlock p) h).flatMap (bytesOfNatBE (p.w / 8))

/-- SHA-256. -/
def sha256 (m : List Byte) : List Byte := shaHash sha256Param ((primes80.take 8).map (sqrtFrac 32)) m

/-- SHA-384. -/
def sha384 (m : List Byte) : List Byte := (shaHash sha512Param (((primes80.drop 8).take 8).map (sqrtFrac 64)) m).take 48

end Sys2Proof.Machine
end

