-- ==== Sys2Proof/Machine/P384.lean ====
section
/-!
DEFINITION. The curve P-384 of SP 800-186, ECDSA of FIPS 186-5 with SHA-384, and ECDH of SP 800-56A (R138, R283, R381).
-/
namespace Sys2Proof.Machine

/-- The field prime. -/
def pP : Nat := 2 ^ 384 - 2 ^ 128 - 2 ^ 96 + 2 ^ 32 - 1
/-- The order of the base point. -/
def pN : Nat := 0xffffffffffffffffffffffffffffffffffffffffffffffffc7634d81f4372ddf581a0db248b0a77aecec196accc52973
/-- The coefficient b. -/
def pB : Nat := 0xb3312fa7e23ee7e4988e056be3f82d19181d9c6efe8141120314088f5013875ac656398d8a2ed19d2a85c8edd3ec2aef
/-- Base point, x. -/
def pGx : Nat := 0xaa87ca22be8b05378eb1c71ef320ad746e1d3b628ba79b9859f741e082542a385502f25dbf55296c3a545e3872760ab7
/-- Base point, y. -/
def pGy : Nat := 0x3617de4a96262c6f5d9e98bf9292dc29f8f41dbd289a147ce9da3113b5f0b8c00a60b1ce1d7e819d7a431d7c90ea0e5f

/-- `x` to the power `e` modulo `m`, over the low `k` bits of `e`, highest first. -/
def powMod (m x e : Nat) : Nat → Nat → Nat
  | 0, a => a
  | k + 1, a => let a2 := a * a % m; powMod m x e k (if e.testBit k then a2 * x % m else a2)

/-- Inverse modulo a prime of at most 384 bits. -/
def invMod (m x : Nat) : Nat := powMod m (x % m) (m - 2) 384 1

/-- Difference modulo the field prime. -/
def subP (a b : Nat) : Nat := (a + pP - b % pP) % pP

/-- Doubling in Jacobian coordinates; z = 0 is the point at infinity. -/
def jDbl (q : Nat × Nat × Nat) : Nat × Nat × Nat :=
  let (x, y, z) := q
  if z = 0 ∨ y = 0 then (1, 1, 0)
  else
    let zz := z * z % pP
    let m := 3 * (subP x zz) * (x + zz) % pP
    let yy := y * y % pP
    let s := 4 * x * yy % pP
    let x3 := subP (m * m % pP) (2 * s % pP)
    let y3 := subP (m * subP s x3 % pP) (8 * yy * yy % pP)
    (x3, y3, 2 * y * z % pP)

/-- Addition in Jacobian coordinates. -/
def jAdd (q r : Nat × Nat × Nat) : Nat × Nat × Nat :=
  let (x1, y1, z1) := q
  let (x2, y2, z2) := r
  if z1 = 0 then r
  else if z2 = 0 then q
  else
    let a := z1 * z1 % pP
    let b := z2 * z2 % pP
    let u1 := x1 * b % pP
    let u2 := x2 * a % pP
    let s1 := y1 * b * z2 % pP
    let s2 := y2 * a * z1 % pP
    if u1 = u2 then (if s1 = s2 then jDbl q else (1, 1, 0))
    else
      let h := subP u2 u1
      let rr := subP s2 s1
      let hh := h * h % pP
      let hhh := h * hh % pP
      let v := u1 * hh % pP
      let x3 := subP (subP (rr * rr % pP) hhh) (2 * v % pP)
      let y3 := subP (rr * subP v x3 % pP) (s1 * hhh % pP)
      (x3, y3, z1 * z2 * h % pP)

/-- Scalar multiple over the low `k` bits of `d`, highest first. -/
def jMul (d : Nat) (q : Nat × Nat × Nat) : Nat → Nat × Nat × Nat → Nat × Nat × Nat
  | 0, acc => acc
  | k + 1, acc => let a2 := jDbl acc; jMul d q k (if d.testBit k then jAdd a2 q else a2)

/-- Affine coordinates; none at infinity. -/
def jAffine (q : Nat × Nat × Nat) : Option (Nat × Nat) :=
  let (x, y, z) := q
  if z = 0 then none
  else
    let i := invMod pP z
    let ii := i * i % pP
    some (x * ii % pP, y * ii % pP * i % pP)

/-- `d` times the point `p`. -/
def ecMul (d : Nat) (p : Nat × Nat) : Option (Nat × Nat) := jAffine (jMul d (p.1, p.2, 1) 384 (1, 1, 0))

/-- Does the point lie on the curve, with coordinates in the field? -/
def onCurve (p : Nat × Nat) : Bool :=
  p.1 < pP && p.2 < pP && p.2 * p.2 % pP == (p.1 * p.1 * p.1 + (pP - 3) * p.1 + pB) % pP

/-- The point of 97 bytes, uncompressed, when it is valid (R138). -/
def ecPoint (l : List Byte) : Option (Nat × Nat) :=
  let p := (natOfBytesBE ((l.drop 1).take 48), natOfBytesBE ((l.drop 49).take 48))
  if l.length = 97 ∧ l.head? = some 4 ∧ onCurve p then some p else none

/-- The 97 bytes of a point. -/
def ecBytes (p : Nat × Nat) : List Byte := 4 :: bytesOfNatBE 48 p.1 ++ bytesOfNatBE 48 p.2

/-- The public point of a scalar. -/
def ecPub (d : Nat) : Nat × Nat := (ecMul d (pGx, pGy)).getD (0, 0)

/-- The hash of a message as ECDSA takes it. -/
def ecHash (m : List Byte) : Nat := natOfBytesBE (sha384 m)

/-- ECDSA verification of r ∥ s over a message. -/
def ecdsaVerify (pub m sig : List Byte) : Bool :=
  match ecPoint pub with
  | none => false
  | some q =>
    let r := natOfBytesBE (sig.take 48)
    let s := natOfBytesBE ((sig.drop 48).take 48)
    if r = 0 ∨ pN ≤ r ∨ s = 0 ∨ pN ≤ s ∨ sig.length ≠ 96 then false
    else
      let w := invMod pN s
      let a := jMul (ecHash m * w % pN) (pGx, pGy, 1) 384 (1, 1, 0)
      let b := jMul (r * w % pN) (q.1, q.2, 1) 384 (1, 1, 0)
      match jAffine (jAdd a b) with
      | none => false
      | some p => p.1 % pN == r

/-- A scalar from extra random bits (FIPS 186-5, A.2.1 and A.3.1): a number reduced to 1 … n − 1. -/
def ecScalar (bits : List Byte) : Nat := natOfBytesBE bits % (pN - 1) + 1

/-- ECDSA signature with private scalar `d` and nonce `k`: 96 bytes r ∥ s. -/
def ecdsaSign (d k : Nat) (m : List Byte) : List Byte :=
  let r := (ecPub k).1 % pN
  let s := invMod pN k * ((ecHash m + r * d) % pN) % pN
  bytesOfNatBE 48 r ++ bytesOfNatBE 48 s

/-- The shared secret of ECDH: the x-coordinate, when the peer's point is valid. -/
def ecdhSecret (d : Nat) (peer : List Byte) : Option (List Byte) :=
  match ecPoint peer with
  | none => none
  | some q => (ecMul d q).map fun p => bytesOfNatBE 48 p.1

end Sys2Proof.Machine
end

