-- ==== Sys2Proof/Machine/Keystone.lean ====
section
/-!
DEFINITION. The Keystone (R104 to R114), tickets (R115 to R119) and the operations of the KEY instruction (R111, R112,
R229), with the mirroring of key loads and erasures (R390, R391).
-/
namespace Sys2Proof.Machine

/-! ### Statuses and results -/

/-- The end of an operation with a status and no results (R113, R229). -/
def keyStatus (n : Nat) : KeyPhase := .done [(1, BitVec.ofNat 64 n)]

/-- The end of an operation with status OK and results in the registers named (R229). -/
def keyOk (outs : List (Nat × W64)) : KeyPhase := .done ((1, 0) :: outs)

/-- Does the life-cycle state let keys be made, moved and used (R112): Provisioned or Field? -/
def keysAllowed (s : State) : Bool := s.lc.state == 1 || s.lc.state == 2

/-- Kind of a slot, 0 when it is empty (R104). -/
def slotKind (s : State) (n : Nat) : Nat := if (s.slot n).st = .empty then 0 else (s.slot n).kind

/-- Is a slot loaded? -/
def slotLoaded (s : State) (n : Nat) : Bool := (s.slot n).st == .loaded

/-- The kind for which R104 reserves slot `n` below 8. -/
def reservedKind (n : Nat) : Nat :=
  if n = 0 then 1 else if n = 1 then 5 else if n = 2 ∨ n = 3 then 7 else 4

/-- Does R104 reserve slot `n` for another kind than `k` (R108)? -/
def slotReserved (n k : Nat) : Bool := n < 8 && k != reservedKind n

/-- Is the block a Mirror, which keeps its keys as the Lead's (R391)? -/
def keyMirror (s : State) (n : Nat) : Bool := s.via.role == .mirror && 8 ≤ n && n < 4096

/-! ### Slots -/

/-- Loads a slot (R108): the erase record goes. -/
def loadSlot (s : State) (n kind : Nat) (id : W64) (key : List Byte) (mirrored : Bool) : State :=
  s.setSlot n { s.slot n with st := .loaded, kind := kind, keyId := id, key := key, erec := none, mirrored := mirrored }

/-- Frees ticket entry `e`, its generation one higher (R118). -/
def freeTicket (s : State) (e : Nat) : State :=
  { s with keys := { s.keys with
    tickets := Table.del s.keys.tickets e
    gens := Table.put s.keys.gens e (Table.get 0 s.keys.gens e + 1) } }

/-- Erases a slot (R108, R114): the instance rises, the erase record is written and every ticket of the slot is freed. -/
def eraseSlot (s : State) (n : Nat) : State :=
  let k := s.slot n
  if k.st = .empty then s
  else
    let s := s.setSlot n { KeySlot.empty with inst := k.inst + 1, erec := some (k.keyId, k.inst) }
    s.keys.tickets.foldl (fun s e => if e.2.slot = n then freeTicket s e.1 else s) s

/-- The wipe of R109. -/
def keystoneWipe (s : State) : State := { s with keys := Keystone.reset }

/-- The Keystone takes K_P (R105, R437): slots 0 and 1, unless K_P is all zeros or all ones or the block is Scrapped. -/
def takeKp (s : State) (kp : List Byte) : State :=
  let s := { s with keys := { s.keys with kpWait := false, kpTaken := true } }
  if kp.all (· == 0) || kp.all (· == 0xFF) || s.lc.state == 4 then s
  else
    let srk := kmac256 kp [] 32 (asciiBytes "PHIRA-SRK")
    loadSlot (loadSlot s 0 1 0 srk false) 1 5 0 (kmac256 srk (asciiBytes "IMAGE") 32 (asciiBytes "PHIRA-IMG")) false

/-- The key-encryption key of a kind and part (R106). -/
def kek (s : State) (kind part : Nat) : List Byte :=
  kmac256 (s.keyOf 0) [BitVec.ofNat 8 kind, BitVec.ofNat 8 part] 32 (asciiBytes "PHIRA-KEK")

/-- The object key of R106. -/
def objectKey (vault : List Byte) (oid : Nat) (epoch : Nat) : List Byte :=
  kmac256 vault (bytesOfNat 8 oid ++ [BitVec.ofNat 8 epoch]) 32 (asciiBytes "PHIRA-OBJ")

/-! ### Accesses of KEY and PK (R229) -/

/-- The access identity: the North supervisor on the issuing Span. -/
def keyAcc (s : State) (b : BerthNo) : Acc :=
  { sp := berthSpan b, master := 0, north := true, sup := true, berth := b.val
    ferry := match (s.berth b).ferry with
      | some f => f.val % 16
      | none => 0 }

/-- Do `n` bytes at `a` lie in the issuing Span's Pontoon or in staging memory? -/
def keyAddrOk (s : State) (b : BerthNo) (a : W64) (n : Nat) : Bool :=
  let a := a.toNat
  n == 0 || (inPontoon (berthSpan b) a && inPontoon (berthSpan b) (a + n - 1)) || (s.inStaging a && s.inStaging (a + n - 1))

/-- Key of Berth `b`'s KEY and PK operations among the masters that wait (R353): they are not its Ferry's accesses. -/
def keyOpKey (b : BerthNo) : Nat := 1024 + b.val

/-- How a read or write of an operation ends. -/
inductive KeyIo (α : Type) where
  /-- Done. -/
  | ok (v : α)
  /-- Refused or failed: status ADDRESS. -/
  | bad
  /-- It waits. -/
  | wait

/-- Reads `n` bytes for an operation. -/
def keyRead (s : State) (b : BerthNo) (a : W64) (n : Nat) : State × KeyIo (List Byte) :=
  if n = 0 then (s, .ok [])
  else if keyAddrOk s b a n then
    match readAs s (keyAcc s b) (keyOpKey b) (some b.val) a.toNat n with
    | (s, .ok l) => (s, .ok l)
    | (s, .error .wait) => (s, .wait)
    | (s, .error _) => (s, .bad)
  else (s, .bad)

/-- Writes bytes for an operation. -/
def keyWrite (s : State) (b : BerthNo) (a : W64) (l : List Byte) : State × KeyIo Unit :=
  if keyAddrOk s b a l.length then
    match writeAs s (keyAcc s b) (keyOpKey b) (some b.val) false a.toNat l with
    | (s, .ok _) => (s, .ok ())
    | (s, .error .wait) => (s, .wait)
    | (s, .error _) => (s, .bad)
  else (s, .bad)

/-! ### Wrapped keys (R110) -/

/-- A blob. -/
def wrapKey (s : State) (kind part : Nat) (id : W64) (key : List Byte) : List Byte :=
  bytesOfNat 4 0x4B574850 ++ [BitVec.ofNat 8 kind, 1, BitVec.ofNat 8 part, 0] ++ bytesOfNat 8 id.toNat
    ++ kwWrap (kek s kind part) (bytesOfNat 8 id.toNat ++ padTo 48 key)

/-- Is the key material of a blob in form: the padding of a 32-byte key zero, a scalar in 1 to n − 1? -/
def materialOk (kind part : Nat) (m : List Byte) : Bool :=
  if kind = 7 ∧ part = 1 then 1 ≤ natOfBytesBE m && natOfBytesBE m < pN else (m.drop 32).all (· == 0)

/-- Unwraps a blob for slot `n`: its kind, key id and key material, or none for UNWRAP_FAIL. -/
def unwrapKey (s : State) (n : Nat) (l : List Byte) : Option (Nat × W64 × List Byte) :=
  let kind := fieldAt l 4 1
  let part := fieldAt l 6 1
  let id := BitVec.ofNat 64 (fieldAt l 8 8)
  if fieldAt l 0 4 = 0x4B574850 ∧ fieldAt l 5 1 = 1 ∧ fieldAt l 7 1 = 0 ∧ (kind = 2 ∨ kind = 3 ∨ kind = 7)
      ∧ part = (if kind = 7 ∧ n = 3 then 1 else 0) ∧ (kind = 7 → n = 2 ∨ n = 3) then
    match kwUnwrap (kek s kind part) (l.drop 16) with
    | none => none
    | some p =>
      let m := p.drop 8
      if natOfBytes (p.take 8) = id.toNat ∧ materialOk kind part m then
        some (kind, id, if kind = 7 ∧ part = 1 then m else m.take 32)
      else none
  else none

/-! ### Mirroring (R390) -/

/-- Loads a slot for an operation of Berth `b`, through the Mirror where the key is mirrored: a Lead whose pairing is
Broken answers NOT_READY. -/
def mirroredLoad (s : State) (b : BerthNo) (n kind : Nat) (id : W64) (key : List Byte) : State × KeyPhase :=
  if kind = 2 ∨ kind = 3 then
    if mirroring s then
      let w := kwWrap (s.keyOf 6) (bytesOfNat 8 id.toNat ++ padTo 48 key)
      let body := bytesOfNat 2 n ++ [BitVec.ofNat 8 kind] ++ zeros 5 ++ bytesOfNat 8 id.toNat ++ w
      let q := s.via.txSeq
      (viaSendItem s 0x23 body (.keyload b n { KeySlot.empty with st := .loaded, kind := kind, keyId := id, key := key }),
        .ack q [(1, 0)])
    else (loadSlot s n kind id key false, keyStatus 0)
  else (loadSlot s n kind id key false, keyStatus 0)

/-- Is the block a Lead whose pairing is Broken? -/
def brokenLead (s : State) : Bool := s.via.role == .lead && s.via.st == .broken

/-! ### The operations -/

/-- KEY.INFO. -/
def keyInfo (s : State) (slot : W64) : State × KeyPhase :=
  if 4096 ≤ slot.toNat then (s, keyStatus 2)
  else
    let k := s.slot slot.toNat
    let st := match k.st with
      | .empty => 0
      | .loaded => 1
      | .erasing => 2
    let r := k.erec.getD (0, 0)
    (s, keyOk [(2, at' (slotKind s slot.toNat) 3 0 ||| at' st 5 4 ||| at' k.inst.toNat 63 32), (3, k.keyId), (4, r.1),
      (5, r.2.setWidth 64), (6, if k.erec.isSome then 1 else 0)])

/-- KEY.IMPORT (R110). -/
def keyImport (s : State) (b : BerthNo) (slot a : W64) : State × KeyPhase :=
  let n := slot.toNat
  if !keysAllowed s then (s, keyStatus 7)
  else if 4096 ≤ n then (s, keyStatus 2)
  else if keyMirror s n then (s, keyStatus 0x0E)
  else if !slotLoaded s 0 then (s, keyStatus 1)
  else match keyRead s b a 80 with
    | (s, .wait) => (s, .drbg false 1)
    | (s, .bad) => (s, keyStatus 0x12)
    | (s, .ok l) =>
      if slotReserved n (fieldAt l 4 1) then (s, keyStatus 2)
      else if (s.slot n).st ≠ .empty then (s, keyStatus 4)
      else match unwrapKey s n l with
        | none => (s, keyStatus 6)
        | some (kind, id, m) => if brokenLead s ∧ kind ≠ 7 then (s, keyStatus 0x0C) else mirroredLoad s b n kind id m

/-- KEY.EXPORT. -/
def keyExport (s : State) (b : BerthNo) (slot a : W64) : State × KeyPhase :=
  let n := slot.toNat
  if !keysAllowed s then (s, keyStatus 7)
  else if 4096 ≤ n then (s, keyStatus 2)
  else if !slotLoaded s n then (s, keyStatus 5)
  else
    let k := s.slot n
    if k.kind ≠ 2 ∧ k.kind ≠ 3 ∧ k.kind ≠ 7 then (s, keyStatus 3)
    else if !slotLoaded s 0 then (s, keyStatus 1)
    else match keyWrite s b a (wrapKey s k.kind (if n = 3 then 1 else 0) k.keyId k.key) with
      | (s, .wait) => (s, .drbg false 2)
      | (s, .bad) => (s, keyStatus 0x12)
      | (s, .ok _) => (s, keyStatus 0)

/-- KEY.GEN (R111, R112, R229), its checks in the order of log entry 78: an identity is named by slot 2 (R229), and the statuses for an
identity named by slot 3, SLOT_NULL, and by a slot of 8 or more, SLOT_KIND, are this model's choice (DESIGN CHOICE, log entry 82). 32 bytes for a vault or shelf integrity key, 64
for an ephemeral one (R381), both identity keys at once. -/
def keyGen (s : State) (b : BerthNo) (slot kind id : W64) : State × KeyPhase :=
  let n := slot.toNat
  let k := kind.toNat
  if ((k = 2 ∨ k = 3 ∨ k = 6) ∧ keysAllowed s = false) ∨ (k = 7 ∧ s.lc.state ≠ 1) then (s, keyStatus 7)
  else if 4096 ≤ n then (s, keyStatus 2)
  else if k ≠ 2 ∧ k ≠ 3 ∧ k ≠ 6 ∧ k ≠ 7 then (s, keyStatus 3)
  else if keyMirror s n then (s, keyStatus 0x0E)
  else if slotReserved n k ∨ (k = 7 ∧ n = 3) then (s, keyStatus 2)
  else if k = 7 ∧ n ≠ 2 then (s, keyStatus 3)
  else if (s.slot n).st ≠ .empty ∨ (k = 7 ∧ (s.slot 3).st ≠ .empty) then (s, keyStatus 4)
  else if brokenLead s ∧ (k = 2 ∨ k = 3) then (s, keyStatus 0x0C)
  else match draws s b (if k = 7 then [32, 64] else if k = 6 then [64] else [32]) with
    | (s, .wait) => (s, .drbg false 3)
    | (s, .fail e) => (s, keyStatus e)
    | (s, .ok [l]) => mirroredLoad s b n k id l
    | (s, .ok (seed :: bits :: _)) =>
      (loadSlot (loadSlot s 2 7 id seed false) 3 7 id (bytesOfNatBE 48 (ecScalar bits)) false, keyStatus 0)
    | (s, .ok []) => (s, keyStatus 0x0C)

/-- KEY.ERASE (R114, R390). No cell is inside a Seal pipe between two commands. -/
def keyErase (s : State) (b : BerthNo) (slot : W64) : State × KeyPhase :=
  let n := slot.toNat
  if 4096 ≤ n ∨ n < 8 then (s, keyStatus 2)
  else if keyMirror s n then (s, keyStatus 0x0E)
  else if !slotLoaded s n then (s, keyStatus 5)
  else
    let k := (s.slot n).kind
    let s := eraseSlot s n
    if (k = 2 ∨ k = 3) ∧ mirroring s then
      let q := s.via.txSeq
      (viaSendItem s 0x24 (bytesOfNat 2 n) (.keyerase b), .ack q [(1, 0)])
    else (s, keyStatus 0)

/-- The lowest free ticket entry from `e` on; a retired entry is not free (R118). -/
def freeEntry (s : State) : Nat → Nat → Option Nat
  | 0, _ => none
  | fuel + 1, e =>
    if Table.has s.keys.tickets e ∨ 0x3FFFF ≤ Table.get 0 s.keys.gens e then freeEntry s fuel (e + 1) else some e

/-- Frees each ticket whose expiry has passed (R117). -/
def freeExpired (s : State) : State :=
  s.keys.tickets.foldl (fun s e =>
    if e.2.expiry ≠ 0 ∧ e.2.expiry.toNat ≤ s.time.count.toNat then freeTicket s e.1 else s) s

/-- KEY.ISSUE (R117). -/
def keyIssue (s : State) (slot berth mask expiry : W64) : State × KeyPhase :=
  let n := slot.toNat
  if !keysAllowed s then (s, keyStatus 7)
  else if 4096 ≤ n then (s, keyStatus 2)
  else if !slotLoaded s n then (s, keyStatus 5)
  else if slotKind s n ≠ 2 ∧ slotKind s n ≠ 3 then (s, keyStatus 3)
  else if 1024 ≤ berth.toNat then (s, keyStatus 0x0A)
  else if expiry ≠ 0 ∧ expiry.toNat ≤ s.time.count.toNat then (s, keyStatus 0x0B)
  else
    let s := if (freeEntry s 16383 1).isNone then freeExpired s else s
    match freeEntry s 16383 1 with
    | none => (s, keyStatus 8)
    | some e =>
      let gen := Table.get 0 s.keys.gens e
      let t : Ticket := { slot := n, inst := (s.slot n).inst, berth := berth.toNat, mask := mask &&& 0x3F,
                          expiry := expiry, gen := gen }
      ({ s with keys := { s.keys with tickets := Table.put s.keys.tickets e t } },
        keyOk [(2, BitVec.ofNat 64 (gen * 16384 + e))])

/-- The live entry that a handle names (R115, R119 test 1). -/
def liveTicket (s : State) (h : Nat) : Option Ticket :=
  match Table.find s.keys.tickets (h % 16384) with
  | some t => if h % 16384 ≠ 0 ∧ t.gen = h / 16384 then some t else none
  | none => none

/-- KEY.REVOKE (R118). -/
def keyRevoke (s : State) (h : W64) : State × KeyPhase :=
  match liveTicket s h.toNat with
  | none => (s, keyStatus 9)
  | some _ => (freeTicket s (h.toNat % 16384), keyStatus 0)

/-- KEY.QUERY. -/
def keyQuery (s : State) (h : W64) : State × KeyPhase :=
  match liveTicket s h.toNat with
  | none => (s, keyStatus 9)
  | some t => (s, keyOk [(2, BitVec.ofNat 64 t.slot), (3, BitVec.ofNat 64 t.berth), (4, t.mask), (5, t.expiry),
      (6, t.inst.setWidth 64)])

/-- The ticket check of R119 for a job of Berth `b` whose operation has mask bit `bit`; the reason when it fails. -/
def ticketCheck (s : State) (b : BerthNo) (h : Nat) (bit kind : Nat) : Option Nat :=
  match liveTicket s h with
  | none => some 1
  | some t =>
    if t.berth ≠ b.val then some 2
    else if !tb t.mask bit then some 3
    else if (s.slot t.slot).kind ≠ kind then some 4
    else if t.expiry ≠ 0 ∧ t.expiry.toNat ≤ s.time.count.toNat then some 5
    else if s.time.lost ∧ t.expiry ≠ 0 then some 6
    else if (s.slot t.slot).st ≠ .loaded ∨ (s.slot t.slot).inst ≠ t.inst then some 7
    else none

/-- The key a ticket gives. -/
def ticketKey (s : State) (h : Nat) : List Byte :=
  match liveTicket s h with
  | none => []
  | some t => s.keyOf t.slot

/-- Makes KEY function `fn` for Berth `b` (R229). -/
def keyRun (s : State) (b : BerthNo) (fn : Nat) : State × KeyPhase :=
  let g := (s.ctx b).getG
  match fn with
  | 0 => keyInfo s (g 2)
  | 1 => keyImport s b (g 2) (g 3)
  | 2 => keyExport s b (g 2) (g 3)
  | 3 => keyGen s b (g 2) (g 3) (g 4)
  | 4 => keyErase s b (g 2)
  | 5 => keyIssue s (g 2) (g 3) (g 4) (g 5)
  | 6 => keyRevoke s (g 2)
  | _ => keyQuery s (g 2)

end Sys2Proof.Machine
end

