-- ==== Sys2Proof/Machine/MlKem.lean ====
section
/-!
DEFINITION. ML-KEM-1024 of FIPS 203 (R138, R381).
-/
namespace Sys2Proof.Machine

/-- The modulus. -/
def kemQ : Nat := 3329

/-- A polynomial: 256 coefficients. -/
abbrev Poly := Array Nat

/-- Coefficient `i`. -/
def coef (p : Poly) (i : Nat) : Nat := p.getD i 0

/-- Bit reversal of the low `n` bits. -/
def bitRev : Nat → Nat → Nat
  | 0, _ => 0
  | n + 1, x => (x % 2) * 2 ^ n + bitRev n (x / 2)

/-- `b` to the power `e` modulo `m`, over the low `k` bits of `e`. -/
def powModN (m b e : Nat) : Nat → Nat → Nat
  | 0, a => a
  | k + 1, a => let a2 := a * a % m; powModN m b e k (if e.testBit k then a2 * b % m else a2)

/-- Powers of 17 in bit-reversed order, for the transform. -/
def kemZetas : Array Nat := (Array.range 128).map fun i => powModN kemQ 17 (bitRev 7 i) 8 1

/-- Powers of 17 for the products of the transform. -/
def kemGammas : Array Nat := (Array.range 128).map fun i => powModN kemQ 17 (2 * bitRev 7 i + 1) 9 1

/-- One layer of the transform: butterflies at distance `len`; the zeta of block `b` is given by `z`. -/
def nttLayer (q len : Nat) (z : Nat → Nat) (p : Poly) : Poly :=
  (Array.range 256).map fun j =>
    let b := j / (2 * len)
    if j % (2 * len) < len then (coef p j + z b * coef p (j + len)) % q
    else (coef p (j - len) + q - z b * coef p j % q) % q

/-- One layer of the inverse transform. -/
def inttLayer (q len : Nat) (z : Nat → Nat) (p : Poly) : Poly :=
  (Array.range 256).map fun j =>
    let b := j / (2 * len)
    if j % (2 * len) < len then (coef p j + coef p (j + len)) % q
    else z b * ((coef p j + q - coef p (j - len)) % q) % q

/-- The transform: layers at distances 128 down to 2. -/
def kemNtt (p : Poly) : Poly :=
  (List.range 7).foldl (fun p l => nttLayer kemQ (2 ^ (7 - l)) (fun b => kemZetas.getD (2 ^ l + b) 0) p) p

/-- The inverse transform. -/
def kemIntt (p : Poly) : Poly :=
  let p := (List.range 7).foldl (fun p l =>
    inttLayer kemQ (2 ^ (l + 1)) (fun b => kemZetas.getD (2 ^ (7 - l) - 1 - b) 0) p) p
  p.map fun x => x * 3303 % kemQ

/-- Product in the transform domain. -/
def kemMul (a b : Poly) : Poly :=
  (Array.range 256).map fun j =>
    let i := j / 2
    let g := kemGammas.getD i 0
    if j % 2 = 0 then (coef a j * coef b j + coef a (j + 1) * coef b (j + 1) % kemQ * g) % kemQ
    else (coef a (j - 1) * coef b j + coef a j * coef b (j - 1)) % kemQ

/-- Sum of polynomials. -/
def kemAdd (a b : Poly) : Poly := (Array.range 256).map fun i => (coef a i + coef b i) % kemQ

/-- Difference of polynomials. -/
def kemSub (a b : Poly) : Poly := (Array.range 256).map fun i => (coef a i + kemQ - coef b i) % kemQ

/-- The zero polynomial. -/
def polyZero : Poly := Array.replicate 256 0

/-- Inner product in the transform domain. -/
def kemDot (a b : List Poly) : Poly := (List.zipWith kemMul a b).foldl kemAdd polyZero

/-- `n` bits a coefficient, packed. -/
def packBits (n : Nat) (p : Poly) : List Byte :=
  bytesOfNat (32 * n) (p.foldr (fun x acc => acc * 2 ^ n + x) 0)

/-- Unpacks coefficients of `n` bits. -/
def unpackBits (n : Nat) (l : List Byte) : Poly :=
  let v := natOfBytes (l.take (32 * n))
  (Array.range 256).map fun i => (v >>> (n * i)) % 2 ^ n

/-- Compression to `d` bits. -/
def kemCompress (d : Nat) (p : Poly) : Poly := p.map fun x => ((x * 2 ^ (d + 1) + kemQ) / (2 * kemQ)) % 2 ^ d

/-- Decompression from `d` bits. -/
def kemDecompress (d : Nat) (p : Poly) : Poly := p.map fun x => (x * kemQ * 2 + 2 ^ d) / 2 ^ (d + 1)

/-- The candidates of rejection sampling, three bytes giving two. -/
def kemCands : List Byte → List Nat
  | a :: b :: c :: t =>
    (a.toNat + 256 * (b.toNat % 16)) :: (b.toNat / 16 + 16 * c.toNat) :: kemCands t
  | _ => []

/-- SampleNTT: element (i, j) of the matrix from its seed. The output taken is long enough for all but a vanishing share
of seeds. -/
def kemSample (rho : List Byte) (j i : Nat) : Poly :=
  let c := (kemCands (shake128 (rho ++ [BitVec.ofNat 8 j, BitVec.ofNat 8 i]) 1344)).filter (· < kemQ)
  (Array.range 256).map fun k => c.toArray.getD k 0

/-- SamplePolyCBD with eta 2. -/
def kemCbd (l : List Byte) : Poly :=
  let v := natOfBytes l
  (Array.range 256).map fun i =>
    let b := fun k => (v >>> (4 * i + k)) % 2
    (b 0 + b 1 + kemQ - b 2 - b 3) % kemQ

/-- PRF with eta 2. -/
def kemPrf (s : List Byte) (n : Nat) : Poly := kemCbd (shake256 (s ++ [BitVec.ofNat 8 n]) 128)

/-- The matrix, row by row. -/
def kemMatrix (rho : List Byte) : List (List Poly) :=
  (List.range 4).map fun i => (List.range 4).map fun j => kemSample rho j i

/-- The transpose of a 4 by 4 matrix. -/
def kemTranspose (a : List (List Poly)) : List (List Poly) :=
  (List.range 4).map fun j => a.map fun r => r.getD j polyZero

/-- K-PKE key generation: encapsulation key and decryption key. -/
def pkeKeyGen (d : List Byte) : List Byte × List Byte :=
  let g := sha3_512 (d ++ [4])
  let rho := g.take 32
  let sigma := g.drop 32
  let s := (List.range 4).map fun i => kemNtt (kemPrf sigma i)
  let e := (List.range 4).map fun i => kemNtt (kemPrf sigma (4 + i))
  let t := List.zipWith (fun r e => kemAdd (kemDot r s) e) (kemMatrix rho) e
  (t.flatMap (packBits 12) ++ rho, s.flatMap (packBits 12))

/-- The four polynomials packed in 12 bits each. -/
def kemVec12 (l : List Byte) : List Poly := (List.range 4).map fun i => unpackBits 12 (l.drop (384 * i))

/-- K-PKE encryption of a 32-byte message. -/
def pkeEnc (ek m r : List Byte) : List Byte :=
  let t := kemVec12 ek
  let rho := (ek.drop 1536).take 32
  let y := (List.range 4).map fun i => kemNtt (kemPrf r i)
  let e1 := (List.range 4).map fun i => kemPrf r (4 + i)
  let e2 := kemPrf r 8
  let u := List.zipWith (fun row e => kemAdd (kemIntt (kemDot row y)) e) (kemTranspose (kemMatrix rho)) e1
  let mu := kemDecompress 1 (unpackBits 1 m)
  let v := kemAdd (kemAdd (kemIntt (kemDot t y)) e2) mu
  u.flatMap (fun p => packBits 11 (kemCompress 11 p)) ++ packBits 5 (kemCompress 5 v)

/-- K-PKE decryption. -/
def pkeDec (dk c : List Byte) : List Byte :=
  let u := (List.range 4).map fun i => kemDecompress 11 (unpackBits 11 (c.drop (352 * i)))
  let v := kemDecompress 5 (unpackBits 5 (c.drop 1408))
  let w := kemSub v (kemIntt (kemDot (kemVec12 dk) (u.map kemNtt)))
  packBits 1 (kemCompress 1 w)

/-- ML-KEM.KeyGen_internal: encapsulation key (1,568 bytes) and decapsulation key (3,168 bytes). -/
def mlkemKeyGen (d z : List Byte) : List Byte × List Byte :=
  let (ek, dk) := pkeKeyGen d
  (ek, dk ++ ek ++ sha3_256 ek ++ z)

/-- The modulus check of an encapsulation key, with its length. -/
def mlkemEkValid (ek : List Byte) : Bool :=
  ek.length == 1568 && (kemVec12 ek).all fun p => p.all fun x => x < kemQ

/-- ML-KEM.Encaps_internal: ciphertext and shared secret. -/
def mlkemEncaps (ek m : List Byte) : List Byte × List Byte :=
  let g := sha3_512 (m ++ sha3_256 ek)
  (pkeEnc ek m (g.drop 32), g.take 32)

/-- ML-KEM.Decaps_internal: the shared secret. -/
def mlkemDecaps (dk c : List Byte) : List Byte :=
  let ek := (dk.drop 1536).take 1568
  let h := (dk.drop 3104).take 32
  let z := (dk.drop 3136).take 32
  let m := pkeDec dk c
  let g := sha3_512 (m ++ h)
  if pkeEnc ek m (g.drop 32) = c then g.take 32 else shake256 (z ++ c) 32

end Sys2Proof.Machine
end

