-- ==== Sys2Proof/Machine/MlDsa.lean ====
section
/-!
DEFINITION. ML-DSA-65 of FIPS 204 (R138, R283, R381).
-/
namespace Sys2Proof.Machine

/-- The modulus. -/
def dsaQ : Nat := 8380417
/-- gamma1. -/
def dsaG1 : Nat := 524288
/-- gamma2. -/
def dsaG2 : Nat := 261888

/-- Powers of 1753 in bit-reversed order. -/
def dsaZetas : Array Nat := (Array.range 256).map fun i => powModN dsaQ 1753 (bitRev 8 i) 9 1

/-- The transform. -/
def dsaNtt (p : Poly) : Poly :=
  (List.range 8).foldl (fun p l => nttLayer dsaQ (2 ^ (7 - l)) (fun b => dsaZetas.getD (2 ^ l + b) 0) p) p

/-- The inverse transform. -/
def dsaIntt (p : Poly) : Poly :=
  let p := (List.range 8).foldl (fun p l =>
    inttLayer dsaQ (2 ^ l) (fun b => dsaZetas.getD (2 ^ (8 - l) - 1 - b) 0) p) p
  p.map fun x => x * 8347681 % dsaQ

/-- Product in the transform domain. -/
def dsaMul (a b : Poly) : Poly := (Array.range 256).map fun i => coef a i * coef b i % dsaQ

/-- Sum. -/
def dsaAdd (a b : Poly) : Poly := (Array.range 256).map fun i => (coef a i + coef b i) % dsaQ

/-- Difference. -/
def dsaSub (a b : Poly) : Poly := (Array.range 256).map fun i => (coef a i + dsaQ - coef b i) % dsaQ

/-- Inner product in the transform domain. -/
def dsaDot (a b : List Poly) : Poly := (List.zipWith dsaMul a b).foldl dsaAdd polyZero

/-- Distance of a residue from zero. -/
def dsaAbs (x : Nat) : Nat := min x (dsaQ - x)

/-- Largest distance from zero of a list of polynomials. -/
def dsaNorm (l : List Poly) : Nat := l.foldl (fun m p => p.foldl (fun m x => max m (dsaAbs x)) m) 0

/-- Power2Round with d = 13: high and low part, the low part as a residue. -/
def dsaP2R (x : Nat) : Nat × Nat :=
  let r := x % 8192
  if 4096 < r then ((x + 8192 - r) / 8192, dsaQ + r - 8192) else ((x - r) / 8192, r)

/-- Decompose: high part, and low part as a residue. -/
def dsaDecomp (x : Nat) : Nat × Nat :=
  let m := 2 * dsaG2
  let r := x % m
  let (hi, lo) := if dsaG2 < r then (x + m - r, dsaQ + r - m) else (x - r, r)
  if hi = dsaQ - 1 then (0, (lo + dsaQ - 1) % dsaQ) else (hi / m, lo)

/-- High part. -/
def dsaHigh (x : Nat) : Nat := (dsaDecomp x).1

/-- UseHint. -/
def dsaUseHint (h x : Nat) : Nat :=
  let (r1, r0) := dsaDecomp x
  if h = 1 then (if 0 < r0 ∧ r0 ≤ dsaQ / 2 then (r1 + 1) % 16 else (r1 + 15) % 16) else r1

/-- The candidates of RejNTTPoly. -/
def dsaCands : List Byte → List Nat
  | a :: b :: c :: t => (a.toNat + 256 * b.toNat + 65536 * (c.toNat % 128)) :: dsaCands t
  | _ => []

/-- A matrix element. -/
def dsaSample (rho : List Byte) (r s : Nat) : Poly :=
  let c := (dsaCands (shake128 (rho ++ [BitVec.ofNat 8 s, BitVec.ofNat 8 r]) 1344)).filter (· < dsaQ)
  (Array.range 256).map fun k => c.toArray.getD k 0

/-- The matrix, row by row. -/
def dsaMatrix (rho : List Byte) : List (List Poly) :=
  (List.range 6).map fun r => (List.range 5).map fun s => dsaSample rho r s

/-- A secret polynomial with coefficients of size at most 4. -/
def dsaSecret (rho : List Byte) (n : Nat) : Poly :=
  let c := ((shake256 (rho ++ bytesOfNat 2 n) 816).flatMap fun b => [b.toNat % 16, b.toNat / 16]).filter (· < 9)
  (Array.range 256).map fun k => (dsaQ + 4 - c.toArray.getD k 4) % dsaQ

/-- The masking polynomial. -/
def dsaMask (rho : List Byte) (n : Nat) : Poly :=
  (unpackBits 20 (shake256 (rho ++ bytesOfNat 2 n) 640)).map fun x => (dsaQ + dsaG1 - x) % dsaQ

/-- The steps of SampleInBall: `l` the bytes still unread, `i` the place to fill. -/
def dsaBallSteps (signs : Nat) : Nat → Nat → List Byte → Poly → Poly
  | _, _, [], c => c
  | 0, _, _, c => c
  | n + 1, k, j :: l, c =>
    let i := 207 + k
    if i < j.toNat then dsaBallSteps signs (n + 1) k l c
    else
      let c := c.setIfInBounds i (coef c j.toNat)
      dsaBallSteps signs n (k + 1) l (c.setIfInBounds j.toNat (if signs.testBit k then dsaQ - 1 else 1))

/-- SampleInBall with tau 49. -/
def dsaBall (seed : List Byte) : Poly :=
  let o := shake256 seed 272
  dsaBallSteps (natOfBytes (o.take 8)) 49 0 (o.drop 8) polyZero

/-- ML-DSA.KeyGen_internal: public key (1,952 bytes) and private key (4,032 bytes). -/
def mldsaKeyGen (xi : List Byte) : List Byte × List Byte :=
  let o := shake256 (xi ++ [6, 5]) 128
  let rho := o.take 32
  let rho' := (o.drop 32).take 64
  let k := o.drop 96
  let s1 := (List.range 5).map (dsaSecret rho')
  let s2 := (List.range 6).map fun i => dsaSecret rho' (5 + i)
  let s1h := s1.map dsaNtt
  let t := List.zipWith (fun row e => dsaAdd (dsaIntt (dsaDot row s1h)) e) (dsaMatrix rho) s2
  let t1 := t.map fun p => p.map fun x => (dsaP2R x).1
  let t0 := t.map fun p => p.map fun x => (dsaP2R x).2
  let pk := rho ++ t1.flatMap (packBits 10)
  let small := fun (b : Nat) (p : Poly) => p.map fun x => (dsaQ + b - x) % dsaQ
  (pk, rho ++ k ++ shake256 pk 64 ++ (s1 ++ s2).flatMap (fun p => packBits 4 (small 4 p))
        ++ t0.flatMap fun p => packBits 13 (small 4096 p))

/-- The message as it is signed: domain byte, context, message. -/
def dsaMsg (m ctx : List Byte) : List Byte := 0 :: BitVec.ofNat 8 ctx.length :: ctx ++ m

/-- Packs the high parts for hashing. -/
def dsaPackW1 (w : List Poly) : List Byte := w.flatMap (packBits 4)

/-- Packs the hint: positions of each polynomial, then the running counts. -/
def dsaPackHint (h : List Poly) : List Byte :=
  let pos := h.map fun p => (List.range 256).filter fun i => coef p i = 1
  let idx := padTo 55 (pos.flatten.map (BitVec.ofNat 8))
  idx ++ (List.range 6).map fun i => BitVec.ofNat 8 ((pos.take (i + 1)).flatten.length)

/-- The rounds of signing, from counter `kappa`. -/
def dsaSignLoop (a : List (List Poly)) (s1 s2 t0 : List Poly) (mu rho' : List Byte) : Nat → Nat → List Byte
  | 0, _ => []
  | n + 1, kappa =>
    let y := (List.range 5).map fun i => dsaMask rho' (kappa + i)
    let yh := y.map dsaNtt
    let w := a.map fun row => dsaIntt (dsaDot row yh)
    let c := shake256 (mu ++ dsaPackW1 (w.map fun p => p.map dsaHigh)) 48
    let ch := dsaNtt (dsaBall c)
    let z := List.zipWith (fun y s => dsaAdd y (dsaIntt (dsaMul ch s))) y s1
    let r := List.zipWith (fun w s => dsaSub w (dsaIntt (dsaMul ch s))) w s2
    let r0 := r.map fun p => p.map fun x => (dsaDecomp x).2
    if dsaG1 - 196 ≤ dsaNorm z ∨ dsaG2 - 196 ≤ dsaNorm r0 then dsaSignLoop a s1 s2 t0 mu rho' n (kappa + 5)
    else
      let ct0 := t0.map fun t => dsaIntt (dsaMul ch t)
      let h : List Poly := List.zipWith (fun r t => (Array.range 256).map fun i =>
        if dsaHigh (coef r i) = dsaHigh ((coef r i + coef t i) % dsaQ) then 0 else 1) r ct0
      if dsaG2 ≤ dsaNorm ct0 ∨ 55 < h.foldl (fun (k : Nat) p => p.foldl (fun (k : Nat) x => k + x) k) 0 then
        dsaSignLoop a s1 s2 t0 mu rho' n (kappa + 5)
      else c ++ z.flatMap (fun p => packBits 20 (p.map fun x => (dsaQ + dsaG1 - x) % dsaQ)) ++ dsaPackHint h

/-- ML-DSA-65 signature, 3,309 bytes, with context string and hedging randomness; empty after 64 rounds without one
(R139). -/
def mldsaSign (sk m ctx rnd : List Byte) : List Byte :=
  let rho := sk.take 32
  let k := (sk.drop 32).take 32
  let tr := (sk.drop 64).take 64
  let un := fun (o n b i : Nat) => dsaNtt ((unpackBits n (sk.drop (o + 32 * n * i))).map fun x => (dsaQ + b - x) % dsaQ)
  let s1 := (List.range 5).map (un 128 4 4)
  let s2 := (List.range 6).map (un 768 4 4)
  let t0 := (List.range 6).map (un 1536 13 4096)
  let mu := shake256 (tr ++ dsaMsg m ctx) 64
  dsaSignLoop (dsaMatrix rho) s1 s2 t0 mu (shake256 (k ++ rnd ++ mu) 64) 64 0

/-- Reads the hint; none when it is malformed. -/
def dsaReadHint (l : List Byte) : Option (List Poly) :=
  let cnt := fun i => if i = 0 then 0 else ((l.drop 55).getD (i - 1) 0).toNat
  let ok := (List.range 6).all fun i =>
    cnt i ≤ cnt (i + 1) && cnt (i + 1) ≤ 55 &&
      (let p := (l.drop (cnt i)).take (cnt (i + 1) - cnt i); (p.zip (p.drop 1)).all fun e => e.1.toNat < e.2.toNat)
  if ok && ((l.take 55).drop (cnt 6)).all (· == 0) then
    some ((List.range 6).map fun i =>
      ((l.drop (cnt i)).take (cnt (i + 1) - cnt i)).foldl (fun p b => p.setIfInBounds b.toNat 1) polyZero)
  else none

/-- ML-DSA-65 verification. -/
def mldsaVerify (pk m ctx sig : List Byte) : Bool :=
  if pk.length ≠ 1952 ∨ sig.length ≠ 3309 ∨ 255 < ctx.length then false
  else
    let rho := pk.take 32
    let t1 := (List.range 6).map fun i => (unpackBits 10 (pk.drop (32 + 320 * i))).map fun x => x * 8192 % dsaQ
    let c := sig.take 48
    let z := (List.range 5).map fun i => (unpackBits 20 (sig.drop (48 + 640 * i))).map fun x => (dsaQ + dsaG1 - x) % dsaQ
    match dsaReadHint (sig.drop 3248) with
    | none => false
    | some h =>
      let mu := shake256 (shake256 pk 64 ++ dsaMsg m ctx) 64
      let ch := dsaNtt (dsaBall c)
      let zh := z.map dsaNtt
      let w := List.zipWith (fun row t => dsaIntt (dsaSub (dsaDot row zh) (dsaMul ch (dsaNtt t)))) (dsaMatrix rho) t1
      let w1 := List.zipWith (fun p h => (Array.range 256).map fun i => dsaUseHint (coef h i) (coef p i)) w h
      decide (dsaNorm z < dsaG1 - 196) && shake256 (mu ++ dsaPackW1 w1) 48 == c

end Sys2Proof.Machine
end

