-- ==== Sys2Proof/Machine/Pk.lean ====
section
/-!
DEFINITION. The public-key unit (R134 to R139, R230): receipts, identity keys, verification, and the key establishment
operations, whose shared secrets reach no memory.
-/
namespace Sys2Proof.Machine

/-- Does the Keystone hold the device identity: slots 2 and 3? -/
def hasIdentity (s : State) : Bool := slotLoaded s 2 && slotLoaded s 3

/-- The identity public keys: 1,952 bytes of ML-DSA-65, then the 97-byte P-384 point (R138). -/
def identityKeys (s : State) : List Byte × List Byte :=
  ((mldsaKeyGen (s.keyOf 2)).1, ecBytes (ecPub (natOfBytesBE (s.keyOf 3))))

/-- The two nested signatures over a message (R136, R381), with the randomness of each; empty when signing stops (R139). -/
def nestedSign (s : State) (m ctx rnd : List Byte) (k : List Byte → List Byte) : List Byte :=
  let sig := mldsaSign (mldsaKeyGen (s.keyOf 2)).2 m ctx rnd
  if sig.isEmpty then []
  else sig ++ ecdsaSign (natOfBytesBE (s.keyOf 3)) (ecScalar (k (m ++ sig))) (m ++ sig)

/-- What follows the write of a function's result (R134, R137, R138): a receipt is counted, an ephemeral slot is loaded. The spec names
no key id for such a slot: a free value (log entry 3). -/
def keyWritten (s : State) (pk : Bool) (fn slot : Nat) (key : List Byte) : State :=
  if pk && (fn == 1 || fn == 2) then { s with keys := { s.keys with receipts := s.keys.receipts + 1 } }
  else if pk && (fn == 5 || fn == 8) then (loadSlot s slot 6 s.freeWord key false).drawn
  else s

/-- Writes the result of an operation, and what follows; one that cannot be written yet waits. -/
def keyFinish (s : State) (b : BerthNo) (pk : Bool) (fn : Nat) (a : W64) (l : List Byte) (slot : Nat) (key : List Byte) :
    State × KeyPhase :=
  match keyWrite s b a l with
  | (s, .ok _) => (keyWritten s pk fn slot key, keyStatus 0)
  | (s, .bad) => (s, keyStatus 0x12)
  | (s, .wait) => (s, .write pk fn a l slot key)

/-- PK.PUBKEY. -/
def pkPubkey (s : State) (b : BerthNo) (a : W64) : State × KeyPhase :=
  if !hasIdentity s then (s, keyStatus 5)
  else keyFinish s b true 0 a ((identityKeys s).1 ++ (identityKeys s).2) 0 []

/-- The serial of the next receipt (R137): bits [63:32] the boot nonce, bits [31:0] the count. -/
def receiptSerial (s : State) : List Byte := bytesOfNat 4 s.keys.receipts ++ padTo 4 (s.keys.nonce.getD [])

/-- Does the next receipt need a boot nonce (R137)? -/
def needsNonce (s : State) : Bool := s.keys.nonce.isNone || 2 ^ 32 ≤ s.keys.receipts

/-- Signs a statement whose fields but the Unit's are given, and writes the receipt (R135 to R137). -/
def pkSign (s : State) (b : BerthNo) (fn kind : Nat) (a : W64) (st : List Byte) : State × KeyPhase :=
  match draws s b (if needsNonce s then [4, 32, 64] else [32, 64]) with
  | (s, .wait) => (s, .drbg true fn)
  | (s, .fail e) => (s, keyStatus e)
  | (s, .ok l) =>
    let s := if l.length = 3 then { s with keys := { s.keys with nonce := l.head?, receipts := 0 } } else s
    let l := if l.length = 3 then l.drop 1 else l
    let st := overlay st 0 (bytesOfNat 4 0x54524850 ++ [BitVec.ofNat 8 kind, 1])
    let st := overlay st 83 [0]
    let st := overlay st 104 (bytesOfNat 8 s.time.count.toNat ++ receiptSerial s)
    let sig := nestedSign s st (asciiBytes "PHIRA-RCPT") (l.headD []) (fun _ => (l.drop 1).headD [])
    if sig.isEmpty then (s, keyStatus 0x11)
    else keyFinish s b true fn a (padTo 3584 (st ++ sig)) 0 []

/-- PK.RECEIPT. -/
def pkReceipt (s : State) (b : BerthNo) (a : W64) : State × KeyPhase :=
  if !keysAllowed s then (s, keyStatus 7)
  else if !hasIdentity s then (s, keyStatus 5)
  else if !keyAddrOk s b a 3584 then (s, keyStatus 0x12)
  else match keyRead s b a 128 with
    | (s, .bad) => (s, keyStatus 0x12)
    | (s, .wait) => (s, .drbg true 1)
    | (s, .ok st) => pkSign s b 1 1 a st

/-- PK.SHRED (R134). -/
def pkShred (s : State) (b : BerthNo) (slot a : W64) : State × KeyPhase :=
  let n := slot.toNat
  if !keysAllowed s then (s, keyStatus 7)
  else if 4096 ≤ n then (s, keyStatus 2)
  else if (s.slot n).st ≠ .empty then (s, keyStatus 4)
  else match (s.slot n).erec with
    | none => (s, keyStatus 5)
    | some (id, _) =>
      if !hasIdentity s then (s, keyStatus 5)
      else if !keyAddrOk s b a 3584 then (s, keyStatus 0x12)
      else match keyRead s b a 128 with
        | (s, .bad) => (s, keyStatus 0x12)
        | (s, .wait) => (s, .drbg true 2)
        | (s, .ok st) =>
          pkSign s b 2 2 a (zeros 8 ++ bytesOfNat 8 id.toNat ++ zeros 84 ++ bytesOfNat 4 n ++ zeros 16 ++ st.drop 120)

/-- Reads several buffers for an operation, in order. -/
def keyReads (s : State) (b : BerthNo) : List (W64 × Nat) → State × KeyIo (List (List Byte))
  | [] => (s, .ok [])
  | (a, n) :: t =>
    match keyRead s b a n with
    | (s, .bad) => (s, .bad)
    | (s, .wait) => (s, .wait)
    | (s, .ok l) =>
      match keyReads s b t with
      | (s, .ok ls) => (s, .ok (l :: ls))
      | (s, .bad) => (s, .bad)
      | (s, .wait) => (s, .wait)

/-- Greatest message length of a verification (R230). -/
def maxMessage : Nat := 16777216

/-- PK.VERIFY.MLDSA. -/
def pkVerifyMldsa (s : State) (b : BerthNo) (pk m len sig ctx clen : W64) : State × KeyPhase :=
  if maxMessage < len.toNat ∨ 255 < clen.toNat then (s, keyStatus 0x0E)
  else match keyReads s b [(pk, 1952), (m, len.toNat), (sig, 3309), (ctx, clen.toNat)] with
    | (s, .ok [k, m, g, c]) => (s, keyStatus (if mldsaVerify k m c g then 0 else 0x10))
    | (s, .wait) => (s, .drbg true 3)
    | (s, _) => (s, keyStatus 0x12)

/-- PK.VERIFY.ECDSA. -/
def pkVerifyEcdsa (s : State) (b : BerthNo) (pt m len sig : W64) : State × KeyPhase :=
  if maxMessage < len.toNat then (s, keyStatus 0x0E)
  else match keyReads s b [(pt, 97), (m, len.toNat), (sig, 96)] with
    | (s, .ok [p, m, g]) =>
      if (ecPoint p).isNone then (s, keyStatus 0x0F) else (s, keyStatus (if ecdsaVerify p m g then 0 else 0x10))
    | (s, .wait) => (s, .drbg true 4)
    | (s, _) => (s, keyStatus 0x12)

/-- The status that bars slot `n` from receiving an ephemeral key, if one does. -/
def ephemeralBar (s : State) (n : Nat) : Option Nat :=
  if 4096 ≤ n ∨ n < 8 then some 2 else if (s.slot n).st ≠ .empty then some 4 else none

/-- PK.KEM.GEN: the slot keeps the seed d ∥ z. -/
def pkKemGen (s : State) (b : BerthNo) (slot out : W64) : State × KeyPhase :=
  match ephemeralBar s slot.toNat with
  | some e => (s, keyStatus e)
  | none =>
    if !keyAddrOk s b out 1568 then (s, keyStatus 0x12)
    else match draws s b [64] with
      | (s, .wait) => (s, .drbg true 5)
      | (s, .fail e) => (s, keyStatus e)
      | (s, .ok l) =>
        let seed := l.headD []
        keyFinish s b true 5 out (mlkemKeyGen (seed.take 32) (seed.drop 32)).1 slot.toNat seed

/-- 32 free bytes: four free values. -/
def freeBytes32 (s : State) : State × List Byte :=
  (s.drawn.drawn.drawn.drawn, bytesOfNat 8 s.freeWord.toNat ++ bytesOfNat 8 s.drawn.freeWord.toNat
    ++ bytesOfNat 8 s.drawn.drawn.freeWord.toNat ++ bytesOfNat 8 s.drawn.drawn.drawn.freeWord.toNat)

/-- PK.KEM.ENC: it draws nothing from the DRBG (R372), and where its randomness comes from is not said: it is free (log
entry 3). -/
def pkKemEnc (s : State) (b : BerthNo) (ek out : W64) : State × KeyPhase :=
  match keyRead s b ek 1568 with
  | (s, .bad) => (s, keyStatus 0x12)
  | (s, .wait) => (s, .drbg true 6)
  | (s, .ok k) =>
    if !mlkemEkValid k then (s, keyStatus 0x0F)
    else
      let (s, m) := freeBytes32 s
      keyFinish s b true 6 out (mlkemEncaps k m).1 0 []

/-- PK.KEM.DEC: its secret reaches nothing. -/
def pkKemDec (s : State) (b : BerthNo) (slot ct : W64) : State × KeyPhase :=
  let n := slot.toNat
  if 4096 ≤ n ∨ n < 8 then (s, keyStatus 2)
  else if !slotLoaded s n then (s, keyStatus 5)
  else if slotKind s n ≠ 6 then (s, keyStatus 3)
  else match keyRead s b ct 1568 with
    | (s, .bad) => (s, keyStatus 0x12)
    | (s, .wait) => (s, .drbg true 7)
    | (s, .ok _) => (s, keyStatus 0)

/-- PK.ECDH: the slot keeps the 48-byte scalar. -/
def pkEcdh (s : State) (b : BerthNo) (slot peer out : W64) : State × KeyPhase :=
  match ephemeralBar s slot.toNat with
  | some e => (s, keyStatus e)
  | none =>
    match keyRead s b peer 97 with
    | (s, .bad) => (s, keyStatus 0x12)
    | (s, .wait) => (s, .drbg true 8)
    | (s, .ok p) =>
      if (ecPoint p).isNone then (s, keyStatus 0x0F)
      else if !keyAddrOk s b out 97 then (s, keyStatus 0x12)
      else match draws s b [64] with
        | (s, .wait) => (s, .drbg true 8)
        | (s, .fail e) => (s, keyStatus e)
        | (s, .ok l) =>
          let d := ecScalar (l.headD [])
          keyFinish s b true 8 out (ecBytes (ecPub d)) slot.toNat (bytesOfNatBE 48 d)

/-- Which engines a PK function uses (R138): the lattice engine, the elliptic-curve engine. -/
def pkEngines (fn : Nat) : Bool × Bool :=
  if fn ≤ 2 then (true, true) else if fn = 4 ∨ fn = 8 then (false, true) else (true, false)

/-- The PK function that Berth `b` has in progress, if its operation is not complete. -/
def pkOpen (s : State) (b : BerthNo) : Option Nat :=
  match (s.berth b).wait with
  | .key (.drbg true fn) => some fn
  | .key (.write true fn _ _ _ _) => some fn
  | _ => none

/-- Does a frame of the pairing wait for the engines (R381)? -/
def pairingHeld (s : State) : Bool := s.via.st == .pairing && laneHeld s 8

/-- Does an operation passed to an engine before that of Berth `b` hold an engine that function `fn` needs? Each engine runs one request
at a time, in issue order (R138, R230). -/
def pkBehind (s : State) (b : BerthNo) (fn : Nat) : Bool :=
  (s.keys.pkQueue.takeWhile (· != some b)).any fun c =>
    match c with
    | none => pairingHeld s
    | some c => match pkOpen s c with
      | none => false
      | some m => ((pkEngines m).1 && (pkEngines fn).1) || ((pkEngines m).2 && (pkEngines fn).2)

/-- Has pairing to wait for requests that reached an engine before its own (R381)? -/
def pkBusy (s : State) : Bool := (s.keys.pkQueue.takeWhile (·.isSome)).any fun b => b.any fun b => (pkOpen s b).isSome

/-- Pairing joins the engines' queues (R381). -/
def pairJoin (s : State) : State :=
  if s.keys.pkQueue.contains none then s else { s with keys := { s.keys with pkQueue := s.keys.pkQueue ++ [none] } }

/-- Pairing's requests are done. -/
def pairLeave (s : State) : State := { s with keys := { s.keys with pkQueue := s.keys.pkQueue.filter (·.isSome) } }

/-- A PK operation of Berth `b` joins the engines' queues (R230). Entries of operations that are complete go. -/
def pkJoin (s : State) (b : BerthNo) : State :=
  { s with keys := { s.keys with pkQueue := (s.keys.pkQueue.filter fun c => match c with
      | none => true
      | some c => c != b && (pkOpen s c).isSome) ++ [some b] } }

/-- Makes PK function `fn` for Berth `b` (R230), once its engines have come to it. -/
def pkRun (s : State) (b : BerthNo) (fn : Nat) : State × KeyPhase :=
  let g := (s.ctx b).getG
  if pkBehind s b fn then (s, .drbg true fn)
  else match fn with
    | 0 => pkPubkey s b (g 2)
    | 1 => pkReceipt s b (g 2)
    | 2 => pkShred s b (g 2) (g 3)
    | 3 => pkVerifyMldsa s b (g 2) (g 3) (g 4) (g 5) (g 6) (g 7)
    | 4 => pkVerifyEcdsa s b (g 2) (g 3) (g 4) (g 5)
    | 5 => pkKemGen s b (g 2) (g 3)
    | 6 => pkKemEnc s b (g 2) (g 3)
    | 7 => pkKemDec s b (g 2) (g 3)
    | _ => pkEcdh s b (g 2) (g 3) (g 4)

end Sys2Proof.Machine
end

