-- ==== Sys2Proof/Machine/EntropyRows.lean ====
section
/-!
DEFINITION. The happenings at the eddy sources, the conditioner and the DRBG (R360 to R370), and the service of the requests
that wait (R365).
-/
namespace Sys2Proof.Machine

/-- Writes 64 drawn bits and status OK for RND (R232). -/
def rndOk (rd rb : BitVec 5) (l : List Byte) (c : Ctx) : Ctx :=
  (c.setG rd.toNat (BitVec.ofNat 64 (natOfBytes l))).setG rb.toNat 0

/-- Makes a KEY or PK operation of Berth `b`. -/
def keyOpRun (s : State) (b : BerthNo) (pk : Bool) (fn : Nat) : State × KeyPhase := if pk then pkRun s b fn else keyRun s b fn

/-- A KEY or PK operation in wait is tried again. -/
def keyRetry (s : State) (b : BerthNo) (pk : Bool) (fn : Nat) : State :=
  let r := keyOpRun s b pk fn
  r.1.modBerth b fun x => { x with wait := .key r.2 }

/-- Serves the waiting request of Berth `b` if it can be served (R365): one whose DRBG_TMO has passed ends with NOT_READY. A KEY or PK
operation goes on. -/
def serveRequest (s : State) (b : BerthNo) : State :=
  if s.ent.waits.any fun w => w.berth == b && decide (w.since + w.tmo ≤ s.time.ticks) then endRequest s b 0x0C
  else match (s.berth b).wait with
    | .rnd rd rb =>
      (match draws s b [8] with
       | (s, .ok l) => finishWait s b (rndOk rd rb (l.headD []))
       | (s, .fail e) => endRequest s b e
       | (s, .wait) => s)
    | .key (.drbg pk fn) => keyRetry s b pk fn
    | _ => dropWait s b

/-- Serves the waiting requests in their order (R365, R367). -/
def serveWaits (s : State) : State :=
  if s.ent.st = .running then s.ent.waits.foldl (fun s w => serveRequest s w.berth) s else s

/-- The conditioner completes a seed (R362). -/
def seedReady (s : State) : State :=
  if entropyOn s ∧ s.ent.gather.length = 768 ∧ s.ent.seed.isNone ∧ !s.ent.dead then
    serveWaits { s with ent := { s.ent with seed := some (sha3_384 (bytesOfBits 96 s.ent.gather)), gather := [] } }
  else s

/-- Source `k` fails although no health test did (R363): what disabled it last stays on show. -/
def failEddy (s : State) (k : Bool) : State :=
  if (s.eddy k).st = .disabled then s else disableEddy s k (s.eddy k).why.toNat

/-- The DRBG takes the first seed, runs its self-tests and instantiates (R363, R364 step 4). Whether they pass is free (log entry 44); a
failing one is the failure of both sources under R369. -/
def drbgInstantiate (s : State) : State :=
  match s.ent.st, s.ent.seed with
  | .starting, some x =>
    if !entropyOn s then s
    else
      let u := s.drawn
      if s.freeBit then
        let kv := drbgInst x
        serveWaits { u with ent := { u.ent with st := .running, key := kv.1, v := kv.2, served := 0, seed := none } }
      else failEddy (failEddy { u with ent := { u.ent with seed := none } } false) true
  | _, _ => s

/-- Ticks within which failed retests count toward the lock (R370). -/
def retestWindow : Nat := 1000000000

/-- Failed retests that ended within the window before now. -/
def recentFails (s : State) : Nat := (s.ent.fails.filter fun t => s.time.ticks ≤ t + retestWindow).length

/-- Is a source under a retest: disabled, and at its start-up test? -/
def underRetest (x : Eddy) : Bool := x.st == .disabled && x.testing

/-- The end of a retest, once no source is under test (R370). -/
def endRetest (s : State) : State :=
  if s.ent.retest ∧ !underRetest s.ent.e0 ∧ !underRetest s.ent.e1 then
    let ran := s.ent.retestRan
    let s := { s with ent := { s.ent with retest := false, retestRan := false } }
    if s.ent.st ≠ .stopped then s
    else if 1 ≤ eddiesOn s then { s with ent := { s.ent with st := .starting, gather := [] } }
    else if ran then s
    else
      let lock := 2 ≤ recentFails s
      let s := { s with ent := { s.ent with fails := (s.time.ticks :: s.ent.fails).take 3 } }
      if lock then raise (failWaits { s with ent := { s.ent with st := .locked } }) 1349 2 else s
  else s

/-- The start-up test of a source ends (R361): it is enabled, or disabled with reason start-up. -/
def startupEnd (s : State) (k : Bool) : State :=
  let x := s.eddy k
  if x.testing ∧ x.taken = 1024 ∧ entropyOn s then
    if x.failed then endRetest (disableEddy s k 3)
    else
      endRetest ((fun (s : State) => { s with ent := { s.ent with gather := [] } })
        (s.setEddy k { x with st := .enabled, testing := false, run := 0, win := 0, recur := 0 }))
  else s

/-- Puts a source under test, if it is disabled. -/
def retestEddy (x : Eddy) : Eddy :=
  if x.st = .disabled then { x with testing := true, taken := 0, failed := false, run := 0, win := 0, recur := 0 } else x

/-- ENT_CMD RETEST (R370). With no source disabled there is nothing to run, and it ends at once. -/
def retest (s : State) : State :=
  if s.ent.retest ∨ s.ent.st = .locked ∨ s.ent.dead then { s with ent := { s.ent with refused := true } }
  else endRetest { s with
    ent := { s.ent with
      retest := true, retestRan := s.ent.st == .running, e0 := retestEddy s.ent.e0, e1 := retestEddy s.ent.e1 } }

/-- A take of DRBG_RND by the host (R365): the value, and whether it ends with ERR. -/
def takeRnd (s : State) : State × W64 × Bool :=
  if canServe s then
    let d := drawOne s 8
    ({ d.1 with ent := { d.1.ent with hstat := 0 } }, BitVec.ofNat 64 (natOfBytes d.2), false)
  else
    let e := if s.ent.st = .stopped ∨ s.ent.st = .locked then 0x0D else 0x0C
    ({ s with ent := { s.ent with hstat := e } }, 0, true)

/-- The waiting request whose deadline comes first. -/
def firstDeadline (l : List DrbgReq) : Option DrbgReq :=
  l.foldl (fun m w => match m with
    | none => some w
    | some v => if w.since + w.tmo < v.since + v.tmo then some w else some v) none

/-- EDDY_SAMPLE. -/
def execEddySample (k : Bool) (bit : Bool) (s : State) : Host.Outcome State Fault Refusal := .next (eddySample s k bit)

/-- STARTUP_TEST_END. -/
def execStartupTestEnd (k : Bool) (s : State) : Host.Outcome State Fault Refusal := .next (startupEnd s k)

/-- SEED_READY. -/
def execSeedReady (s : State) : Host.Outcome State Fault Refusal := .next (seedReady s)

/-- DRBG_INSTANTIATE. -/
def execDrbgInstantiate (s : State) : Host.Outcome State Fault Refusal := .next (drbgInstantiate s)

/-- DRBG_RESEED (R367). -/
def execDrbgReseed (s : State) : Host.Outcome State Fault Refusal :=
  .next (if entropyOn s && reseedDue s then serveWaits (reseed s) else s)

/-- DRBG_TIMEOUT (R365): ticks pass to the first deadline, and that request ends with NOT_READY. -/
def execDrbgTimeout (s : State) : Host.Outcome State Fault Refusal :=
  match firstDeadline s.ent.waits with
  | none => .next s
  | some w =>
    let s := passUntil w.since w.tmo s
    .next (if w.since + w.tmo ≤ s.time.ticks then endRequest s w.berth 0x0C else s)

/-- KEY_PK_COMPLETE (R231): a completed operation writes its registers and its instruction retires; one that waited for its engine or
for memory goes on. -/
def execKeyPkComplete (b : BerthNo) (s : State) : Host.Outcome State Fault Refusal :=
  match (s.berth b).wait with
  | .key (.done outs) => .next (finishWait s b fun c => outs.foldl (fun c e => c.setG e.1 e.2) c)
  | .key (.drbg pk fn) => if s.ent.waits.any fun w => w.berth == b then .next s else .next (keyRetry s b pk fn)
  | .key (.write pk fn a l slot key) =>
    let r := keyFinish s b pk fn a l slot key
    .next (r.1.modBerth b fun x => { x with wait := .key r.2 })
  | _ => .next s

end Sys2Proof.Machine
end

