-- ==== Sys2Proof/Machine/Judge.lean ====
section
/-!
DEFINITION. How a written value is judged field by field (R422, R474 to R477), and the actions that register writes of the
Span's own areas start: Tollgate commits and fences, refloats, barrier breaks, the staging allocator.
-/
namespace Sys2Proof.Machine

/-- The verdict on one written field: the value applied and, when it differs, the clamp-log kind. -/
abbrev Verdict := Nat × Option Nat

/-- A writable field of a register: its place, and its judgement from the register as judged so far and the value
written. -/
structure FieldSpec where
  /-- Top bit. -/
  hi : Nat
  /-- Bottom bit. -/
  lo : Nat
  /-- The judgement. -/
  judge : W64 → Nat → Verdict

/-- A field that takes every value. -/
def anyField (hi lo : Nat) : FieldSpec := { hi := hi, lo := lo, judge := fun _ v => (v, none) }

/-- A numeric field with bounds (R474). -/
def numField (hi lo mn mx : Nat) : FieldSpec :=
  { hi := hi, lo := lo, judge := fun _ v => let a := clampTo mn mx v; (a, if a = v then none else some 1) }

/-- A field whose low `k` bits are ignored and read as zero. -/
def roundField (hi lo k : Nat) : FieldSpec := { hi := hi, lo := lo, judge := fun _ v => (v / 2 ^ k * 2 ^ k, none) }

/-- An enumerated field whose codes up to `mx` are assigned, with a safe default (R474). -/
def enumField (hi lo mx dflt : Nat) : FieldSpec :=
  { hi := hi, lo := lo, judge := fun _ v => if v ≤ mx then (v, none) else (dflt, some 2) }

/-- The mask of the bytes that byte enables `be` select. -/
def beMask (be : Byte) : W64 :=
  (List.range 8).foldl (fun m k => if be.getLsbD k then m ||| ones (8 * k + 7) (8 * k) else m) 0

/-- Do the byte enables touch bits [hi:lo]? -/
def beTouches (be : Byte) (hi lo : Nat) : Bool := (List.range 8).any fun k => be.getLsbD k && lo ≤ 8 * k + 7 && 8 * k ≤ hi

/-- The register formed from the written bytes and the current ones (R475). -/
def beMerge (old v : W64) (be : Byte) : W64 := (v &&& beMask be) ||| (old &&& ~~~ (beMask be))

/-- The register that a write leaves, each field judged against `old` as the fields above it have changed it. -/
def appliedFields (old v : W64) (be : Byte) (fs : List FieldSpec) : W64 :=
  let m := beMerge old v be
  fs.foldl (fun acc f =>
    if beTouches be f.hi f.lo then setFld acc f.hi f.lo (f.judge acc (fld m f.hi f.lo)).1 else acc) old

/-- Judges the touched fields from the top down and logs every substitution (R475, R479): the register as judged. A field whose bound
is a lower field of the same register is judged against what the same write makes of that field (log entry 88). `o` is the host-window
offset. -/
def judgeFields (s : State) (src : WSrc) (o : Nat) (old v : W64) (be : Byte) : List FieldSpec → State × W64
  | [] => (s, old)
  | fs =>
    let m := beMerge old v be
    fs.foldl (fun (acc : State × W64) f =>
      if beTouches be f.hi f.lo then
        let w := fld m f.hi f.lo
        let (a, k) := f.judge acc.2 w
        let r := setFld acc.2 f.hi f.lo a
        match k with
        | none => (acc.1, r)
        | some k =>
          (clampLog acc.1 (srcCode src) k (fidReg o f.lo) (BitVec.ofNat 64 w)
            (if k = 3 then 0 else BitVec.ofNat 64 a), r)
      else acc) (s, appliedFields old v be fs)

/-- Every touched field keeps its old value, with an entry of kind `k` each (R392, R474). -/
def keepFields (s : State) (src : WSrc) (k o : Nat) (old v : W64) (be : Byte) (fs : List FieldSpec) : State :=
  let m := beMerge old v be
  fs.foldl (fun s f =>
    if beTouches be f.hi f.lo then
      clampLog s (srcCode src) k (fidReg o f.lo) (BitVec.ofNat 64 (fld m f.hi f.lo)) (BitVec.ofNat 64 (fld old f.hi f.lo))
    else s) s

/-- Is the source South-bank firmware, of this block or of the Lead? -/
def isSouthFw : WSrc → Bool
  | .fwSouth _ => true
  | .viaduct (some (north, _)) => !north
  | _ => false

/-- Did the write arrive on the Viaduct? -/
def isVia : WSrc → Bool
  | .viaduct _ => true
  | _ => false

/-- Is the source firmware? -/
def isFw : WSrc → Bool
  | .fwSouth _ => true
  | .fwNorth _ => true
  | _ => false

/-! ### Tollgate commits and fences -/

/-- A write of TOLL_COMMIT (R351): starts a commit, or queues one. -/
def startCommit (s : State) (i : SpanNo) (north : Bool) : State :=
  s.modSpan i fun x => x.modToll north fun t =>
    if t.busy then { t with pending := true } else { t with busy := true, taken := t.staged }

/-- The level at which an active set would break the plaintext rule of R349, if any: does it let a Ferry of world `north`
both read a word of the secure partition and write a word of staging memory? Pages decide, since regions cover whole
pages; `mine` and `theirs` are the two worlds' sets. -/
def breaksPlaintext (s : State) (i : SpanNo) (mine theirs : Table Region) (north sup : Bool) : Bool :=
  let rs := (List.range 32).map fun n => Table.get (Region.reset (worldOf north)) mine n
  let os := (List.range 32).map fun n => Table.get (Region.reset (worldOf (!north))) theirs n
  let fer := fun (r : Region) => r.attr.getLsbD 15 && r.attr.getLsbD 10
  -- the pages at which a verdict can change
  let edges := (rs ++ os).flatMap fun r => [r.base.toNat, r.last.toNat + 1]
  let sec := pontoonBase i / 4096 + 0x600
  let secEnd := pontoonBase i / 4096 + 0x800
  let stg := stagingBase / 4096
  let stgEnd := stg + s.stagingSize / 4096
  let pages := fun (lo hi : Nat) => (lo :: (pontoonBase i / 4096 + 0x780) :: edges).filter fun p => lo ≤ p && p < hi
  let grants := fun (k : AKind) (p : Nat) =>
    let a := p * 4096
    if os.any fun r => r.covers a && r.attr.getLsbD 14 then false
    else match rs.reverse.find? fun r => r.covers a && fer r with
      | some r => r.grants k sup
      | none =>
        sup && (match k with
          | .read => !(inReserve i a) || north
          | _ => false)
  ((pages sec secEnd).any fun p => grants .read p) && ((pages stg stgEnd).any fun p => grants .write p)

/-- Which level a set breaks R349 at, coded as TOLL_CSTAT.reason: both worlds are judged, since an exclusive region of one
bars the other. -/
def plaintextReason (s : State) (i : SpanNo) (north : Bool) (mine theirs : Table Region) : Nat :=
  if breaksPlaintext s i mine theirs north false || breaksPlaintext s i theirs mine (!north) false then 1
  else if breaksPlaintext s i mine theirs north true || breaksPlaintext s i theirs mine (!north) true then 2
  else 0

/-- The end of a commit (R351): the set taken becomes active under a new epoch, or is refused; a queued commit starts. -/
def endCommit (s : State) (i : SpanNo) (north : Bool) : State :=
  let x := s.span i
  let t := x.toll north
  if !t.busy then s
  else
    let r := plaintextReason s i north t.taken (x.toll (!north)).active
    let t' :=
      if r = 0 then { t with busy := false, active := t.taken, refused := false }
      else { t with busy := false, refused := true, reason := BitVec.ofNat 4 r }
    let s := s.setSpan i ({ x with epoch := if r = 0 then x.epoch + 1 else x.epoch }.modToll north fun _ =>
      { t' with pending := false, taken := [] })
    if t.pending then startCommit s i north else s

/-- A write of TOLL_FENCE (R354). -/
def startFence (s : State) (i : SpanNo) : State :=
  s.modSpan i fun x => { x with fenceEpoch := x.epoch, fencePend := true }

/-! ### Refloats and barriers -/

/-- Starts the refloat of Ferry `f` when it is aground (R280, R472). -/
def startRefloat (s : State) (f : FerryNo) : State :=
  let y := s.ferry f
  if y.agr.aground && !y.refloat then s.setFerry f { y with refloat := true } else s

/-- GOP_BREAK (R471). -/
def breakGroups (s : State) (m : Nat) : State :=
  (List.range 16).foldl (fun s g => if m.testBit g then releaseBarrier s g false else s) s

/-! ### The staging allocator (R337, R338) -/

/-- Bytes of an extent. -/
def extentSize : Nat := 0x200000

/-- Extents that staging memory holds. -/
def extentCount (s : State) : Nat := s.stagingSize / extentSize

/-- Extents that a session holds. -/
def heldBy (s : State) (n : Nat) : Nat := (s.alloc.held.filter fun e => e.2 == n).length

/-- STG_QUOTA of session `n`. -/
def quotaOf (s : State) (n : Nat) : Nat := fld (s.hreg (0x701010 + n * 0x20)) 17 0

/-- The extent number that is `k` free extents into a rising list of held ones. -/
def nthFree : List Nat → Nat → Nat
  | [], k => k
  | h :: t, k => if h ≤ k then nthFree t (k + 1) else k

/-- A take of STG_ALLOCn (R337): which free extent is handed out is open, and a free choice (log entry 18). -/
def stgAlloc (s : State) (n : Nat) : State × W64 :=
  let free := extentCount s - s.alloc.held.length
  if free = 0 ∨ quotaOf s n ≤ heldBy s n then
    if s.alloc.told.contains n then (s, 0)
    else (raiseAny { s with alloc := { s.alloc with told := n :: s.alloc.told } } 1369, 0)
  else
    let e := nthFree (s.alloc.held.map (·.1)) (s.freeWord.toNat % free)
    let s := s.drawn
    ({ s with alloc := { held := Table.put s.alloc.held e n, told := s.alloc.told.filter (· != n) } },
      BitVec.ofNat 64 (stagingBase + e * extentSize))

/-- The extent that an address names, when it is one (R338). -/
def extentAt (s : State) (v : W64) : Option Nat :=
  let a := v.toNat
  if stagingBase ≤ a ∧ (a - stagingBase) % extentSize = 0 ∧ (a - stagingBase) / extentSize < extentCount s then
    some ((a - stagingBase) / extentSize)
  else none

/-- A write of STG_FREEn (R338). -/
def stgFree (s : State) (src : WSrc) (n : Nat) (v : W64) : State :=
  let bad := clampLog s (srcCode src) 3 (fidReg (0x701008 + n * 0x20) 0) v 0
  match extentAt s v with
  | none => bad
  | some e =>
    if Table.find s.alloc.held e = some n then { s with alloc := { s.alloc with held := Table.del s.alloc.held e } } else bad

/-- A write of STG_CLAIMn (R338). -/
def stgClaim (s : State) (src : WSrc) (n : Nat) (v : W64) : State :=
  let bad := clampLog s (srcCode src) 3 (fidReg (0x701018 + n * 0x20) 0) v 0
  match extentAt s v with
  | none => bad
  | some e =>
    if Table.has s.alloc.held e then bad else { s with alloc := { s.alloc with held := Table.put s.alloc.held e n } }

end Sys2Proof.Machine
end

