-- ==== Sys2Proof/Machine/Loader.lean ====
section
/-!
DEFINITION. The microcode loader (R281 to R293) and what it writes to OTP (R284, R285). What delivers image bytes, the
register window and the Landing, calls `ldrDeliver`.
-/
namespace Sys2Proof.Machine

/-! ### OTP (R438) -/

/-- OTP word `a`. -/
def State.otpWord (s : State) (a : Nat) : W32 := Table.get 0 s.lc.otp a

/-- OTP writes join those that wait (R438). -/
def otpStart (s : State) (l : List (OtpJob × Nat × W32)) : State :=
  { s with lc := { s.lc with writes := s.lc.writes ++ l, since := if s.lc.writes.isEmpty then s.time.ticks else s.lc.since } }

/-- Bits set in a 32-bit word. -/
def popc32 (w : W32) : Nat := ((List.range 32).filter fun i => w.getLsbD i).length

/-- The image floor (R284). -/
def imageFloor (s : State) : Nat := (List.range 16).foldl (fun n k => n + popc32 (s.otpWord (0x10 + k))) 0

/-- A word with its lowest `n` clear bits set, and how many were wanting. -/
def fillBits (w : W32) (n : Nat) : W32 × Nat :=
  (List.range 32).foldl (fun (a : W32 × Nat) i =>
    if a.2 = 0 ∨ a.1.getLsbD i then a else (a.1 ||| BitVec.ofNat 32 (2 ^ i), a.2 - 1)) (w, n)

/-- The writes of COMMIT_VERSION: the lowest clear bits, until the count is `v` (R284). -/
def commitWrites (s : State) (v : Nat) : List (OtpJob × Nat × W32) :=
  ((List.range 16).foldl (fun (a : List (OtpJob × Nat × W32) × Nat) k =>
    let w := s.otpWord (0x10 + k)
    let r := fillBits w a.2
    (if r.1 = w then a.1 else a.1 ++ [(OtpJob.commitVersion, 0x10 + k, r.1)], r.2)) ([], v - imageFloor s)).1

/-- The writes of ENROLL (R285). -/
def enrollWrites (s : State) : List (OtpJob × Nat × W32) :=
  ((List.range 8).map fun k =>
    (OtpJob.enroll, 0x20 + k, BitVec.ofNat 32 (fld (s.hreg (0x600020 + 8 * (k / 2))) (32 * (k % 2) + 31) (32 * (k % 2)))))
    ++ [(OtpJob.enroll, 0x28, 1)]

/-! ### Images (R281, R282) -/

/-- Image bytes of the load under way. -/
def imgBytes (s : State) (o n : Nat) : List Byte := (s.ldr.got.drop o).take n

/-- A field of the image header. -/
def imgFld (s : State) (o n : Nat) : Nat := fieldAt (imgBytes s o n) 0 n

/-- Payload length. -/
def imgL (s : State) : Nat := imgFld s 20 4

/-- Bytes of a Ferry section and of a Pilot section. -/
def ferrySection : Nat := 73856
/-- Bytes of a Pilot section. -/
def pilotSection : Nat := 36864

/-- The sections of a payload: store, offset and length; an extension is one section, noted under store 0. -/
def imgSections (s : State) : List (Nat × Nat × Nat) :=
  if s.ldr.ext then [(0, 0, imgL s)]
  else (List.range 256).map (fun f => (f, f * ferrySection, ferrySection))
    ++ (List.range 16).map (fun p => (256 + p, 256 * ferrySection + p * pilotSection, pilotSection))

/-- Where the parts after the payload start. -/
def imgTail (s : State) : Nat := 256 + imgL s

/-- Length of a whole image. -/
def imgTotal (s : State) : Nat := ceilDiv (imgTail s + 16 + 1952 + 97 + 3309 + 96) 8 * 8

/-- A failure: reason, store and word. -/
abbrev LdrFail := Nat × Nat × Nat

/-- A failure of no store. -/
def ldrFail (r : Nat) : Except LdrFail State := .error (r, 0x1FF, 0xFFFF)

/-- Step 1 of R290: the header. -/
def judgeHeader (s : State) : Except LdrFail State :=
  let f := imgFld s
  let kind := f 6 1
  let signer := f 7 1
  let zero := fun o n => (imgBytes s o n).all (· == 0)
  if f 0 4 ≠ 0x474D4850 ∨ f 4 2 ≠ 1 ∨ !zero 44 4 ∨ !zero 66 190 ∨ (kind = 1 ∧ (!zero 24 8 ∨ !zero 64 2))
      ∨ (kind = 2 ∧ zero 24 8) then ldrFail 0x01
  else if kind ≠ (if s.ldr.ext then 2 else 1) then ldrFail 0x02
  else if (kind = 1 ∧ 1 < signer) ∨ (kind = 2 ∧ signer ≠ 2) then ldrFail 0x07
  else if f 16 4 ≠ 0x401 then ldrFail 0x03
  else if (kind = 1 ∧ (f 8 4 < 1 ∨ 512 < f 8 4)) ∨ (kind = 2 ∧ f 8 4 ≠ 0) then ldrFail 0x05
  else if kind = 1 ∧ f 8 4 < imageFloor s then ldrFail 0x04
  else if imgL s ≠ (if kind = 1 then 256 * ferrySection + 16 * pilotSection else 18 * f 64 2)
      ∨ (kind = 2 ∧ (f 64 2 < 1 ∨ 512 < f 64 2)) ∨ imgTotal s ≠ s.ldr.len then ldrFail 0x06
  else .ok s

/-- The plain bytes of a section (R283): the counter goes on from section to section. -/
def decryptSection (s : State) (o n : Nat) : List Byte :=
  gctr (aesRoundKeys (s.keyOf 1)) (imgBytes s 32 12 ++ bytesOfNatBE 4 (2 + o / 16)) (chunksOf 16 (imgBytes s (256 + o) n))

/-- Step 2 of R290: a section is complete. -/
def judgeSection (e o n : Nat) (s : State) : Except LdrFail State :=
  if !slotLoaded s 1 then ldrFail 0x0B
  else
    let l := decryptSection s o n
    let ws := microwords (if s.ldr.ext ∨ 256 ≤ e then l else l.drop 128)
    match ws.zipIdx.find? fun w => !eccOk w.1 with
    | some w => .error (0x0C, e, if s.ldr.ext then 3584 + w.2 else w.2)
    | none =>
      let st := if s.ldr.ext then s.ldr.stores.map fun x => if x.1 < 256 then (x.1, overlay x.2 (128 + 18 * 3584) l) else x
        else Table.put s.ldr.stores e l
      .ok { s with ldr := { s.ldr with stores := st } }

/-- Dispatch base of major `m` in a Ferry section. -/
def baseOf (l : List Byte) (m : Nat) : Nat := fieldAt l (2 * m) 2

/-- The microwords of a store. -/
def storeWords (e : Nat) (l : List Byte) : List Nat := microwords (if e < 256 then l.drop 128 else l)

/-- The first place at which two lists differ. -/
def firstDiff : List Nat → List Nat → Nat → Option Nat
  | a :: s, b :: t, i => if a = b then firstDiff s t (i + 1) else some i
  | _, _, _ => none

/-- The first failure of a store under the word checks of R290 step 3. -/
def storeReason (ext : Bool) (e : Nat) (l : List Byte) : Option LdrFail :=
  let ws := storeWords e l
  let pilot := 256 ≤ e
  match ws.zipIdx.findSome? fun w => (wordReason pilot ws.length w.1).map fun r => (r, e, w.2) with
  | some f => some f
  | none =>
    match (if pilot then none else if ext then extReason (ws.drop 3584) else
        ((ws.drop 3584).zipIdx.find? fun w => !isNullWord w.1).map fun w => 3584 + w.2) with
    | some w => some (0x1B, e, w)
    | none =>
      let entries := if pilot then [0] else ferryEntries ((List.range 64).map (baseOf l))
      (pathReason ws.length ws entries).map fun r => (r.1, e, r.2)

/-- Step 3 of R290, once the payload is complete. -/
def judgeStores (s : State) : Except LdrFail State :=
  let st := s.ldr.stores
  let sect := fun e => Table.get [] st e
  if !s.ldr.ext ∧ (imgFld s 48 8 &&& (2 ^ 64 - 1 - majorMask) ≠ 0 ∨ 0x3FF < imgFld s 56 8) then ldrFail 0x19
  else match st.find? fun x => x.1 < 256 && (List.range 64).any fun m => 3583 < baseOf x.2 m + 63 with
    | some x => .error (0x19, x.1, 0xFFFF)
    | none =>
      match st.find? fun x => x.1 < 256 && x.2 != sect (x.1 / 16 * 16) with
      | some x => .error (0x1A, x.1, (firstDiff (storeWords 0 x.2) (storeWords 0 (sect (x.1 / 16 * 16))) 0).getD 0xFFFF)
      | none =>
        match st.findSome? fun x => storeReason s.ldr.ext x.1 x.2 with
        | some f => .error f
        | none => .ok s

/-- M of R283: every byte from 0 to the end of the GCM tag. -/
def imgM (s : State) : List Byte := imgBytes s 0 (imgTail s + 16)

/-- Step 4 of R290. -/
def judgeTag (s : State) : Except LdrFail State :=
  if gcmTag (aesRoundKeys (s.keyOf 1)) (imgBytes s 32 12) (imgBytes s 0 256) (imgBytes s 256 (imgL s)) = imgBytes s (imgTail s) 16
  then .ok s else ldrFail 0x0A

/-- The hash of the keys that a signer must have; none when it is not enrolled (R283). -/
def signerHash (s : State) (signer : Nat) : Option (List Byte) :=
  if signer < 2 then some ((List.range 32).map (Config.romHash (signer == 1)))
  else if s.otpWord 0x28 = 0 then none
  else some ((List.range 8).flatMap fun k => bytesOfNat 4 (s.otpWord (0x20 + k)).toNat)

/-- Step 5 of R290. -/
def judgeSigner (s : State) : Except LdrFail State :=
  if signerHash s (imgFld s 7 1) = some (sha3_256 (imgBytes s (imgTail s + 16) 2049)) then .ok s else ldrFail 0x07

/-- The ML-DSA-65 signature of the image. -/
def imgSigma (s : State) : List Byte := imgBytes s (imgTail s + 2065) 3309

/-- Step 6 of R290. -/
def judgeMlDsa (s : State) : Except LdrFail State :=
  if mldsaVerify (imgBytes s (imgTail s + 16) 1952) (imgM s) (asciiBytes "PHIRA-IMG") (imgSigma s) then .ok s else ldrFail 0x08

/-- Step 7 of R290. -/
def judgeEcdsa (s : State) : Except LdrFail State :=
  if ecdsaVerify (imgBytes s (imgTail s + 1968) 97) (imgM s ++ imgSigma s) (imgBytes s (imgTail s + 5374) 96) then .ok s
  else ldrFail 0x09

/-- The image is whole: its padding is zero, and what it reports is kept. -/
def judgeEnd (s : State) : Except LdrFail State :=
  if !(s.ldr.got.drop (imgTail s + 5470)).all (· == 0) then ldrFail 0x01
  else
    let l := s.ldr
    .ok { s with ldr :=
      if l.ext then
        { l with state := 4, feat5 := at' (imgFld s 24 4) 63 32 ||| at' (imgFld s 64 2) 9 0, got := [] }
      else
        { l with state := 3, feat0 := BitVec.ofNat 64 (imgFld s 48 8), feat4 := BitVec.ofNat 64 (imgFld s 56 8), feat5 := 0
                 mcver := at' (imgFld s 8 4) 63 32 ||| at' 1 31 16 ||| at' (imgFld s 12 4) 15 0, got := [] } }

/-- What is judged once the image bytes up to an offset have arrived, in the order of R290. Before the header has arrived
only the header is known. -/
def imgStages (s : State) : List (Nat × (State → Except LdrFail State)) :=
  if s.ldr.got.length < 256 then []
  else
    [(256, judgeHeader)] ++ (imgSections s).map (fun x => (256 + x.2.1 + x.2.2, judgeSection x.1 x.2.1 x.2.2))
      ++ [(imgTail s, judgeStores), (imgTail s + 16, judgeTag), (imgTail s + 2065, judgeSigner), (imgTail s + 5374, judgeMlDsa),
          (imgTail s + 5470, judgeEcdsa), (imgTotal s, judgeEnd)]

/-- An image is refused (R290): every store is cleared, since an extension's failure also clears the base. -/
def ldrRefuse (s : State) (f : LdrFail) : State :=
  { s with ldr := { s.ldr with
    state := 6, reason := BitVec.ofNat 8 f.1, engine := f.2.1, word := f.2.2, got := [], stores := []
    feat0 := 0, feat4 := 0, feat5 := 0, mcver := 0 } }

/-- The stages whose bytes have arrived with the last delivery run in order; the first failure ends the load. -/
def runStages (old new : Nat) : List (Nat × (State → Except LdrFail State)) → State → State
  | [], s => s
  | (e, j) :: t, s =>
    if old < e ∧ e ≤ new then
      match j s with
      | .ok s => runStages old new t s
      | .error f => ldrRefuse s f
    else runStages old new t s

/-- The event of a change of the loader's state since it was `old` (R316). -/
def ldrEvent (old : Nat) (s : State) : State := if s.ldr.state = old then s else raise s 1361 s.ldr.state

/-- Image bytes arrive (R288, R289): once the last has arrived the loader is checking. -/
def ldrDeliver (s : State) (l : List Byte) : State :=
  if s.ldr.state ≠ 1 then s
  else
    let old := s.ldr.got.length
    let s := { s with ldr := { s.ldr with got := s.ldr.got ++ l.take (s.ldr.len - old) } }
    let new := s.ldr.got.length
    let s := if s.ldr.len ≤ new then ldrEvent 1 { s with ldr := { s.ldr with state := 2 } } else s
    let st := s.ldr.state
    let s := runStages old new (imgStages s) s
    ldrEvent st (if s.ldr.state = 2 then ldrRefuse s (0x06, 0x1FF, 0xFFFF) else s)

/-! ### Commands (R289) -/

/-- A command refused with a reason. -/
def ldrRefuseCmd (s : State) (r : Nat) : State := { s with ldr := { s.ldr with reason := BitVec.ofNat 8 r } }

/-- BEGIN. -/
def ldrBegin (s : State) (ext dma : Bool) : State :=
  let l := s.ldr
  if (if ext then l.state = 3 else l.state = 0 ∨ l.state = 6) then
    { s with ldr := { l with
      state := 1, reason := 0, engine := 0x1FF, word := 0xFFFF, ext := ext, dma := dma
      len := fld (s.hreg 0x600010) 25 0, got := [], stores := if ext then l.stores else []
      feat5 := if ext then l.feat5 else 0, feat0 := if ext then l.feat0 else 0, feat4 := if ext then l.feat4 else 0
      mcver := if ext then l.mcver else 0 } }
  else ldrRefuseCmd s 2

/-- START. -/
def ldrStart (s : State) : State :=
  if s.ldr.state = 3 ∨ s.ldr.state = 4 then { s with ldr := { s.ldr with state := 5 } } else ldrRefuseCmd s 2

/-- Version of the loaded base image. -/
def loadedVersion (s : State) : Nat := fld s.ldr.mcver 63 32

/-- COMMIT_VERSION. -/
def commitVersion (s : State) : State :=
  if ¬(3 ≤ s.ldr.state ∧ s.ldr.state ≤ 5) then ldrRefuseCmd s 2
  else if 2 < s.lc.state.toNat then ldrRefuseCmd s 0x1C
  else otpStart s (commitWrites s (loadedVersion s))

/-- ENROLL. -/
def enroll (s : State) : State :=
  if s.lc.state ≠ 1 then ldrRefuseCmd s 0x1C
  else if s.otpWord 0x28 ≠ 0 then ldrRefuseCmd s 2
  else otpStart s (enrollWrites s)

/-- ABORT. -/
def ldrAbort (s : State) : State :=
  if s.ldr.state = 1 ∨ s.ldr.state = 2 then ldrRefuse s (0x1D, 0x1FF, 0xFFFF) else ldrRefuseCmd s 2

/-- LDR_CMD by its code. -/
def ldrCmd (s : State) (c : Nat) : State :=
  ldrEvent s.ldr.state <| match c with
  | 1 => ldrBegin s false false
  | 2 => ldrBegin s false true
  | 3 => ldrBegin s true false
  | 4 => ldrBegin s true true
  | 5 => ldrStart s
  | 6 => commitVersion s
  | 7 => enroll s
  | 8 => ldrAbort s
  | _ => s

/-- The stores after a reset of the block (R293): Ashore, state 0, or state 6 when a load was cut off. -/
def ldrReset (s : State) : State :=
  { s with ldr := if s.ldr.state = 1 ∨ s.ldr.state = 2 then { Loader.reset with state := 6, reason := 0x1D } else Loader.reset }

/-- LDR_BEGIN_BASE. -/
def execLdrBeginBase (s : State) : Host.Outcome State Fault Refusal := .next (cpDo s (ldrCmd · 1))
/-- LDR_BEGIN_BASE_DMA. -/
def execLdrBeginBaseDma (s : State) : Host.Outcome State Fault Refusal := .next (cpDo s (ldrCmd · 2))
/-- LDR_BEGIN_EXTENSION. -/
def execLdrBeginExtension (s : State) : Host.Outcome State Fault Refusal := .next (cpDo s (ldrCmd · 3))
/-- LDR_BEGIN_EXTENSION_DMA. -/
def execLdrBeginExtensionDma (s : State) : Host.Outcome State Fault Refusal := .next (cpDo s (ldrCmd · 4))
/-- LDR_START. -/
def execLdrStart (s : State) : Host.Outcome State Fault Refusal := .next (cpDo s (ldrCmd · 5))
/-- COMMIT_VERSION. -/
def execCommitVersion (s : State) : Host.Outcome State Fault Refusal := .next (cpDo s (ldrCmd · 6))
/-- ENROLL. -/
def execEnroll (s : State) : Host.Outcome State Fault Refusal := .next (cpDo s (ldrCmd · 7))
/-- ABORT. -/
def execAbortLoad (s : State) : Host.Outcome State Fault Refusal := .next (cpDo s (ldrCmd · 8))
/-- LDR_DATA: each write delivers, in a DMA load as well (R288). -/
def execLdrData (value : W64) (s : State) : Host.Outcome State Fault Refusal :=
  .next (cpDo s fun s => ldrDeliver s (bytesOfNat 8 value.toNat))

end Sys2Proof.Machine
end

