-- ==== Sys2Proof/Machine/Gf16.lean ====
section
/-!
DEFINITION. The code's field GF(2^16), vectors of symbols, and linear systems over it (R55 to R57). Elements are numbers
below 2^16.
-/
namespace Sys2Proof.Machine

/-- Multiplication by x, reduced by 0x1_100B (R55). -/
def gfX (a : Nat) : Nat := if 32768 ≤ a then ((2 * a) ^^^ 0x1100B) % 65536 else 2 * a

/-- Product, by the bits of the second factor from the lowest: `n` bits of it are left. -/
def gfMulN : Nat → Nat → Nat → Nat
  | 0, _, _ => 0
  | n + 1, a, b => (if b % 2 = 1 then a else 0) ^^^ gfMulN n (gfX a) (b / 2)

/-- Product in GF(2^16). -/
def gfMul (a b : Nat) : Nat := gfMulN 16 a b

/-- a^(2^16 − 2), by `n` squarings: the accumulator collects a^2, a^4, and so on. -/
def gfInvN : Nat → Nat → Nat → Nat
  | 0, _, r => r
  | n + 1, p, r => let q := gfMul p p; gfInvN n q (gfMul r q)

/-- Inverse; 0 for 0. -/
def gfInv (a : Nat) : Nat := gfInvN 15 a 1

/-- The coefficient c(t, i) of global parity t at data slot i (R55). -/
def coeff (t i : Nat) : Nat := gfInv (t ^^^ (64 + i))

/-- The symbols of a cell: byte 2s holds bits [7:0] of symbol s (R55). -/
def symsOf : List Byte → List Nat
  | a :: b :: t => (a.toNat + 256 * b.toNat) :: symsOf t
  | _ => []

/-- The bytes of symbols. -/
def symBytes (l : List Nat) : List Byte := l.flatMap fun x => [BitVec.ofNat 8 x, BitVec.ofNat 8 (x / 256)]

/-- Sum of two vectors, the empty one standing for zero. -/
def vAdd : List Nat → List Nat → List Nat
  | [], b => b
  | a, [] => a
  | x :: a, y :: b => (x ^^^ y) :: vAdd a b

/-- A vector times a scalar. -/
def vMul (c : Nat) (v : List Nat) : List Nat := if c = 1 then v else if c = 0 then [] else v.map (gfMul c)

/-- The sum of vectors times scalars. -/
def vSum (l : List (Nat × List Nat)) : List Nat := l.foldl (fun a e => vAdd a (vMul e.1 e.2)) []

/-- A row reduced by a list of rows, each with its leading place and a one there. -/
def reduceBy (rows : List (Nat × List Nat)) (r : List Nat) : List Nat :=
  rows.foldl (fun r e => let c := r.getD e.1 0; if c = 0 then r else vAdd r (vMul c e.2)) r

/-- Goes through equations in order and keeps each that is independent of those kept before it, until `u` are kept (R57):
the numbers of the kept equations, with the reduced rows. -/
def keepRows (u : Nat) : List (List Nat) → Nat → List Nat → List (Nat × List Nat) → List Nat
  | [], _, kept, _ => kept
  | r :: t, i, kept, red =>
    if u ≤ kept.length then kept
    else
      let r' := reduceBy red r
      match (List.range u).find? fun c => r'.getD c 0 != 0 with
      | none => keepRows u t (i + 1) kept red
      | some c => keepRows u t (i + 1) (kept ++ [i]) (red ++ [(c, vMul (gfInv (r'.getD c 0)) r')])

/-- Gauss and Jordan on rows of an augmented matrix, pivots at the columns from `c` on; `n` columns are left. -/
def solveCols : Nat → Nat → List (List Nat) → List (List Nat)
  | 0, _, m => m
  | n + 1, c, m =>
    match m.findIdx? fun r => (r.take c).all (· == 0) && r.getD c 0 != 0 with
    | none => solveCols n (c + 1) m
    | some i =>
      let p := vMul (gfInv ((m.getD i []).getD c 0)) (m.getD i [])
      solveCols n (c + 1) (m.mapIdx fun j r =>
        if j = i then p else let f := r.getD c 0; if f = 0 then r else vAdd r (vMul f p))

/-- The inverse of a square matrix of `u` independent rows. -/
def matInv (u : Nat) (m : List (List Nat)) : List (List Nat) :=
  let aug := m.mapIdx fun i r => (List.range u).map (fun c => r.getD c 0) ++ (List.range u).map (fun c => if c = i then 1 else 0)
  let red := solveCols u 0 aug
  (List.range u).map fun c => (((red.find? fun r => r.getD c 0 == 1 && (r.take c).all (· == 0)).getD []).drop u)

end Sys2Proof.Machine
end

