-- ==== Sys2Proof/Machine/Jobs.lean ====
section
/-!
DEFINITION. Jobs of the units and the Tender as they have them in common: acceptance (R71, R79, R228), scheduling (R80,
R81, R163, R168), accesses (R75), the status record and completion (R71, R72, R77).
-/
namespace Sys2Proof.Machine

/-! ### Descriptors (R60) -/

/-- Byte field of a job's descriptor. -/
def Job.fld (j : Job) (o n : Nat) : Nat := fieldAt j.desc o n

/-- Is the operation code assigned (R63, R120, R147, R159, R331)? -/
def opAssigned (e : Engine) (op : Nat) : Bool :=
  match e with
  | .truss => [0, 1, 2, 3, 0x10, 0x11, 0x20, 0x21, 0x22, 0x30, 0x40, 0x41, 0x80, 0x81, 0x82, 0x83, 0x84].contains op
  | .sealU => [0, 0x10, 0x11, 0x12, 0x20, 0x21, 0x22, 0x23, 0x30, 0x31].contains op
  | .cmpr => [0, 0x10, 0x11, 0x12, 0x20].contains op
  | .hash => [0, 0x10, 0x11, 0x12, 0x13, 0x14, 0x20].contains op
  | .tender => [0, 0x10, 0x11, 0x20, 0x30, 0x31, 0x40].contains op

/-- The operation a job runs: a reserved code is replaced by NOP (R60). -/
def jobOp (e : Engine) (j : Job) : Nat := if opAssigned e (j.fld 0 2) then j.fld 0 2 else 0

/-- The priority class a job is scheduled by (R80). -/
def jobClass (j : Job) : Nat := min 3 (j.fld 3 1)

/-- The side of a unit that runs an operation (R168): the compressor is side 0 and the decompressor side 1, Keccak side 0
and SHA-256 side 1. -/
def opSide (e : Engine) (op : Nat) : Nat :=
  match e with
  | .cmpr => if op = 0x10 then 0 else 1
  | .hash => if op = 0x20 then 1 else 0
  | _ => 0

/-- Side of a job. -/
def jobSide (e : Engine) (j : Job) : Nat := opSide e (jobOp e j)

/-- Address of a job's done bit (R60); its error bit follows. -/
def doneBit (j : Job) : Nat := j.fld 28 4 / 2 * 2 % 2 ^ 18

/-- Flags bit 7, evt. -/
def Job.evt (j : Job) : Bool := (j.fld 2 1).testBit 7

/-! ### Scheduling -/

/-- A resource that a started job holds until it completes: the Cofferdam entry of a Cofferdam operation (R89), the
context area of a compression or Hash job (R163). -/
def jobHold (e : Engine) (j : Job) : Option Nat :=
  match e with
  | .truss => if 0x80 ≤ jobOp e j then some (j.fld 40 8) else none
  | .cmpr => if jobOp e j = 0 then none else some (j.fld 4 4)
  | .hash => if jobOp e j = 0 then none else some (j.fld 4 4)
  | _ => none

/-- Is what the job needs held by another job that has started? -/
def heldUp (e : Engine) (u : UnitSched) (j : Job) : Bool :=
  match jobHold e j with
  | none => false
  | some h => u.jobs.any fun k => k.seq != j.seq && k.started && jobHold e k == some h

/-- The pipes of a side (R168): SHA-256 has two. -/
def pipesOf (e : Engine) (side : Nat) : List Nat :=
  match e with
  | .hash => if side = 0 then [0] else [1, 2]
  | _ => [side]

/-- The sides of a unit. -/
def sidesOf (e : Engine) : List Nat :=
  match e with
  | .cmpr => [0, 1]
  | .hash => [0, 1]
  | _ => [0]

/-- The pipe on which a job is under way. -/
def pipeOf (u : UnitSched) (j : Job) : Option Nat := (u.current.find? fun c => c.2 == j.seq).map (·.1)

/-- May the job start, for the order of its Berth's jobs of its class (R80, R163): those accepted before it have started, and on its own
pipe have done their work? -/
def inOrder (e : Engine) (u : UnitSched) (j : Job) : Bool :=
  !u.jobs.any fun k => k.seq < j.seq && k.berth == j.berth && jobClass k == jobClass j && k.await.isNone
    && (!k.started || (jobSide e k == jobSide e j && (pipesOf e (jobSide e j)).length == 1))

/-- Could the job run, but for the other classes and Berths? -/
def jobAble (e : Engine) (u : UnitSched) (j : Job) : Bool := j.await.isNone && inOrder e u j && !heldUp e u j

/-- Could the job start or resume now (R80): no job of a more urgent class that is able waits on its side? -/
def jobEligible (e : Engine) (u : UnitSched) (j : Job) : Bool :=
  jobAble e u j && !u.jobs.any fun k =>
    jobAble e u k && (pipeOf u k).isNone && jobSide e k == jobSide e j && jobClass k < jobClass j

/-- What one turn of deficit round robin adds (R80, R132): 32 KiB, or 8 cells of the Seal unit. -/
def turnQuantum : Engine → Nat
  | .sealU => 8
  | _ => 32768

/-- What an input cell costs. -/
def cellCost : Engine → Nat
  | .sealU => 1
  | _ => 4096

/-- Key of a side and class. -/
def turnKey (e : Engine) (j : Job) : Nat := 4 * jobSide e j + jobClass j

/-- Key of a Berth's deficit on a side and class. -/
def deficitKey (e : Engine) (j : Job) : Nat := 64 * turnKey e j + j.berth.val % 64

/-- A Berth's deficit for its jobs of a side and class. -/
def deficitOf (e : Engine) (u : UnitSched) (j : Job) : Nat := Table.get 0 u.deficit (deficitKey e j)

/-- The Berths of a Span from the one after `n` on, round robin, as numbers 0 to 63. -/
def robin (n : Nat) : List Nat := (List.range 64).map fun k => (n + 1 + k) % 64

/-- Has Berth `b` of the Span a job of the side and class of `j` that waits to run and could? -/
def berthWaits (e : Engine) (u : UnitSched) (j : Job) (b : Nat) : Bool :=
  u.jobs.any fun k => k.berth.val % 64 == b && turnKey e k == turnKey e j && jobEligible e u k && (pipeOf u k).isNone

/-- Does a Berth other than that of `j` wait for its turn? -/
def othersWait (e : Engine) (u : UnitSched) (j : Job) : Bool :=
  (List.range 64).any fun b => b != j.berth.val % 64 && berthWaits e u j b

/-- Does the Berth whose turn it is keep it: it has a job that could run, and a deficit that covers an input cell (R80)? -/
def keepsTurn (e : Engine) (u : UnitSched) (j : Job) (t : Nat) : Bool :=
  berthWaits e u j t && decide (cellCost e ≤ Table.get 0 u.deficit (64 * turnKey e j + t))

/-- Is it the turn of the Berth of `j` (R80)? Which Berth has the first turn of all is open, and the turns go by rising Berth number
(log entry 46). -/
def inTurn (e : Engine) (u : UnitSched) (j : Job) : Bool :=
  match Table.find u.turn (turnKey e j) with
  | none => true
  | some t => if keepsTurn e u j t then j.berth.val % 64 == t else (robin t).find? (berthWaits e u j) == some (j.berth.val % 64)

/-- A pipe of the job's side on which nothing is under way. -/
def freePipe (e : Engine) (u : UnitSched) (j : Job) : Option Nat :=
  (pipesOf e (jobSide e j)).find? fun p => !Table.has u.current p

/-- The job of Berth `b` with operation `op` that the unit can carry to its end now: one under way, or one that could start on a free
pipe. -/
def pickJob (s : State) (e : Engine) (b : BerthNo) (op : Nat) : Option Job :=
  let u := (s.span (berthSpan b)).unit e
  u.jobs.find? fun j => j.berth == b && jobOp e j == op && jobEligible e u j
    && ((pipeOf u j).isSome || ((freePipe e u j).isSome && inTurn e u j))

/-- The deficit with which a job goes on: that of a job under way or of a Berth that keeps its turn as it stands, and one turn more where
a turn begins (R80). -/
def creditOf (e : Engine) (u : UnitSched) (j : Job) : Nat :=
  let d := deficitOf e u j
  if (pipeOf u j).isSome then d
  else match Table.find u.turn (turnKey e j) with
    | none => d + turnQuantum e
    | some t => if t = j.berth.val % 64 ∧ keepsTurn e u j t = true then d else d + turnQuantum e

/-- The unit has turned to the Berth of `j`, whose deficit is now `credit`. -/
def takeTurn (e : Engine) (j : Job) (credit : Nat) (u : UnitSched) : UnitSched :=
  { u with
    turn := Table.put u.turn (turnKey e j) (j.berth.val % 64)
    deficit := Table.put u.deficit (deficitKey e j) credit
    lastRR := j.berth.val % 64 }

/-- Do the units run (R442, R444)? -/
def unitsRun (s : State) : Bool := enginesRun s

/-! ### Acceptance (R71 step 2, R79, R228) -/

/-- Jobs of Berth `b` that a unit has accepted and not completed. -/
def openJobs (u : UnitSched) (b : BerthNo) : Nat := (u.jobs.filter fun j => j.berth == b).length

/-- A unit accepts a job: the count of jobs accepted from the Berth rises. -/
def acceptJob (s : State) (e : Engine) (b : BerthNo) (desc : List Byte) (geos : List (List Byte)) : State :=
  let c := s.ctx b
  s.modSpan (berthSpan b) fun x => x.modUnit e fun u =>
    { u with
      jobs := u.jobs ++ [{ berth := b, north := c.north, sup := c.sup, desc := desc, geos := geos, seq := u.nextSeq,
                           started := false, await := none, prog := none, touched := [] }]
      accepted := Table.put u.accepted b.val (Table.get 0 u.accepted b.val + 1)
      nextSeq := u.nextSeq + 1 }

/-- Jobs that a unit has accepted from Berth `b`, modulo 2^32. -/
def acceptedCount (s : State) (e : Engine) (b : BerthNo) : W32 :=
  Table.get 0 ((s.span (berthSpan b)).unit e).accepted b.val

/-! ### Completion -/

/-- The access identity of a unit or the Tender working for a job (R341, R357). -/
def jobAcc (e : Engine) (j : Job) : Acc :=
  { sp := berthSpan j.berth, master := engineIdx e + 1, north := j.north, sup := j.sup, ferry := 0, berth := j.berth.val }

/-- Event source of a unit of Span `i` (R17). -/
def unitSource (i : SpanNo) (e : Engine) : Nat := 1280 + 4 * i.val + engineIdx e

/-- Removes a job from its unit. -/
def dropJob (s : State) (e : Engine) (j : Job) : State :=
  s.modSpan (berthSpan j.berth) fun x => x.modUnit e fun u =>
    { u with jobs := u.jobs.filter fun k => k.seq != j.seq, current := u.current.filter fun c => c.2 != j.seq }

/-- The bits and the event of a completion (R71 steps 8 and 9, R72): `err` sets the error bit and with it INT_PEND.uniterr
(R254); the event has code 1 when evt asks for it, and code 2 when there is no status record. The Tender has no event. -/
def setDone (s : State) (e : Engine) (j : Job) (err rec' : Bool) : State :=
  let i := berthSpan j.berth
  let a := doneBit j
  let s := if err then (s.setBit i j.north (a + 1) true).modCtx j.berth fun c => { c with intPend := c.intPend ||| 0x10 }
    else s
  let s := s.setBit i j.north a true
  let w := (jobAcc e j).who
  let s := countSpan s i 1 (engineIdx e) w none 1
  let s := if err then countSpan s i 1 (5 + engineIdx e) w none 1 else s
  match e with
  | .tender => s
  | _ => if !rec' then raise s (unitSource i e) 2 else if j.evt then raise s (unitSource i e) 1 else s

/-- The status record of R77 and its like: status, detail, bytes 4 to 29, and the clamps. -/
def recordBytes (status detail : Nat) (mid : List Byte) (clamps : Nat) : List Byte :=
  bytesOfNat 2 status ++ bytesOfNat 2 detail ++ padTo 26 mid ++ bytesOfNat 2 (min clamps 65535)

/-- Changes a job of a unit. -/
def modJob (s : State) (e : Engine) (j : Job) (h : Job → Job) : State :=
  s.modSpan (berthSpan j.berth) fun x => x.modUnit e fun u => { u with jobs := u.jobs.map fun k => if k.seq = j.seq then h k else k }

/-- A job has done its work and waits to complete; its pipe is free. -/
def setAwait (s : State) (e : Engine) (j : Job) (w : Await) : State :=
  (modJob s e j fun k => { k with await := some w, started := true, prog := none }).modSpan (berthSpan j.berth) fun x =>
    x.modUnit e fun u => { u with current := u.current.filter fun c => c.2 != j.seq }

/-- Completes a job (R71 steps 7 to 9, R72). Where the record's word has to be waited for, the job waits on. -/
def completeJob (s : State) (e : Engine) (j : Job) (w : Await) : State :=
  if w.recOk then
    match physWrite s (jobAcc e j) false (j.fld 32 8) (recordBytes w.status w.detail w.mid w.clamps) with
    | (s, .ok _) => setDone (dropJob s e j) e j (decide (2 ≤ w.status)) true
    | (s, .error .wait) => setAwait s e j { w with ready := true }
    | (s, .error _) => setDone (dropJob s e j) e j true false
  else setDone (dropJob s e j) e j true false

/-- Has a job of the same Berth and class that was accepted before `j` not completed (R80)? -/
def openBefore (u : UnitSched) (j : Job) : Bool :=
  u.jobs.any fun k => k.seq < j.seq && k.berth == j.berth && jobClass k == jobClass j

/-- The jobs of a unit that wait for nothing but their order complete in that order (R80). -/
def completeReady (s : State) (i : SpanNo) (e : Engine) : State :=
  ((s.span i).unit e).jobs.foldl (fun s j =>
    match j.await with
    | some w => if w.ready && !openBefore ((s.span i).unit e) j then completeJob s e j w else s
    | none => s) s

/-- A job has done its work: it completes, and with it those that only waited for it, or it waits for an earlier one of its Berth and
class. -/
def endJob (s : State) (e : Engine) (j : Job) (w : Await) : State :=
  let i := berthSpan j.berth
  if openBefore ((s.span i).unit e) j then setAwait s e j { w with ready := true }
  else completeReady (completeJob s e j w) i e

/-- A job that waits for its last frame or an ACK (R334, R385) waits for it no longer, and ends with its own status or another. -/
def completeAwaiting (s : State) (b : BerthNo) (seq : Nat) (status detail : Option Nat) : State :=
  match ((s.span (berthSpan b)).unit .tender).jobs.find? fun j => j.seq == seq && j.await.isSome with
  | none => s
  | some j =>
    match j.await with
    | none => s
    | some w => endJob s .tender j { w with status := status.getD w.status, detail := detail.getD w.detail, ready := true }

/-! ### Running a job -/

/-- What a job under way has reached. -/
structure JobRun where
  /-- The state. -/
  s : State
  /-- Fields clamped or substituted so far. -/
  clamps : Nat
  /-- The status record's address is good. -/
  recOk : Bool
  /-- Bytes 4 to 29 of the record as they stand. -/
  mid : List Byte
  /-- A destination overlaps what the job reads or keeps, so that its content is unspecified (R74). -/
  loose : Bool
  /-- The job repeats what it had done before, up to the boundary where it stood: it changes nothing. -/
  quiet : Bool
  /-- Reads and choices still to be repeated. -/
  replay : List (List Byte)
  /-- Reads and choices made, latest first. -/
  memo : List (List Byte)
  /-- Boundaries to pass before it stops; none for no limit. -/
  left : Option Nat
  /-- Deficit left (R80). -/
  credit : Nat
  /-- What is added when the deficit is used up: nothing while another Berth waits for its turn. -/
  quantum : Nat
  /-- Outputs being accumulated. -/
  parts : List (Nat × Nat)
  /-- Something has been accumulated into them. -/
  begun : Bool
  /-- What it reads, keeps and writes (R74). -/
  ranges : List (Nat × Nat)
  /-- Index of the cell it comes to next. -/
  next : Nat
  /-- It has been put aside, and must read its context area back. -/
  aside : Bool
  /-- The state, progress and deficit at the last boundary. -/
  base : State × Option Prog × Nat

/-- Why a job ends before its work is done. -/
inductive Stop where
  /-- It completes with a status and a detail. -/
  | status (st detail : Nat)
  /-- It has moved its data and waits for its completion. -/
  | await (st detail : Nat)
  /-- It cannot go on yet. -/
  | wait
  /-- It stands at a boundary at which the unit changes jobs. -/
  | pause

/-- A job under way. -/
abbrev JobM := ExceptT Stop (StateM JobRun)

/-- Ends the job with a status. -/
def jfail {α : Type} (st detail : Nat) : JobM α := throw (.status st detail)

/-- Ends the job unless a condition holds; what held before is not judged again. -/
def jcheck (c : Bool) (st detail : Nat) : JobM Unit := do
  if c || (← get).quiet then pure () else jfail st detail

/-- The state. -/
def jget : JobM State := do return (← get).s

/-- Changes the state. -/
def jmod (h : State → State) : JobM Unit := modify fun w => if w.quiet then w else { w with s := h w.s }

/-- The next of the reads and choices that are repeated. -/
def jpop : JobM (List Byte) := do
  let w ← get
  match w.replay with
  | [] => return []
  | l :: t =>
    set { w with replay := t, memo := l :: w.memo }
    return l

/-- Notes what a read or choice gave. -/
def jnote (l : List Byte) : JobM Unit := modify fun w => { w with memo := l :: w.memo }

/-- A number that depends on the state: what it was when the job first came here. -/
def jask (h : State → Nat) : JobM Nat := do
  if (← get).quiet then return natOfBytes (← jpop)
  else
    let n := h (← jget)
    jnote (bytesOfNat 9 n)
    return n

/-- The number of a fresh free value (log entry 3). -/
def jdraw : JobM Nat := do
  let n ← jask (·.free)
  jmod State.drawn
  return n

/-- Writes a field of the status record from byte `o` on. -/
def jrecord (o : Nat) (l : List Byte) : JobM Unit := modify fun w => { w with mid := overlay w.mid (o - 4) l }

/-- Counts one more clamped field. -/
def jclamped : JobM Unit := modify fun w => { w with clamps := w.clamps + 1 }

/-- How a failed access ends a job (R75). -/
def accStop : AccFail → Stop
  | .toll _ _ => .status 0x30 0
  | .ecc _ => .status 0x31 1
  | .progEcc _ => .status 0x31 1
  | .busy _ => .status 0x31 2
  | .rerr _ => .status 0x31 3
  | .wait => .wait

/-- Reads `n` bytes as the unit. -/
def jread (e : Engine) (j : Job) (a n : Nat) : JobM (List Byte) := do
  if n = 0 then return []
  let w ← get
  if w.quiet then jpop
  else match physRead w.s (jobAcc e j) a n with
    | (s, .ok l) => set { w with s := s, memo := l :: w.memo }; return l
    | (s, .error x) => set { w with s := s }; throw (accStop x)

/-- Writes bytes as the unit; `dst` marks a SPAN.COPY destination. -/
def jwriteTo (e : Engine) (j : Job) (dst : Bool) (a : Nat) (l : List Byte) : JobM Unit := do
  let w ← get
  if l.isEmpty || w.quiet then return ()
  match physWrite w.s (jobAcc e j) dst a l with
  | (s, .ok _) => set { w with s := s }
  | (s, .error x) => set { w with s := s }; throw (accStop x)

/-- Writes bytes as the unit. -/
def jwrite (e : Engine) (j : Job) (a : Nat) (l : List Byte) : JobM Unit := jwriteTo e j false a l

/-- Free bytes of draw `n`. -/
def freeBytes (n k : Nat) : List Byte := (List.range k).map (Config.freeByte n)

/-- Writes bytes of a destination, whose content is free once it overlaps what R74 names or firmware has broken R73 (log entry 3). -/
def jwriteOut (e : Engine) (j : Job) (dst : Bool) (a : Nat) (l : List Byte) : JobM Unit := do
  if (← get).loose then
    let n ← jdraw
    jwriteTo e j dst a (freeBytes n l.length)
  else jwriteTo e j dst a l

/-- Do two ranges of bytes overlap? -/
def overlaps (p q : Nat × Nat) : Bool := p.2 != 0 && q.2 != 0 && decide (p.1 < q.1 + q.2) && decide (q.1 < p.1 + p.2)

/-- The ranges of the other jobs in progress in the Span (R74). -/
def otherRanges (s : State) (e : Engine) (j : Job) : List (Nat × Nat) :=
  (s.span (berthSpan j.berth)).units.flatMap fun u =>
    u.2.jobs.flatMap fun k => if u.1 = engineIdx e ∧ k.seq = j.seq then [] else (k.prog.map (·.ranges)).getD []

/-- Notes where a job writes, what it reads, and what it keeps beside them. Its destinations' content is unspecified once one overlaps
what it or another job in progress reads, keeps or writes (R74), or once firmware has written what it reads (R73). -/
def jloose (e : Engine) (j : Job) (dsts srcs keeps : List (Nat × Nat)) : JobM Unit := do
  let others := (j.fld 32 8, 32) :: (srcs ++ keeps)
  let n ← jask fun s =>
    let bad := (dsts.any fun d => (others ++ otherRanges s e j).any (overlaps d)) || j.touched.any fun t => srcs.any (overlaps t)
    if bad then 1 else 0
  modify fun w => { w with loose := w.loose || n == 1, ranges := w.ranges ++ dsts ++ others }

/-- Counts an event for the job. -/
def jcount (e : Engine) (j : Job) (cls bit n : Nat) : JobM Unit :=
  jmod fun s => countSpan s (berthSpan j.berth) cls bit (jobAcc e j).who none n

/-- Makes a clamp-log entry about a descriptor field of `n` bytes at byte `o` (R479: source 5, unit or Tender). -/
def jlog (e : Engine) (j : Job) (kind o n applied : Nat) : JobM Unit :=
  jmod fun s => clampLog s 5 kind (fidDesc e o j.berth) (BitVec.ofNat 64 (j.fld o n)) (BitVec.ofNat 64 applied)

/-- Clamps a numeric descriptor field of `n` bytes at byte `o` to [lo, hi], with its log entry (R60, R474). -/
def jclamp (e : Engine) (j : Job) (o n lo hi : Nat) : JobM Nat := do
  let v := j.fld o n
  let a := clampTo lo hi v
  if a = v then return v
  jlog e j 1 o n a
  jclamped
  return a

/-- A check of a reference field of `n` bytes at byte `o`: a null reference is logged, and fails the job (R477). -/
def jref (e : Engine) (j : Job) (o n : Nat) (c : Bool) (st d : Nat) : JobM Unit := do
  if c || (← get).quiet then return ()
  jlog e j 3 o n 0
  jfail st d

/-- Do `n` bytes at `a` lie in the Pontoon of Span `i`? An empty range is judged by its address (R514, log entry 76). -/
def inPon (i : SpanNo) (a n : Nat) : Bool := pontoonBase i ≤ a && a + max 1 n ≤ pontoonBase i + 0x800000

/-- Do they lie in its secure partition? -/
def inSec (i : SpanNo) (a n : Nat) : Bool := pontoonBase i + 0x600000 ≤ a && a + max 1 n ≤ pontoonBase i + 0x800000

/-- Do they lie in it outside the secure partition? -/
def inOpen (i : SpanNo) (a n : Nat) : Bool := pontoonBase i ≤ a && a + max 1 n ≤ pontoonBase i + 0x600000

/-- Do they lie in staging memory? -/
def inStg (s : State) (a n : Nat) : Bool := stagingBase ≤ a && a + max 1 n ≤ stagingBase + s.stagingSize

/-- Checks 1 to 3 of R71 and its counterparts: the operation code, the clamped fields, and the status record's address, which
is aligned to 32 bytes and lies where `ok` lets it. A reserved code ends the job with OP_RESERVED and the written code; when the
address fails, the job ends with its bits only, whatever failed before (R72). -/
def jhead (e : Engine) (j : Job) (clamps : JobM Unit) (ok : State → Nat → Nat → Bool) : JobM Unit := do
  let s ← jget
  let good := j.fld 32 8 % 32 == 0 && ok s (j.fld 32 8) 32
  if opAssigned e (j.fld 0 2) then
    clamps
    jref e j 32 8 good 0x15 0
    modify fun w => { w with recOk := true }
  else
    jlog e j 2 0 2 0
    jclamped
    modify fun w => { w with recOk := good }
    jfail 2 (j.fld 0 2)

/-! ### Context areas (R60, R121, R145, R160) -/

/-- Where and how many bytes of progress a unit saves in a job's context area. -/
def saveArea (e : Engine) : Nat × Nat :=
  match e with
  | .truss => (8192, 512)
  | .sealU => (0, 64)
  | .cmpr => (0, deflCtxSize)
  | .hash => (0, 512)
  | .tender => (0, 0)

/-- Size of a unit's context area (R60, R121, R145, R160). -/
def ctxSize : Engine → Nat
  | .truss => 8704
  | .sealU => 64
  | .cmpr => deflCtxSize
  | .hash => hashCtxSize
  | .tender => 0

/-- Address of a job's context area. -/
def ctxAddr (j : Job) : Nat := pontoonBase (berthSpan j.berth) + j.fld 4 4

/-- A job's context area. -/
def ctxRange (e : Engine) (j : Job) : Nat × Nat := (ctxAddr j, ctxSize e)

/-- Does a context handle name a valid area of its unit: 64-byte aligned, and where R60, R121, R143 and R144 let it lie? -/
def ctxOk (e : Engine) (j : Job) : Bool :=
  let i := berthSpan j.berth
  let a := ctxAddr j
  j.fld 4 4 % 64 == 0 &&
    (match e with
     | .truss => inOpen i a (ctxSize e)
     | .sealU => inOpen i a (ctxSize e)
     | .cmpr => inSec i a (ctxSize e)
     | .hash => inPon i a (ctxSize e)
     | .tender => true)

/-- The streams of the job's own area as they stood in `old`: a unit that writes its area does not damage them (R162). -/
def keepStreams (old : State) (e : Engine) (j : Job) (s : State) : State :=
  let x := old.span (berthSpan j.berth)
  s.modSpan (berthSpan j.berth) fun y =>
    { y with
      hashes := match e, Table.find x.hashes (ctxAddr j) with
        | .hash, some h => Table.put y.hashes (ctxAddr j) h
        | _, _ => y.hashes
      deflates := match e, Table.find x.deflates (ctxAddr j) with
        | .cmpr, some d => Table.put y.deflates (ctxAddr j) d
        | _, _ => y.deflates }

/-- What a unit saves of a job (R81, R132, R162, R168): its form is not documented, and free (log entry 3), but for the Seal unit's
index of the next cell in the first four bytes (log entry 85). -/
def areaBytes (s : State) (e : Engine) (next k : Nat) : List Byte :=
  match e with
  | .sealU => overlay (freeBytes s.free k) 0 (bytesOfNat 4 next)
  | _ => freeBytes s.free k

/-- A unit writes `k` bytes at byte `o` of its context area, as its Tollgate and memory let it. -/
def writeArea (s : State) (e : Engine) (j : Job) (o k next : Nat) : State × Except AccFail Unit :=
  if k = 0 then (s, .ok ())
  else
    let r := physWrite s.drawn (jobAcc e j) false (ctxAddr j + o) (areaBytes s e next k)
    (keepStreams s e j r.1, r.2)

/-- Writes the job's context area. -/
def jwriteArea (e : Engine) (j : Job) (o k : Nat) : JobM Unit := do
  let w ← get
  if w.quiet then return ()
  match writeArea w.s e j o k 0 with
  | (s, .ok _) => set { w with s := s }
  | (s, .error x) => set { w with s := s }; throw (accStop x)

/-! ### Boundaries (R81, R132, R168, R333) -/

/-- The progress of a job as it stands. -/
def JobRun.prog (w : JobRun) : Prog :=
  { memo := w.memo.reverse, parts := if w.begun then w.parts else [], ranges := w.ranges, next := w.next, aside := false }

/-- A job that was put aside reads its context area and its partial outputs back (R81). -/
def jback (e : Engine) (j : Job) : JobM Unit := do
  let w ← get
  if w.aside then
    let (o, k) := saveArea e
    for (a, n) in (if k = 0 then [] else [(ctxAddr j + o, k)]) ++ (if w.begun then w.parts else []) do
      let w ← get
      match physRead w.s (jobAcc e j) a n with
      | (s, .ok _) => set { w with s := s }
      | (s, .error x) => set { w with s := s }; throw (accStop x)
    modify fun w => { w with aside := false }

/-- A boundary before work that costs `cost` of the Berth's deficit: the unit may change jobs here, and does when the deficit is used up
while another Berth waits (R80, R81). -/
def jstep (e : Engine) (j : Job) (cost : Nat) : JobM Unit := do
  if (← get).quiet && !(← get).replay.isEmpty then
    let _ ← jpop
    return ()
  if (← get).quiet then
    modify fun w => { w with quiet := false }
    jback e j
  let w ← get
  set { w with base := (w.s, some w.prog, w.credit) }
  if w.left == some 0 then throw .pause
  let credit := if w.credit < cost then w.credit + w.quantum else w.credit
  if credit < cost then throw .pause
  set { w with base := (w.s, some w.prog, w.credit), left := w.left.map (· - 1), credit := credit - cost, memo := [] :: w.memo }

/-- Names the outputs that the input cells read next are accumulated into. -/
def jparts (l : List (Nat × Nat)) : JobM Unit := modify fun w => { w with parts := l, begun := false }

/-- Reads an input cell, at a boundary: `n` bytes at `a`. -/
def jreadCell (e : Engine) (j : Job) (a n : Nat) : JobM (List Byte) := do
  jstep e j (cellCost e)
  let l ← jread e j a n
  modify fun w => { w with begun := true }
  return l

/-- Reads what a check needs, at a boundary (R515). -/
def jreadHead (e : Engine) (j : Job) (a n : Nat) : JobM (List Byte) := do
  jstep e j 0
  jread e j a n

/-! ### Rows -/

/-- A job about to go on from where it stands. `left` limits the boundaries it passes. -/
def jobRun (s : State) (e : Engine) (j : Job) (mid : List Byte) (left : Option Nat) : JobRun :=
  let u := (s.span (berthSpan j.berth)).unit e
  let p := j.prog.getD { memo := [], parts := [], ranges := [], next := 0, aside := false }
  { s := s, clamps := 0, recOk := false, mid := mid, loose := false, quiet := j.prog.isSome, replay := p.memo, memo := [], left := left
    credit := creditOf e u j, quantum := if othersWait e u j then 0 else turnQuantum e, parts := [], begun := false, ranges := []
    next := 0, aside := p.aside, base := (s, j.prog, creditOf e u j) }

/-- The job goes on: how it stops, and what it has reached. -/
def goOn (s : State) (e : Engine) (j : Job) (mid : List Byte) (m : JobM Unit) (left : Option Nat) : Except Stop Unit × JobRun :=
  (m.run).run (jobRun s e j mid left)

/-- The completion that a job under way has come to. -/
def JobRun.ends (w : JobRun) (status detail : Nat) (ready : Bool) : Await :=
  { status := status, detail := detail, mid := w.mid, clamps := w.clamps, recOk := w.recOk, ready := ready }

/-- The unit has turned to the job and spent its deficit down to `credit`. -/
def spent (s : State) (e : Engine) (j : Job) (credit : Nat) : State :=
  s.modSpan (berthSpan j.berth) fun x => x.modUnit e (takeTurn e j credit)

/-- A job stays under way on its pipe, at its last boundary: what it waits for keeps its verdict and its turn (R353). -/
def staysOn (e : Engine) (j : Job) (w : JobRun) : State :=
  let (s, p, c) := w.base
  let s := { s with ports := { s.ports with outst := w.s.ports.outst, busy := w.s.ports.busy } }
  let u := (s.span (berthSpan j.berth)).unit e
  let pipe := (pipeOf u j).orElse fun _ => freePipe e u j
  (modJob (spent s e j c) e j fun k => { k with started := true, prog := p }).modSpan (berthSpan j.berth) fun x =>
    x.modUnit e fun u => { u with current := match pipe with
      | some n => Table.put u.current n j.seq
      | none => u.current }

/-- Runs a job from where it stands to its end. It cannot while its turn ends before that (R80). -/
def runJob (s : State) (e : Engine) (j : Job) (mid : List Byte) (m : JobM Unit) : State :=
  let r := goOn s e j mid m none
  let w := r.2
  match r.1 with
  | .ok _ => endJob (spent w.s e j w.credit) e j (w.ends (if w.clamps = 0 then 0 else 1) 0 true)
  | .error (.status st d) => endJob (spent w.s e j w.credit) e j (w.ends st d true)
  | .error (.await st d) => setAwait (spent w.s e j w.credit) e j (w.ends st d false)
  | .error .wait => staysOn e j w
  | .error .pause => s

/-- The meaning of a job row: the job of Berth `b` with operation `op` runs, if the unit has one that can run. -/
def jobRow (e : Engine) (b : BerthNo) (op : Nat) (mid : List Byte) (m : Job → JobM Unit) (s : State) : State :=
  if unitsRun s then
    match pickJob s e b op with
    | none => s
    | some j => runJob s e j mid (m j)
  else s

/-! ### Buffers (R143, R144) -/

/-- Address of byte `o` of a buffer: in cell stride, bytes 36 to 4,067 of each cell. -/
def strideAt (stride : Bool) (a o : Nat) : Nat := if stride then a + 4096 * (o / 4032) + 36 + o % 4032 else a + o

/-- Bytes that a buffer of `n` bytes takes up. -/
def strideSize (stride : Bool) (n : Nat) : Nat := if stride then 4096 * ceilDiv n 4032 else n

/-- Does a buffer start where it may? -/
def strideOk (stride : Bool) (a : Nat) : Bool := !stride || a % 4096 == 0

/-- The pieces of bytes `o` to `o + n - 1` of a buffer, each within one 64-byte word. -/
def piecesOf (stride : Bool) (a : Nat) : Nat → Nat → Nat → List (Nat × Nat)
  | 0, _, _ => []
  | fuel + 1, o, n =>
    let p := strideAt stride a o
    let k := min n (min (64 - p % 64) (if stride then 4032 - o % 4032 else 64))
    if n = 0 then [] else (p, k) :: piecesOf stride a fuel (o + k) (n - k)

/-- Does the piece of `k` bytes that comes after `n` bytes begin a stretch of 4,096 (R168, R333)? -/
def begins4k (n k : Nat) : Bool := (n + 4095) / 4096 != (n + k + 4095) / 4096

/-- What an action gives, or the status and detail with which it would end the job. -/
def jtry {α : Type} (m : JobM α) : JobM (Except (Nat × Nat) α) :=
  tryCatch (do return .ok (← m)) fun x => match x with
    | .status st d => return .error (st, d)
    | x => throw x

/-- Reads a buffer of `total` bytes word by word, as far as it can: the bytes, and how the job is to end if a read fails. `bound` puts a
boundary at every 4,096 bytes; `note` is told how many bytes have been read. -/
def jreadPart (e : Engine) (j : Job) (bound : Bool) (note : Nat → JobM Unit) (total : Nat) :
    List (Nat × Nat) → Nat → List (List Byte) → JobM (List Byte × Option (Nat × Nat))
  | [], _, acc => pure (acc.reverse.flatten, none)
  | (a, k) :: t, n, acc => do
    if bound && begins4k n k then jstep e j (min 4096 (total - n))
    match ← jtry (jread e j a k) with
    | .error x => return (acc.reverse.flatten, some x)
    | .ok l =>
      note (n + k)
      jreadPart e j bound note total t (n + k) (l :: acc)

/-- Reads a whole buffer. -/
def jreadBuf (e : Engine) (j : Job) (bound : Bool) (note : Nat → JobM Unit) (total : Nat) (l : List (Nat × Nat)) :
    JobM (List Byte) := do
  match ← jreadPart e j bound note total l 0 [] with
  | (r, none) => return r
  | (_, some (st, d)) => jfail st d

/-- Writes a buffer of `total` bytes word by word, with boundaries as `bound` says; `note` is told how many bytes have been written. -/
def jwriteBuf (e : Engine) (j : Job) (bound : Bool) (note : Nat → JobM Unit) (total : Nat) :
    List (Nat × Nat) → Nat → List Byte → JobM Unit
  | [], _, _ => pure ()
  | (a, k) :: t, n, l => do
    if bound && begins4k n k then jstep e j (min 4096 (total - n))
    jwriteOut e j false a (l.take k)
    note (n + k)
    jwriteBuf e j bound note total t (n + k) (l.drop k)

/-- A free number from `lo` to `hi`. -/
def jbetween (lo hi : Nat) : JobM Nat := do
  return lo + (Config.freeWord (← jdraw)).toNat % (hi + 1 - lo)

/-! ### Change of jobs (R80, R81, R132, R168) -/

/-- The job that a side turns to: of the most urgent class that is able, the next of the Berth whose turn it is (R80). -/
def nextJob (e : Engine) (u : UnitSched) (side : Nat) : Option Job :=
  (robin u.lastRR).findSome? fun b =>
    u.jobs.find? fun j => j.berth.val % 64 == b && jobSide e j == side && jobEligible e u j && (pipeOf u j).isNone && inTurn e u j

/-- A pipe takes up a job. -/
def takeUp (i : SpanNo) (e : Engine) (pipe : Nat) (j : Job) (s : State) : State :=
  s.modSpan i fun x => x.modUnit e fun u =>
    { takeTurn e j (creditOf e u j) u with
      current := Table.put u.current pipe j.seq
      jobs := u.jobs.map fun k => if k.seq = j.seq then { k with started := true } else k }

/-- A free pipe takes up the next job of its side, if there is one. -/
def takeNext (i : SpanNo) (e : Engine) (side pipe : Nat) (s : State) : State :=
  match nextJob e ((s.span i).unit e) side with
  | none => s
  | some j => takeUp i e pipe j s

/-- Writes a job's partial outputs: how far each has been accumulated is not said, and free (log entry 3). -/
def writeParts (s : State) (e : Engine) (j : Job) : List (Nat × Nat) → State × Except AccFail Unit
  | [] => (s, .ok ())
  | (a, n) :: t =>
    match physWrite s.drawn (jobAcc e j) false a (freeBytes s.free n) with
    | (s, .ok _) => writeParts s e j t
    | r => r

/-- Puts a job aside at the boundary where it stands (R81): its progress goes to its context area and its partial outputs to their
places. A refused or failed write ends it; one that waits leaves it under way. -/
def putAside (e : Engine) (j : Job) (w : JobRun) : State :=
  let (s, p, c) := w.base
  match p with
  | none => s
  | some p =>
    let (o, k) := saveArea e
    let r := match writeArea s e j o k p.next with
      | (s, .ok _) => writeParts s e j p.parts
      | r => r
    match r with
    | (s, .ok _) =>
      (modJob (spent s e j c) e j fun k => { k with started := true, prog := some { p with aside := true } }).modSpan (berthSpan j.berth)
        fun x => x.modUnit e fun u => { u with current := u.current.filter fun c => c.2 != j.seq }
    | (s, .error x) =>
      match accStop x with
      | .status st d => endJob (spent s e j c) e j (w.ends st d true)
      | _ => staysOn e j { w with s := s }

/-- Firmware has stored `n` bytes at `a` (R73): the jobs it has issued and that are not done note it. -/
def touchJobs (s : State) (i : SpanNo) (a n : Nat) : State :=
  let mine := fun (k : Nat) => k == i.val || stagingBase ≤ a
  let busy := fun (x : Span) => x.units.any fun u => !u.2.jobs.isEmpty
  if s.spans.any fun e => mine e.1 && busy e.2 then
    { s with spans := s.spans.map fun e => if mine e.1 then
        (e.1, { e.2 with units := e.2.units.map fun u =>
          (u.1, { u.2 with jobs := u.2.jobs.map fun j => { j with touched := j.touched ++ [(a, n)] } }) }) else e }
  else s

end Sys2Proof.Machine
end

