-- ==== Sys2Proof/Machine/Truss.lean ====
section
/-!
DEFINITION. The Truss: geometries (R49 to R53), the code (R55 to R58) and the coding operations (R60 to R78).
-/
namespace Sys2Proof.Machine

/-! ### Geometries -/

/-- A geometry descriptor (R50). -/
structure Geo where
  /-- Geometry id. -/
  id : Nat
  /-- Data slots. -/
  k : Nat
  /-- Local groups. -/
  l : Nat
  /-- Global parities. -/
  g : Nat
  /-- Sizes of the groups. -/
  sizes : List Nat

/-- Reads a descriptor (R50). -/
def geoOf (d : List Byte) : Geo :=
  let l := fieldAt d 4 1
  { id := fieldAt d 0 2, k := fieldAt d 2 2, l := l, g := fieldAt d 5 1, sizes := ((d.drop 16).take l).map (·.toNat) }

/-- All slots. -/
def Geo.n (x : Geo) : Nat := x.k + x.l + x.g

/-- First data slot of group `j` (R49). -/
def Geo.first (x : Geo) (j : Nat) : Nat := (x.sizes.take j).foldl (· + ·) 0

/-- Data slots of group `j`. -/
def Geo.dataOf (x : Geo) (j : Nat) : List Nat := (List.range (x.sizes.getD j 0)).map (x.first j + ·)

/-- Members of group `j`: its data slots and its local parity slot (R49). -/
def Geo.members (x : Geo) (j : Nat) : List Nat := x.dataOf j ++ [x.k + j]

/-- The group of a data slot, if the geometry has groups. -/
def Geo.groupOf (x : Geo) (p : Nat) : Option Nat := (List.range x.l).find? fun j => (x.dataOf j).contains p

/-- A descriptor as it is registered: reserved and ignored bytes zero (R70). -/
def geoNormal (d : List Byte) : List Byte :=
  let l := fieldAt d 4 1
  d.take 10 ++ zeros 6 ++ padTo 64 ((d.drop 16).take l) ++ padTo 128 ((d.drop 80).take (2 * max 1 l)) ++ zeros 48

/-- The numeric fields of a descriptor that R51 judges: byte, width, bounds. Where several are substituted, they enter the clamp log in
rising byte order (DESIGN CHOICE, log entry 86: R475 orders register writes only). -/
def geoFields (d : List Byte) : List (Nat × Nat × Nat × Nat) :=
  let l := clampTo 0 64 (fieldAt d 4 1)
  [(0, 2, 1, 0xFFFE), (2, 2, 1, 1024), (4, 1, 0, 64), (5, 1, 0, 48)]
    ++ (if fieldAt d 5 1 = 0 then [] else [(8, 2, 0, 0xFFFE)])
    ++ (List.range l).map (fun j => (16 + j, 1, 1, 128))
    ++ (List.range (max 1 l)).map (fun j => (80 + 2 * j, 2, 0, 0xFFFE))

/-- Why a descriptor cannot be registered (R51, R78), apart from substituted fields. -/
def geoBad (d : List Byte) : Option Nat :=
  let x := geoOf d
  if fieldAt d 6 2 ≠ x.n ∨ 1024 < x.n then some 2
  else if 1 ≤ x.l ∧ (x.sizes.foldl (· + ·) 0 ≠ x.k) then some 3
  else if 1 ≤ x.g ∧ 1 ≤ x.l ∧ (List.range x.l).any (fun j => fieldAt d (80 + 2 * j) 2 == fieldAt d 8 2) then some 4
  else none

/-! ### Job fields -/

/-- Rows of a job, as clamped. -/
def jobRows (j : Job) : Nat := min 65536 (j.fld 24 4)

/-- Do `n` bytes at `a`, aligned to `al`, lie where R62 allows? -/
def trussAddr (s : State) (j : Job) (al a n : Nat) : Bool :=
  a % al == 0 && (inOpen (berthSpan j.berth) a n || inStg s a n)

/-- The geometry of a job, bound at acceptance (R52); the second is XCODE's target. -/
def jobGeo (j : Job) (k : Nat) : List Byte := j.geos.getD k []

/-- The bytes 4 to 29 of a Truss record before anything is done: no failing row (R77). -/
def trussMid : List Byte := zeros 4 ++ bytesOfNat 4 0xFFFFFFFF ++ zeros 18

/-- Checks 1 to 3 of R71. The GEO operations and NOP ignore the length. -/
def trussHead (j : Job) : JobM Unit := do
  let clamps : JobM Unit := do
    let _ ← jclamp .truss j 3 1 0 3
    if 0x10 ≤ jobOp .truss j then
      let _ ← jclamp .truss j 24 4 0 65536
  jhead .truss j clamps fun s a n => trussAddr s j 32 a n

/-- Checks 4 to 7 of R71 for an operation with geometry, context, and, as told, selector, stripe id and first row. -/
def trussFields (j : Job) (target sel stripe : Bool) : JobM Unit := do
  jref .truss j 60 2 (!(jobGeo j 0).isEmpty) 0x11 1
  if target then jref .truss j 62 2 (!(jobGeo j 1).isEmpty) 0x11 2
  jref .truss j 4 4 (ctxOk .truss j) 0x10 0
  if sel then jref .truss j 62 2 (decide (j.fld 62 2 < (geoOf (jobGeo j 0)).l)) 0x13 0
  if stripe then
    jref .truss j 48 8 (decide (j.fld 48 8 < 2 ^ 48)) 0x12 0
    jref .truss j 56 4 (decide (j.fld 56 4 + jobRows j ≤ 2 ^ 32)) 0x14 0

/-- What a job does before its first row: a stop here names row 0 (R75). -/
def early {α : Type} (m : JobM α) : JobM α := do
  jrecord 8 (bytesOfNat 4 0)
  let x ← m
  jrecord 8 (bytesOfNat 4 0xFFFFFFFF)
  return x

/-- Reads a column table of `n` entries. -/
def readTable (j : Job) (a n : Nat) : JobM (List Nat) := do
  let l ← early (jreadHead .truss j a (8 * n))
  return (List.range n).map fun p => fieldAt l (8 * p) 8

/-- Check 9: every non-zero entry of a table names a whole column where R62 allows. Of several bad entries ADDRESS names the lowest slot,
and the source table is judged before the destination table (DESIGN CHOICE, log entry 86). -/
def checkColumns (j : Job) (base : Nat) (t : List Nat) : JobM Unit := do
  let s ← jget
  match t.findIdx? fun a => a != 0 && !trussAddr s j 64 a (4096 * jobRows j) with
  | none => pure ()
  | some p => jcheck false 0x15 (base + p)

/-- Notes whether a destination column overlaps a source column, a table, the map, the context area or the status record
(R74). -/
def checkOverlap (j : Job) (src dst : List Nat) (tables : List (Nat × Nat)) : JobM Unit :=
  let cols := fun (t : List Nat) => (t.filter (· != 0)).map fun a => (a, 4096 * jobRows j)
  jloose .truss j (cols dst) (tables ++ cols src) [ctxRange .truss j]

/-- Reads bytes 0 to 4,083 of row `r` of a column, as symbols. -/
def readCell (j : Job) (col r : Nat) : JobM (List Nat) := do
  return symsOf (← jreadCell .truss j (col + 4096 * r) 4084)

/-- Writes a cell of symbols to row `r` of a column, bytes 4,084 to 4,095 zero (R60). -/
def writeCell (j : Job) (col r : Nat) (v : List Nat) : JobM Unit :=
  jwriteOut .truss j false (col + 4096 * r) (padTo 4096 (symBytes v))

/-- Reads the cells of row `r` in the slots given, by slot. -/
def readRow (j : Job) (src : List Nat) (slots : List Nat) (r : Nat) : JobM (Table (List Nat)) :=
  slots.foldlM (fun t p => do return t ++ [(p, ← readCell j (src.getD p 0) r)]) []

/-- A cell of a row, by slot. -/
def cellOf (t : Table (List Nat)) (p : Nat) : List Nat := Table.get [] t p

/-- Local parity of group `j` (R55). -/
def localPar (x : Geo) (t : Table (List Nat)) (j : Nat) : List Nat := vSum ((x.dataOf j).map fun i => (1, cellOf t i))

/-- Global parity `g` over the data slots given (R55). -/
def globalPar (t : Table (List Nat)) (slots : List Nat) (g : Nat) : List Nat :=
  vSum (slots.map fun i => (coeff g i, cellOf t i))

/-- The parity that slot `p` holds, from the data of a row. -/
def parityOf (x : Geo) (t : Table (List Nat)) (p : Nat) : List Nat :=
  if p < x.k + x.l then localPar x t (p - x.k) else globalPar t (List.range x.k) (p - x.k - x.l)

/-- The cells of row `r` in the columns given. -/
def cellsAt (cols : List Nat) (r : Nat) : List (Nat × Nat) := (cols.filter (· != 0)).map fun a => (a + 4096 * r, 4096)

/-- Runs the rows of a job that writes the columns `outs` in order, with the record's row counts (R71, R77). -/
def runRows (j : Job) (outs : List Nat) (f : Nat → JobM Unit) : JobM Unit := do
  for r in List.range (jobRows j) do
    jrecord 8 (bytesOfNat 4 r)
    jparts (cellsAt outs r)
    f r
    jrecord 4 (bytesOfNat 4 (r + 1))
  jrecord 8 (bytesOfNat 4 0xFFFFFFFF)

/-- Counts Truss work: symbol-MACs over a row's 2,042 positions, 128 lanes a step (R505). -/
def countMacs (j : Job) (macs : Nat) : JobM Unit := jcount .truss j 2 0 (ceilDiv (macs * 2042) 128)

/-- MACs per row and symbol position of a full encoding. -/
def fullMacs (x : Geo) : Nat := if x.l = 0 then x.k * x.g else x.k * (x.g + 1)

/-! ### NOP and the geometry table -/

/-- NOP and reserved codes. -/
def trussNop (j : Job) : JobM Unit := trussHead j

/-- GEO.REG (R51, R70). Where several conditions of R51 fail, the first in this order gives status and detail: GEO_INVALID 1, 2, 3, 4,
GEO_EXISTS, GEO_FULL (DESIGN CHOICE, log entry 86). -/
def geoReg (j : Job) : JobM Unit := do
  trussHead j
  let s ← jget
  jref .truss j 8 8 (trussAddr s j 64 (j.fld 8 8) 256) 0x15 1
  let d ← jread .truss j (j.fld 8 8) 256
  let bad := (geoFields d).filter fun f => clampTo f.2.2.1 f.2.2.2 (fieldAt d f.1 f.2.1) != fieldAt d f.1 f.2.1
  for f in bad do
    let v := fieldAt d f.1 f.2.1
    jmod fun s => clampLog s 5 1 (fidGeo f.1 j.berth) (BitVec.ofNat 64 v)
      (BitVec.ofNat 64 (clampTo f.2.2.1 f.2.2.2 v))
  jcheck bad.isEmpty 0x50 1
  match geoBad d with
  | some e => jfail 0x50 e
  | none =>
    let i := berthSpan j.berth
    let t := ((← jget).span i).geos
    jcheck (!(Table.has t (fieldAt d 0 2))) 0x51 0
    jcheck (decide (t.length < 256)) 0x52 0
    jmod fun s => s.modSpan i fun x => { x with geos := Table.put x.geos (fieldAt d 0 2) (geoNormal d) }

/-- GEO.DEL (R52). -/
def geoDel (j : Job) : JobM Unit := do
  trussHead j
  let i := berthSpan j.berth
  jref .truss j 60 2 (Table.has ((← jget).span i).geos (j.fld 60 2)) 0x11 1
  jmod fun s => s.modSpan i fun x => { x with geos := Table.del x.geos (j.fld 60 2) }

/-- GEO.READ (R70). -/
def geoRead (j : Job) : JobM Unit := do
  trussHead j
  let s ← jget
  match Table.find (s.span (berthSpan j.berth)).geos (j.fld 60 2) with
  | none => jref .truss j 60 2 false 0x11 1
  | some d =>
    jref .truss j 16 8 (trussAddr s j 64 (j.fld 16 8) 256) 0x15 2
    jwrite .truss j (j.fld 16 8) d

/-! ### Coding operations -/

/-- What a coding operation reads and writes (R64): the slots whose source is required, the slots it may write, and the
slots whose destination is required. -/
structure Pattern where
  /-- Slots whose source column must be present. -/
  need : List Nat
  /-- Slots that are outputs. -/
  outs : List Nat
  /-- Outputs that must be present. -/
  must : List Nat

/-- Check 10 of R71 in the order of R64: details 2 and 3. -/
def checkPattern (p : Pattern) (src dst : List Nat) : JobM Unit := do
  jcheck ((List.range dst.length).all fun i => dst.getD i 0 == 0 || p.outs.contains i) 0x20 2
  jcheck ((p.need.all fun i => src.getD i 0 != 0) && (p.must.all fun i => dst.getD i 0 != 0)) 0x20 3

/-- The checks from 4 on of a coding operation other than XCODE, up to its tables, which are none for a job without rows
(R514). -/
def codingHead (j : Job) (sel : Bool) : JobM (Option (List Nat × List Nat)) := do
  trussHead j
  trussFields j false sel false
  let x := geoOf (jobGeo j 0)
  let s ← jget
  jref .truss j 8 8 (trussAddr s j 8 (j.fld 8 8) (8 * x.n)) 0x15 1
  jref .truss j 16 8 (trussAddr s j 8 (j.fld 16 8) (8 * x.n)) 0x15 2
  if jobRows j = 0 then return none
  let src ← readTable j (j.fld 8 8) x.n
  let dst ← readTable j (j.fld 16 8) x.n
  checkColumns j 0x8000 src
  checkColumns j 0xC000 dst
  checkOverlap j src dst [(j.fld 8 8, 8 * x.n), (j.fld 16 8, 8 * x.n)]
  return some (src, dst)

/-- The outputs of a pattern whose destination is present, with their columns. -/
def presentOuts (p : Pattern) (dst : List Nat) : List Nat := p.outs.filter fun i => dst.getD i 0 != 0

/-- ENC.FULL (R64). -/
def encFull (j : Job) : JobM Unit := do
  match ← codingHead j false with
  | none => pure ()
  | some (src, dst) =>
    let x := geoOf (jobGeo j 0)
    let p : Pattern := { need := List.range x.k, outs := (List.range (x.l + x.g)).map (x.k + ·), must := [] }
    checkPattern p src dst
    runRows j ((presentOuts p dst).map (dst.getD · 0)) fun r => do
      let t ← readRow j src p.need r
      for o in presentOuts p dst do writeCell j (dst.getD o 0) r (parityOf x t o)
      countMacs j (fullMacs x)

/-- ENC.GROUP (R64): the local parity of one group and its part of each global parity. -/
def encGroup (j : Job) : JobM Unit := do
  match ← codingHead j true with
  | none => pure ()
  | some (src, dst) =>
    let x := geoOf (jobGeo j 0)
    let q := j.fld 62 2
    let p : Pattern := { need := x.dataOf q, outs := (x.k + q) :: (List.range x.g).map (x.k + x.l + ·), must := [] }
    checkPattern p src dst
    runRows j ((presentOuts p dst).map (dst.getD · 0)) fun r => do
      let t ← readRow j src p.need r
      for o in presentOuts p dst do
        writeCell j (dst.getD o 0) r (if o < x.k + x.l then localPar x t q else globalPar t (x.dataOf q) (o - x.k - x.l))
      countMacs j ((x.dataOf q).length * (x.g + 1))

/-- REP.LOCAL (R67). -/
def repLocal (j : Job) : JobM Unit := do
  match ← codingHead j true with
  | none => pure ()
  | some (src, dst) =>
    let x := geoOf (jobGeo j 0)
    let m := x.members (j.fld 62 2)
    match m.filter fun i => src.getD i 0 == 0 with
    | [gone] =>
      checkPattern { need := m.filter (· != gone), outs := [gone], must := [gone] } src dst
      runRows j [dst.getD gone 0] fun r => do
        let t ← readRow j src (m.filter (· != gone)) r
        writeCell j (dst.getD gone 0) r (vSum (t.map fun e => (1, e.2)))
        countMacs j (m.length - 1)
    | _ => jfail 0x20 1

/-! ### Recovery (R57, R66) -/

/-- An equation of recovery: a global parity, or the local parity of a group. -/
inductive Eqn where
  /-- Global parity t. -/
  | glob (t : Nat)
  /-- Local parity of group j. -/
  | loc (j : Nat)

/-- How an erasure pattern is recovered (R57). -/
structure Plan where
  /-- Groups repaired locally, with the member rebuilt. -/
  locals : List (Nat × Nat)
  /-- Data slots solved for. -/
  unknown : List Nat
  /-- The equations kept. -/
  keep : List Eqn
  /-- Inverse of their matrix over the unknowns. -/
  inv : List (List Nat)
  /-- Rank of all equations over the unknowns. -/
  rank : Nat

/-- Coefficient of an equation at data slot `i`. -/
def eqnAt (x : Geo) (e : Eqn) (i : Nat) : Nat :=
  match e with
  | .glob t => coeff t i
  | .loc j => if (x.dataOf j).contains i then 1 else 0

/-- Judges an erasure pattern (R57): the plan, whose rank falls short when it cannot be recovered. With more than 64 unknowns the rank is
not formed, and the record shows 0 (DESIGN CHOICE, log entry 86: R77 gives the field no value for it). -/
def planOf (x : Geo) (erased : List Nat) : Plan :=
  let locals := (List.range x.l).filterMap fun j =>
    match (x.members j).filter erased.contains with
    | [m] => some (j, m)
    | _ => none
  let left := erased.filter fun p => !(locals.any fun e => e.2 == p)
  let unknown := left.filter (· < x.k)
  let eqns := ((List.range x.g).filter fun t => !erased.contains (x.k + x.l + t)).map Eqn.glob
    ++ ((List.range x.l).filter fun j => !erased.contains (x.k + j) && (x.dataOf j).any unknown.contains).map Eqn.loc
  let rows := eqns.map fun e => unknown.map (eqnAt x e)
  let u := unknown.length
  if 64 < u then { locals := locals, unknown := unknown, keep := [], inv := [], rank := 0 }
  else
    let kept := keepRows u rows 0 [] []
    let keep := kept.filterMap fun i => eqns[i]?
    { locals := locals, unknown := unknown, keep := keep, rank := kept.length
      inv := if kept.length = u then matInv u (kept.map fun i => rows.getD i []) else [] }

/-- The right-hand side of a kept equation: its parity, with the known data removed. -/
def eqnRhs (x : Geo) (t : Table (List Nat)) (unknown : List Nat) (e : Eqn) : List Nat :=
  match e with
  | .glob g => vAdd (cellOf t (x.k + x.l + g))
      (vSum (((List.range x.k).filter fun i => !unknown.contains i).map fun i => (coeff g i, cellOf t i)))
  | .loc j => vAdd (cellOf t (x.k + j)) (vSum (((x.dataOf j).filter fun i => !unknown.contains i).map fun i => (1, cellOf t i)))

/-- A row with every cell: local repairs, the solution, then the erased parities recomputed (R57). -/
def recoverRow (x : Geo) (pl : Plan) (erased : List Nat) (t : Table (List Nat)) : Table (List Nat) :=
  let t := pl.locals.foldl (fun t e => t ++ [(e.2, vSum (((x.members e.1).filter (· != e.2)).map fun i => (1, cellOf t i)))]) t
  let rhs := pl.keep.map (eqnRhs x t pl.unknown)
  let t := t ++ pl.unknown.mapIdx fun i p => (p, vSum (List.zip (pl.inv.getD i []) rhs))
  t ++ (erased.filter fun p => x.k ≤ p && !(pl.locals.any fun e => e.2 == p)).map fun p => (p, parityOf x t p)

/-- Judges the pattern of REP.GLOBAL or REP.TEST (check 11), and stores the inverse matrix in the context area in a form
that the spec does not describe. -/
def judgePattern (j : Job) (x : Geo) (erased : List Nat) : JobM Plan := do
  let pl := planOf x erased
  let u := pl.unknown.length
  jrecord 12 (bytesOfNat 2 u ++ bytesOfNat 2 pl.rank)
  jcheck (decide (u ≤ 64)) 0x21 0
  jcheck (decide (pl.rank = u)) 0x22 0
  if u = 0 then return pl
  early (jwriteArea .truss j 0 (2 * u * u))
  return pl

/-- Slots whose column is absent. -/
def absent (t : List Nat) : List Nat := (List.range t.length).filter fun p => t.getD p 0 == 0

/-- Work of REP.GLOBAL per row and symbol position. -/
def globalMacs (x : Geo) (pl : Plan) (erased : List Nat) : Nat :=
  let u := pl.unknown.length
  let gOf := fun j => (x.dataOf j).length
  u * (x.k - u + 1) + u * u + (erased.filter fun p => x.k + x.l ≤ p).length * x.k
    + ((erased.filter fun p => x.k ≤ p && p < x.k + x.l && !(pl.locals.any fun e => e.2 == p)).map fun p => gOf (p - x.k)).foldl
        (· + ·) 0
    + (pl.locals.map fun e => gOf e.1).foldl (· + ·) 0

/-- REP.GLOBAL (R66). -/
def repGlobal (j : Job) : JobM Unit := do
  match ← codingHead j false with
  | none => pure ()
  | some (src, dst) =>
    let x := geoOf (jobGeo j 0)
    let erased := absent src
    let p : Pattern := { need := [], outs := erased, must := [] }
    checkPattern p src dst
    let pl ← judgePattern j x erased
    runRows j ((presentOuts p dst).map (dst.getD · 0)) fun r => do
      let t ← readRow j src ((List.range x.n).filter fun i => !erased.contains i) r
      let t := recoverRow x pl erased t
      for o in presentOuts p dst do writeCell j (dst.getD o 0) r (cellOf t o)
      countMacs j (globalMacs x pl erased)

/-- REP.TEST (R66). -/
def repTest (j : Job) : JobM Unit := do
  match ← codingHead j false with
  | none => pure ()
  | some (src, dst) =>
    checkPattern { need := [], outs := [], must := [] } src dst
    let _ ← judgePattern j (geoOf (jobGeo j 0)) (absent src)

/-! ### Transcode and scrub -/

/-- A cell with its location rewritten (R68). -/
def rehome (c : List Byte) (geo slot stripe row : Nat) : List Byte :=
  overlay c 4 (bytesOfNat 2 geo ++ bytesOfNat 2 slot ++ bytesOfNat 8 stripe ++ bytesOfNat 4 row)

/-- A pad cell (R34) at a location, bytes 0 to 4,083: its kind, byte 34, is 3 as R33 has it for a pad cell, though R68 calls every other
byte zero (DEDUCED, log entry 86). -/
def padCell (geo slot stripe row : Nat) : List Byte :=
  rehome (padTo 4084 (bytesOfNat 2 0x5048 ++ bytesOfNat 2 0x1000 ++ zeros 30 ++ [3])) geo slot stripe row

/-- XCODE (R68). -/
def xcode (j : Job) : JobM Unit := do
  trussHead j
  trussFields j true false true
  let x := geoOf (jobGeo j 0)
  let y := geoOf (jobGeo j 1)
  let s ← jget
  jref .truss j 8 8 (trussAddr s j 8 (j.fld 8 8) (8 * x.n)) 0x15 1
  jref .truss j 16 8 (trussAddr s j 8 (j.fld 16 8) (8 * y.n)) 0x15 2
  jref .truss j 40 8 (trussAddr s j 8 (j.fld 40 8) (2 * y.k)) 0x15 3
  if jobRows j = 0 then return ()
  let src ← readTable j (j.fld 8 8) x.n
  let dst ← readTable j (j.fld 16 8) y.n
  let m ← early (jreadHead .truss j (j.fld 40 8) (2 * y.k))
  checkColumns j 0x8000 src
  checkColumns j 0xC000 dst
  checkOverlap j src dst [(j.fld 8 8, 8 * x.n), (j.fld 16 8, 8 * y.n), (j.fld 40 8, 2 * y.k)]
  let map := (List.range y.k).map fun p => fieldAt m (2 * p) 2
  let named := map.filter (· != 0xFFFF)
  jcheck ((named.all fun p => decide (p < x.k) && src.getD p 0 != 0) && decide named.Nodup) 0x20 4
  runRows j dst fun r => do
    let row := j.fld 56 4 + r
    let t ← (List.range y.k).foldlM (fun (t : Table (List Nat)) p => do
      let q := map.getD p 0
      let c ← if q = 0xFFFF then pure (padCell y.id p (j.fld 48 8) row)
        else (fun l => rehome l y.id p (j.fld 48 8) row) <$> jreadCell .truss j (src.getD q 0 + 4096 * r) 4084
      return t ++ [(p, symsOf c)]) []
    for o in (List.range y.n).filter fun i => dst.getD i 0 != 0 do
      writeCell j (dst.getD o 0) r (if o < y.k then cellOf t o else parityOf y t o)
    countMacs j (fullMacs y)

/-- Compares the parities of the slots given with their stored cells, over every row (R69): it ends with SCRUB_MISMATCH when
any differs. A job stopped under R75 after a row that mismatched reports the row at which it stopped, and no bitmaps (DESIGN CHOICE, log
entry 86). -/
def scrubRows (j : Job) (x : Geo) (src need pars : List Nat) (macs : Nat) : JobM Unit := do
  let rec go : List Nat → List Nat → Option Nat → JobM (List Nat × Option Nat)
    | [], bad, first => return (bad, first)
    | r :: rs, bad, first => do
      jrecord 8 (bytesOfNat 4 r)
      let t ← readRow j src need r
      let c ← readRow j src pars r
      let miss := pars.filter fun p => cellOf c p != parityOf x t p
      countMacs j macs
      jrecord 4 (bytesOfNat 4 (r + 1))
      let bad := bad ++ miss
      let first := if first.isNone && !miss.isEmpty then some r else first
      if !miss.isEmpty && (j.fld 2 1).testBit 6 then return (bad, first) else go rs bad first
  let (bad, first) ← go (List.range (jobRows j)) [] none
  jrecord 8 (bytesOfNat 4 (first.getD 0xFFFFFFFF))
  let bits := fun (lo n : Nat) => ((List.range n).filter fun i => bad.contains (lo + i)).foldl (fun a i => a + 2 ^ i) 0
  jrecord 16 (bytesOfNat 8 (bits x.k x.l) ++ bytesOfNat 6 (bits (x.k + x.l) x.g))
  jcheck first.isNone 0x40 0

/-- SCRUB.PAR (R69). -/
def scrubPar (j : Job) : JobM Unit := do
  match ← codingHead j false with
  | none => pure ()
  | some (src, dst) =>
    let x := geoOf (jobGeo j 0)
    checkPattern { need := List.range x.k, outs := [], must := [] } src dst
    let pars := ((List.range (x.l + x.g)).map (x.k + ·)).filter fun p => src.getD p 0 != 0
    scrubRows j x src (List.range x.k) pars (fullMacs x)

/-- SCRUB.GROUP (R69). -/
def scrubGroup (j : Job) : JobM Unit := do
  match ← codingHead j true with
  | none => pure ()
  | some (src, dst) =>
    let x := geoOf (jobGeo j 0)
    let q := j.fld 62 2
    checkPattern { need := x.members q, outs := [], must := [] } src dst
    scrubRows j x src (x.dataOf q) [x.k + q] ((x.dataOf q).length + 1)

/-! ### The rows -/

/-- TRUSS_NOP. -/
def execTrussNop (b : BerthNo) (s : State) : Host.Outcome State Fault Refusal := .next (jobRow .truss b 0 trussMid trussNop s)
/-- GEO_REG. -/
def execGeoReg (b : BerthNo) (s : State) : Host.Outcome State Fault Refusal := .next (jobRow .truss b 1 trussMid geoReg s)
/-- GEO_DEL. -/
def execGeoDel (b : BerthNo) (s : State) : Host.Outcome State Fault Refusal := .next (jobRow .truss b 2 trussMid geoDel s)
/-- GEO_READ. -/
def execGeoRead (b : BerthNo) (s : State) : Host.Outcome State Fault Refusal := .next (jobRow .truss b 3 trussMid geoRead s)
/-- ENC_FULL. -/
def execEncFull (b : BerthNo) (s : State) : Host.Outcome State Fault Refusal := .next (jobRow .truss b 0x10 trussMid encFull s)
/-- ENC_GROUP. -/
def execEncGroup (b : BerthNo) (s : State) : Host.Outcome State Fault Refusal := .next (jobRow .truss b 0x11 trussMid encGroup s)
/-- REP_LOCAL. -/
def execRepLocal (b : BerthNo) (s : State) : Host.Outcome State Fault Refusal := .next (jobRow .truss b 0x20 trussMid repLocal s)
/-- REP_GLOBAL. -/
def execRepGlobal (b : BerthNo) (s : State) : Host.Outcome State Fault Refusal := .next (jobRow .truss b 0x21 trussMid repGlobal s)
/-- REP_TEST. -/
def execRepTest (b : BerthNo) (s : State) : Host.Outcome State Fault Refusal := .next (jobRow .truss b 0x22 trussMid repTest s)
/-- XCODE. -/
def execXcode (b : BerthNo) (s : State) : Host.Outcome State Fault Refusal := .next (jobRow .truss b 0x30 trussMid xcode s)
/-- SCRUB_PAR. -/
def execScrubPar (b : BerthNo) (s : State) : Host.Outcome State Fault Refusal := .next (jobRow .truss b 0x40 trussMid scrubPar s)
/-- SCRUB_GROUP. -/
def execScrubGroup (b : BerthNo) (s : State) : Host.Outcome State Fault Refusal := .next (jobRow .truss b 0x41 trussMid scrubGroup s)

end Sys2Proof.Machine
end

