-- ==== Sys2Proof/Machine/Coffer.lean ====
section
/-!
DEFINITION. The Cofferdam: entries in staging memory (R84 to R91) and the five operations on them (R92 to R101).
-/
namespace Sys2Proof.Machine

/-- The first 128 bytes of a control block, read (R85). -/
structure Entry where
  /-- The bytes. -/
  cb : List Byte

/-- The entry's address: the auxiliary field. -/
def cofferAt (j : Job) : Nat := j.fld 40 8

/-- Is an entry open (R85)? -/
def Entry.isOpen (e : Entry) : Bool := fieldAt e.cb 0 4 == 0x44464643 && (fieldAt e.cb 4 1 == 1 || fieldAt e.cb 4 1 == 2)

/-- Base row. -/
def Entry.base (e : Entry) : Nat := fieldAt e.cb 20 4
/-- Rows R. -/
def Entry.rows (e : Entry) : Nat := fieldAt e.cb 24 4
/-- Next generation. -/
def Entry.nextGen (e : Entry) : Nat := fieldAt e.cb 32 4

/-- Size T of the row table (R84). -/
def tableSize (r : Nat) : Nat := ceilDiv (16 * r) 4096 * 4096

/-- Address of the row-table entry of entry row `i`. -/
def rowAt (j : Job) (i : Nat) : Nat := cofferAt j + 4096 + 16 * i

/-- Address of accumulator cell `t` of slot `i` in an entry of `r` rows and `g` global parities. -/
def accAt (j : Job) (r g i t : Nat) : Nat := cofferAt j + 4096 + tableSize r + (i * g + t) * 4096

/-- A row-table entry (R86). -/
structure RowEnt where
  /-- Group mask. -/
  mask : Nat
  /-- Row slot. -/
  slot : Nat
  /-- State. -/
  st : Nat
  deriving DecidableEq

/-- Reads a row-table entry from its 16 bytes. -/
def rowEnt (l : List Byte) : RowEnt := { mask := fieldAt l 0 8, slot := fieldAt l 8 4, st := fieldAt l 12 1 }

/-- The 16 bytes of a row-table entry. -/
def rowBytes (e : RowEnt) : List Byte := bytesOfNat 8 e.mask ++ bytesOfNat 4 e.slot ++ [BitVec.ofNat 8 e.st] ++ zeros 3

/-- Is a row-table entry valid (R86)? -/
def rowOk (r l : Nat) (e : RowEnt) : Bool := e.slot < r + 16 && e.mask < 2 ^ l && e.st ≤ 1

/-- Reads the control block. -/
def readEntry (j : Job) : JobM Entry := do return { cb := ← jreadHead .truss j (cofferAt j) 128 }

/-- Reads the row-table entries of `n` entry rows from row `i`. -/
def readRows (j : Job) (i n : Nat) : JobM (List RowEnt) := do
  let l ← jreadHead .truss j (rowAt j i) (16 * n)
  return (chunksOf 16 l).map rowEnt

/-- Writes a row-table entry, in one staging write of its 64-byte word (R87). -/
def writeRow (j : Job) (i : Nat) (e : RowEnt) : JobM Unit := do
  let a := rowAt j i / 64 * 64
  let w ← jread .truss j a 64
  jwrite .truss j a (overlay w (rowAt j i - a) (rowBytes e))

/-- Sets or clears busy (R90). -/
def setBusy (j : Job) (b : Bool) : JobM Unit := jwrite .truss j (cofferAt j + 6) [if b then 1 else 0]

/-- The geometry's number of groups and of global parities. -/
def jobLG (j : Job) : Nat × Nat := ((geoOf (jobGeo j 0)).l, (geoOf (jobGeo j 0)).g)

/-- Checks 2 to 5 of R96 on an open entry. -/
def checkEntry (j : Job) (e : Entry) : JobM Unit := do
  let (l, g) := jobLG j
  jcheck (fieldAt e.cb 5 1 == (berthSpan j.berth).val) 0x63 (fieldAt e.cb 5 1)
  jcheck (fieldAt e.cb 8 8 == j.fld 48 8) 0x62 1
  jcheck (fieldAt e.cb 16 2 == j.fld 60 2) 0x62 2
  jcheck (decide (1 ≤ l) && decide (1 ≤ g)) 0x68 0
  jcheck (fieldAt e.cb 18 1 == l && fieldAt e.cb 19 1 == g && decide (1 ≤ e.rows) && decide (e.rows ≤ 65536)
    && decide (fieldAt e.cb 28 4 ≤ e.rows) && decide (e.nextGen ≤ 0x8000)) 0x6B 0xFFFF
  jcheck (decide (e.base ≤ j.fld 56 4) && decide (j.fld 56 4 + jobRows j ≤ e.base + e.rows)) 0x64 0

/-- The recovery scan (R90): it marks slots in the context area and rewrites the free list of an entry found busy. -/
def scanEntry (j : Job) (e : Entry) : JobM Unit := do
  if fieldAt e.cb 6 1 = 0 then return ()
  let rs ← early (readRows j 0 e.rows)
  early (jwriteArea .truss j 0 (ceilDiv (e.rows + 16) 8))
  let used := rs.map (·.slot)
  let unmarked := (List.range (e.rows + 16)).filter fun i => !used.contains i
  jcheck (decide used.Nodup && used.all (fun i => decide (i < e.rows + 16)) && unmarked.length == 16) 0x6B 0xFFFF
  early (jwrite .truss j (cofferAt j + 64) (unmarked.flatMap (bytesOfNat 4)))

/-- Ends a job on which busy is set: busy is cleared first (R90). -/
def cofferFail {α : Type} (j : Job) (st d : Nat) : JobM α := do
  setBusy j false
  jfail st d

/-- Checks 1 to 8 of R71 for a Cofferdam operation: which of source and destination are column tables, and what else they
must be. -/
def cofferHead (j : Job) (src dst : State → Bool) : JobM Unit := do
  trussHead j
  trussFields j false false true
  let s ← jget
  jref .truss j 8 8 (src s) 0x15 1
  jref .truss j 16 8 (dst s) 0x15 2
  jref .truss j 40 8 (cofferAt j % 4096 == 0 && inStg s (cofferAt j) 4096) 0x15 3

/-- Is a descriptor address a column table of the job's geometry? -/
def tableOk (j : Job) (o : Nat) (s : State) : Bool := trussAddr s j 8 (j.fld o 8) (8 * (geoOf (jobGeo j 0)).n)

/-- Is a descriptor address the first cell of a snapshot buffer (R92)? -/
def snapOk (j : Job) (o : Nat) (s : State) : Bool := trussAddr s j 4096 (j.fld o 8) 4096

/-- Opens the entry of ACC, FOLD, RELEASE or SNAP: checks 1 to 5 of R96. -/
def openEntry (j : Job) : JobM Entry := do
  let e ← early (readEntry j)
  jcheck e.isOpen 0x61 0
  checkEntry j e
  return e

/-- The groups whose data slots are all present, and whether some group is only partly present (R92). -/
def groupsIn (x : Geo) (src : List Nat) : List Nat × Bool :=
  let has := fun i => src.getD i 0 != 0
  ((List.range x.l).filter fun q => (x.dataOf q).all has,
    (List.range x.l).any fun q => (x.dataOf q).any has && !(x.dataOf q).all has)

/-- A set of groups as a mask. -/
def maskOf (c : List Nat) : Nat := c.foldl (fun m q => m ||| 2 ^ q) 0

/-- Does mask `m` contain mask `c`? -/
def contains (m c : Nat) : Bool := m &&& c == c

/-- The contribution of the groups `c` to the global parities of a row (R93). -/
def contribution (x : Geo) (t : Table (List Nat)) (c : List Nat) : List (List Nat) :=
  (List.range x.g).map fun k => globalPar t (c.flatMap x.dataOf) k

/-- The accumulator of a row: zero while its mask is 0 (R86). -/
def readAcc (j : Job) (e : Entry) (r : RowEnt) (g : Nat) : JobM (List (List Nat)) :=
  if r.mask = 0 then pure (List.replicate g [])
  else (List.range g).mapM fun t => do return symsOf (← jread .truss j (accAt j e.rows g r.slot t) 4084)

/-- The free slot that the next commit takes, the one at the lowest free-list position (R87). A number that no slot has fails the job
closed (R91) with COFFER_CORRUPT, detail 0xFFFF (DESIGN CHOICE, log entry 87: R97 gives no detail for it). -/
def freeSlot (j : Job) (e : Entry) : JobM Nat := do
  let new := fieldAt (← jread .truss j (cofferAt j + 64) 4) 0 4
  if e.rows + 16 ≤ new then cofferFail j 0x6B 0xFFFF
  return new

/-- The accumulator cells of a slot. -/
def accCells (j : Job) (e : Entry) (g slot : Nat) : List (Nat × Nat) := (List.range g).map fun t => (accAt j e.rows g slot t, 4096)

/-- Commits a row (R87): the new accumulator in the free slot, the row-table entry, and the old slot in its place. -/
def commitRow (j : Job) (e : Entry) (i : Nat) (r : RowEnt) (new mask : Nat) (acc : List (List Nat)) : JobM RowEnt := do
  let g := acc.length
  for (t, v) in (List.range g).zip acc do
    jwrite .truss j (accAt j e.rows g new t) (padTo 4096 (symBytes v))
  let r' : RowEnt := { r with mask := mask, slot := new }
  writeRow j i r'
  jwrite .truss j (cofferAt j + 64) (bytesOfNat 4 r.slot)
  return r'

/-- Judges every row of a job (R95): the first that fails ends it with a status and detail. -/
def judgeRows (j : Job) (e : Entry) (l : Nat) (bad : RowEnt → Option (Nat × Nat)) : JobM (List RowEnt) := do
  let rs ← early (readRows j (j.fld 56 4 - e.base) (jobRows j))
  let v := fun (r : RowEnt) (n : Nat) => if rowOk e.rows l r then bad r else some (0x6B, n)
  match ((List.range rs.length).zip rs).findSome? fun p => (v p.2 p.1).map fun q => (p.1, q) with
  | none => return rs
  | some (n, st, d) =>
    jrecord 8 (bytesOfNat 4 n)
    cofferFail j st d

/-- Ends a job that may have skipped rows (R97). -/
def endSkipped (j : Job) (n : Nat) : JobM Unit := do
  jrecord 8 (bytesOfNat 4 0xFFFFFFFF)
  setBusy j false
  if n = 0 then pure () else jfail 0x60 (min n 0xFFFF)

/-- Sets busy and judges the rows of ACC, FOLD or RELEASE (checks 7 and 8 of R96). -/
def takeEntry (j : Job) (e : Entry) (l : Nat) (bad : RowEnt → Option (Nat × Nat)) : JobM (List RowEnt) := do
  scanEntry j e
  early (setBusy j true)
  judgeRows j e l bad

/-- Do a row's mask and state let ACC and FOLD skip it (R93)? -/
def skips (cm : Nat) (r : RowEnt) : Bool := r.st == 1 || contains r.mask cm

/-- COFFER.ACC (R93). -/
def cofferAcc (j : Job) : JobM Unit := do
  cofferHead j (tableOk j 8) (tableOk j 16)
  if jobRows j = 0 then return ()
  let x := geoOf (jobGeo j 0)
  let src ← readTable j (j.fld 8 8) x.n
  let dst ← readTable j (j.fld 16 8) x.n
  checkColumns j 0x8000 src
  checkColumns j 0xC000 dst
  checkOverlap j (src.take x.k) dst [(j.fld 8 8, 8 * x.n), (j.fld 16 8, 8 * x.n)]
  let e ← openEntry j
  let (c, part) := groupsIn x src
  jcheck ((List.range x.n).all fun p => dst.getD p 0 == 0 || (c.map (x.k + ·)).contains p) 0x20 2
  jcheck (!part && !c.isEmpty) 0x20 3
  let cm := maskOf c
  let rs ← takeEntry j e x.l fun r => if skips cm r ∨ r.mask &&& cm = 0 then none else some (0x65, 0)
  let locals := (c.map fun q => dst.getD (x.k + q) 0).filter (· != 0)
  let mut skipped := 0
  for (n, r) in (List.range rs.length).zip rs do
    jrecord 8 (bytesOfNat 4 n)
    if skips cm r then
      if !locals.isEmpty then
        jparts (cellsAt locals n)
        let t ← readRow j src (c.flatMap x.dataOf) n
        for q in c do
          if dst.getD (x.k + q) 0 ≠ 0 then writeCell j (dst.getD (x.k + q) 0) n (localPar x t q)
      skipped := skipped + 1
    else
      let new ← freeSlot j e
      jparts (cellsAt locals n ++ accCells j e x.g new)
      let t ← readRow j src (c.flatMap x.dataOf) n
      for q in c do
        if dst.getD (x.k + q) 0 ≠ 0 then writeCell j (dst.getD (x.k + q) 0) n (localPar x t q)
      let old ← readAcc j e r x.g
      let _ ← commitRow j e (j.fld 56 4 - e.base + n) r new (r.mask ||| cm) (List.zipWith vAdd old (contribution x t c))
      countMacs j ((c.flatMap x.dataOf).length * (x.g + 1) + x.g)
    jrecord 4 (bytesOfNat 4 (n + 1))
  endSkipped j skipped

/-- COFFER.FOLD (R93). -/
def cofferFold (j : Job) : JobM Unit := do
  cofferHead j (tableOk j 8) (fun _ => true)
  if jobRows j = 0 then return ()
  let x := geoOf (jobGeo j 0)
  let src ← readTable j (j.fld 8 8) x.n
  checkColumns j 0x8000 src
  checkOverlap j (src.drop (x.k + x.l)) [] [(j.fld 8 8, 8 * x.n)]
  let e ← openEntry j
  let cm := j.fld 16 8
  jcheck ((List.range x.g).all fun t => src.getD (x.k + x.l + t) 0 != 0) 0x20 3
  jcheck (cm != 0 && decide (cm < 2 ^ x.l)) 0x67 0
  let rs ← takeEntry j e x.l fun r => if skips cm r ∨ r.mask &&& cm = 0 then none else some (0x65, 0)
  let mut skipped := 0
  for (n, r) in (List.range rs.length).zip rs do
    jrecord 8 (bytesOfNat 4 n)
    if skips cm r then skipped := skipped + 1
    else
      let new ← freeSlot j e
      jparts (accCells j e x.g new)
      let add ← (List.range x.g).mapM fun t => readCell j (src.getD (x.k + x.l + t) 0) n
      let old ← readAcc j e r x.g
      let _ ← commitRow j e (j.fld 56 4 - e.base + n) r new (r.mask ||| cm) (List.zipWith vAdd old add)
      countMacs j x.g
    jrecord 4 (bytesOfNat 4 (n + 1))
  endSkipped j skipped

/-- COFFER.RELEASE (R94). -/
def cofferRelease (j : Job) : JobM Unit := do
  cofferHead j (tableOk j 8) (tableOk j 16)
  if jobRows j = 0 then return ()
  let x := geoOf (jobGeo j 0)
  let src ← readTable j (j.fld 8 8) x.n
  let dst ← readTable j (j.fld 16 8) x.n
  checkColumns j 0x8000 src
  checkColumns j 0xC000 dst
  checkOverlap j (src.take x.k) dst [(j.fld 8 8, 8 * x.n), (j.fld 16 8, 8 * x.n)]
  let e ← openEntry j
  let (c, part) := groupsIn x src
  let globs := (List.range x.g).map (x.k + x.l + ·)
  jcheck ((List.range x.n).all fun p => dst.getD p 0 == 0 || globs.contains p || (c.map (x.k + ·)).contains p) 0x20 2
  jcheck (!part && globs.any fun p => dst.getD p 0 != 0) 0x20 3
  let cm := maskOf c
  let rs ← takeEntry j e x.l fun r =>
    if !contains r.mask cm && r.mask &&& cm != 0 then some (0x65, 0)
    else ((List.range x.l).find? fun q => !(r.mask ||| cm).testBit q).map fun q => (0x66, q)
  let mut done := fieldAt e.cb 28 4
  for (n, r) in (List.range rs.length).zip rs do
    jrecord 8 (bytesOfNat 4 n)
    let i := j.fld 56 4 - e.base + n
    let fresh := c.filter fun q => !r.mask.testBit q
    let new ← if fresh.isEmpty then pure r.slot else freeSlot j e
    jparts (cellsAt dst n ++ if fresh.isEmpty then [] else accCells j e x.g new)
    jstep .truss j 0
    let t ← readRow j src (c.flatMap x.dataOf) n
    for q in c do
      if dst.getD (x.k + q) 0 ≠ 0 then writeCell j (dst.getD (x.k + q) 0) n (localPar x t q)
    let old ← readAcc j e r x.g
    let acc := if fresh.isEmpty then old else List.zipWith vAdd old (contribution x t fresh)
    for (t', v) in (List.range x.g).zip acc do
      let a := dst.getD (x.k + x.l + t') 0
      if a ≠ 0 then writeCell j a n v
    let r' ← if fresh.isEmpty then pure r else commitRow j e i r new (2 ^ x.l - 1) acc
    if r.st = 0 then
      writeRow j i { r' with st := 1 }
      done := done + 1
      jwrite .truss j (cofferAt j + 28) (bytesOfNat 4 done)
      if done = e.rows then jwrite .truss j (cofferAt j + 4) [2]
    countMacs j ((c.flatMap x.dataOf).length * (x.g + 1) + x.g)
    jrecord 4 (bytesOfNat 4 (n + 1))
  endSkipped j 0

/-! ### Snapshots (R98 to R101) -/

/-- Record cells for `n` rows. -/
def recordCells (n : Nat) : Nat := ceilDiv n 255

/-- Is a row carried by a snapshot: open, with a non-zero mask? -/
def carried (r : RowEnt) : Bool := r.st == 0 && r.mask != 0

/-- A row record (R98). -/
def recordOf (r : RowEnt) (row : Nat) : List Byte := bytesOfNat 8 r.mask ++ bytesOfNat 4 row ++ [BitVec.ofNat 8 r.st] ++ zeros 3

/-- COFFER.SNAP (R98). An invalid row-table entry is named by its job-relative row, as check 8 of R96 names one (DESIGN CHOICE, log entry
87). A snapshot whose whole extent passes the end of its memory is refused with ADDRESS, detail 2, once the rows are known that give its
size (DESIGN CHOICE, log entry 87). -/
def cofferSnap (j : Job) : JobM Unit := do
  cofferHead j (fun _ => true) (snapOk j 16)
  if jobRows j = 0 then return ()
  let (l, g) := jobLG j
  let e ← openEntry j
  jcheck (e.nextGen != 0x8000) 0x6A 0
  let first := j.fld 56 4
  let rs ← early (readRows j (first - e.base) (jobRows j))
  match rs.findIdx? fun r => !rowOk e.rows l r with
  | some n => jrecord 8 (bytesOfNat 4 n); jfail 0x6B n
  | none =>
    let car := rs.filter carried
    let p := recordCells (jobRows j)
    let total := 1 + p + g * car.length
    let d := j.fld 16 8
    let s ← jget
    jref .truss j 16 8 (trussAddr s j 4096 d (4096 * total)) 0x15 2
    jrecord 8 (bytesOfNat 4 0)
    jwrite .truss j d (padTo 4096 (bytesOfNat 4 0x4E534643 ++ bytesOfNat 2 1 ++ [BitVec.ofNat 8 g, BitVec.ofNat 8 l]
      ++ bytesOfNat 8 (j.fld 48 8) ++ bytesOfNat 2 (j.fld 60 2) ++ zeros 2 ++ bytesOfNat 4 e.nextGen ++ bytesOfNat 4 e.base
      ++ bytesOfNat 4 e.rows ++ bytesOfNat 4 first ++ bytesOfNat 4 (jobRows j) ++ bytesOfNat 4 total
      ++ bytesOfNat 4 car.length))
    let recs := ((List.range rs.length).zip rs).map fun q => recordOf q.2 (first + q.1)
    for (k, c) in (List.range p).zip (chunksOf 4080 recs.flatten) do
      jwrite .truss j (d + 4096 * (1 + k)) (padTo 4096 c)
    for (k, r) in (List.range car.length).zip car do
      for t in List.range g do
        let v ← jreadCell .truss j (accAt j e.rows g r.slot t) 4084
        jwrite .truss j (d + 4096 * (1 + p + k * g + t)) (padTo 4096 v)
    jwrite .truss j (cofferAt j + 32) (bytesOfNat 4 (e.nextGen + 1))
    jrecord 4 (bytesOfNat 4 (jobRows j) ++ bytesOfNat 4 0xFFFFFFFF)

/-- The control block of a new entry with busy set (R85, R101). -/
def newBlock (j : Job) (base r gen : Nat) : List Byte :=
  let (l, g) := jobLG j
  padTo 4096 (bytesOfNat 4 0x44464643 ++ [1, BitVec.ofNat 8 (berthSpan j.berth).val, 1, 0] ++ bytesOfNat 8 (j.fld 48 8)
    ++ bytesOfNat 2 (j.fld 60 2) ++ [BitVec.ofNat 8 l, BitVec.ofNat 8 g] ++ bytesOfNat 4 base ++ bytesOfNat 4 r
    ++ zeros 4 ++ bytesOfNat 4 gen ++ zeros 28 ++ (List.range 16).flatMap fun k => bytesOfNat 4 (r + k))

/-- Opens an entry with every mask zero and slot r at row r (R101 step 1). -/
def createEntry (j : Job) (base r gen : Nat) : JobM Unit := do
  jwrite .truss j (cofferAt j) (newBlock j base r gen)
  jwrite .truss j (rowAt j 0) ((List.range r).flatMap fun i => rowBytes { mask := 0, slot := i, st := 0 })

/-- COFFER.LOAD from source 0 (R101). -/
def loadEmpty (j : Job) (e : Entry) : JobM Unit := do
  let (l, g) := jobLG j
  if e.isOpen then
    jcheck (fieldAt e.cb 5 1 == (berthSpan j.berth).val) 0x63 (fieldAt e.cb 5 1)
    jfail 0x62 3
  jcheck (decide (1 ≤ l) && decide (1 ≤ g)) 0x68 0
  jrecord 8 (bytesOfNat 4 0)
  createEntry j (j.fld 56 4) (jobRows j) (j.fld 16 8 % 32768)
  jstep .truss j 0
  setBusy j false
  jrecord 4 (bytesOfNat 4 (jobRows j) ++ bytesOfNat 4 0xFFFFFFFF)

/-- Why a snapshot's header is refused (R100), if it is: of several details the lowest (DESIGN CHOICE, log entry 87). -/
def badHeader (j : Job) (e : Entry) (h : List Byte) : Option Nat :=
  let (l, g) := jobLG j
  if fieldAt h 0 4 ≠ 0x4E534643 ∨ fieldAt h 4 2 ≠ 1 ∨ fieldAt h 18 2 ≠ 0 ∨ !(h.drop 48).all (· == 0) then some 1
  else if fieldAt h 8 8 ≠ j.fld 48 8 ∨ fieldAt h 16 2 ≠ j.fld 60 2 ∨ fieldAt h 6 1 ≠ g ∨ fieldAt h 7 1 ≠ l
      ∨ (e.isOpen ∧ (fieldAt h 24 4 ≠ e.base ∨ fieldAt h 28 4 ≠ e.rows)) then some 2
  else if fieldAt h 20 4 ≠ j.fld 16 8 % 32768 then some 3
  else if fieldAt h 32 4 ≠ j.fld 56 4 ∨ fieldAt h 36 4 ≠ jobRows j
      ∨ fieldAt h 40 4 ≠ 1 + recordCells (jobRows j) + g * fieldAt h 44 4 then some 4
  else none

/-- Why a snapshot's records are refused (R100), if they are: a zero field, or a bad record. They are judged after the header, so that its
details come first (DESIGN CHOICE, log entry 87). -/
def badRecords (j : Job) (h : List Byte) (cells : List (List Byte)) (recs : List (List Byte)) : Option Nat :=
  let (l, _) := jobLG j
  let ents := recs.map fun r => { mask := fieldAt r 0 8, slot := 0, st := fieldAt r 12 1 : RowEnt }
  if !(cells.all fun c => (c.drop 4080).all (· == 0)) || !(recs.all fun r => (r.drop 13).all (· == 0)) then some 1
  else if !(((List.range recs.length).zip recs).all fun p => fieldAt p.2 8 4 == j.fld 56 4 + p.1)
      || !(ents.all fun e => decide (e.st ≤ 1) && decide (e.mask < 2 ^ l))
      || (ents.filter carried).length != fieldAt h 44 4 then some 5
  else none

/-- What LOAD makes of a range whose snapshot it has accepted (R101): `old` are the row-table entries, `recs` the records, and the cells of
carried rows follow cell `p` of the snapshot. Rows released, and whether the entry is drained, follow from the records (DESIGN CHOICE, log
entry 87). -/
def loadRows (j : Job) (r gen p released i0 : Nat) (old : List RowEnt) (recs : List (List Byte)) : JobM Unit := do
  let g := (jobLG j).2
  let sa := j.fld 8 8
  let mut rel := released
  let mut c := 0
  for (k, o, q) in (List.range recs.length).zip (old.zip recs) do
    jrecord 8 (bytesOfNat 4 k)
    jstep .truss j 0
    let x : RowEnt := { mask := fieldAt q 0 8, slot := o.slot, st := fieldAt q 12 1 }
    writeRow j (i0 + k) x
    rel := rel + x.st - o.st
    if carried x then
      for t in List.range g do
        let v ← jreadCell .truss j (sa + 4096 * (1 + p + c * g + t)) 4084
        jwrite .truss j (accAt j r g x.slot t) (padTo 4096 v)
      c := c + 1
    jrecord 4 (bytesOfNat 4 (k + 1))
  jwrite .truss j (cofferAt j + 28) (bytesOfNat 4 rel)
  jwrite .truss j (cofferAt j + 4) [if rel = r then 2 else 1, BitVec.ofNat 8 (berthSpan j.berth).val]
  jwrite .truss j (cofferAt j + 32) (bytesOfNat 4 (gen + 1))
  setBusy j false
  jrecord 8 (bytesOfNat 4 0xFFFFFFFF)

/-- COFFER.LOAD of a snapshot (R100, R101). For a closed entry, a header whose R is 0 or above 65,536 is refused with COFFER_CORRUPT,
detail 0xFFFF, and a range outside the header's base and R with COFFER_RANGE; a snapshot that passes the end of its memory with ADDRESS,
detail 1, once its header tells its size; an invalid entry of an open entry's row table with COFFER_CORRUPT and its job-relative row
(DESIGN CHOICE, log entry 87). -/
def loadSnap (j : Job) (e : Entry) : JobM Unit := do
  let (l, g) := jobLG j
  if e.isOpen then checkEntry j e
  else jcheck (decide (1 ≤ l) && decide (1 ≤ g)) 0x68 0
  let was := e.isOpen
  if was then
    scanEntry j e
    early (setBusy j true)
  let refuse : {α : Type} → Nat → Nat → JobM α := fun st d => if was then cofferFail j st d else jfail st d
  let sa := j.fld 8 8
  let h ← early (jreadHead .truss j sa 4084)
  match badHeader j e h with
  | some d => refuse 0x69 d
  | none =>
    let n := jobRows j
    let p := recordCells n
    let base := fieldAt h 24 4
    let r := fieldAt h 28 4
    if (← jask fun s => if trussAddr s j 4096 sa (4096 * fieldAt h 40 4) then 1 else 0) = 0 then
      jlog .truss j 3 8 8 0
      refuse 0x15 1
    let cells ← early ((List.range p).mapM fun k => jreadHead .truss j (sa + 4096 * (1 + k)) 4084)
    let recs := (cells.flatMap fun c => chunksOf 16 (c.take 4080)).take n
    match badRecords j h cells recs with
    | some d => refuse 0x69 d
    | none =>
      if r = 0 ∨ 65536 < r then refuse 0x6B 0xFFFF
      if j.fld 56 4 < base ∨ base + r < j.fld 56 4 + n then refuse 0x64 0
      let i0 := j.fld 56 4 - base
      let old ← if was then early (readRows j i0 n) else pure []
      match old.findIdx? fun x => !rowOk r l x with
      | some k =>
        jrecord 8 (bytesOfNat 4 k)
        refuse 0x6B k
      | none =>
        if !was then early (createEntry j base r (fieldAt h 20 4 + 1))
        let old ← if was then pure old else early (readRows j i0 n)
        loadRows j r (fieldAt h 20 4) p (if was then fieldAt e.cb 28 4 else 0) i0 old recs

/-- COFFER.LOAD. -/
def cofferLoad (j : Job) : JobM Unit := do
  cofferHead j (fun s => j.fld 8 8 == 0 || snapOk j 8 s) (fun _ => true)
  if jobRows j = 0 then return ()
  let e ← early (readEntry j)
  if j.fld 8 8 = 0 then loadEmpty j e else loadSnap j e

/-- COFFER_ACC. -/
def execCofferAcc (b : BerthNo) (s : State) : Host.Outcome State Fault Refusal := .next (jobRow .truss b 0x80 trussMid cofferAcc s)
/-- COFFER_FOLD. -/
def execCofferFold (b : BerthNo) (s : State) : Host.Outcome State Fault Refusal := .next (jobRow .truss b 0x81 trussMid cofferFold s)
/-- COFFER_RELEASE. -/
def execCofferRelease (b : BerthNo) (s : State) : Host.Outcome State Fault Refusal := .next (jobRow .truss b 0x82 trussMid cofferRelease s)
/-- COFFER_SNAP. -/
def execCofferSnap (b : BerthNo) (s : State) : Host.Outcome State Fault Refusal := .next (jobRow .truss b 0x83 trussMid cofferSnap s)
/-- COFFER_LOAD. -/
def execCofferLoad (b : BerthNo) (s : State) : Host.Outcome State Fault Refusal := .next (jobRow .truss b 0x84 trussMid cofferLoad s)

end Sys2Proof.Machine
end

