-- ==== Sys2Proof/Machine/Inflate.lean ====
section
/-!
DEFINITION. Decoding of raw Deflate streams (R155, RFC 1951): a stream is decoded element by element (a block header, a
stored byte, a literal or a match), so that the end of its input or of its room falls between two elements.
-/
namespace Sys2Proof.Machine

/-- Number of `k` bytes of an array from byte `o`, lowest first; bytes beyond its end are zero. -/
def leAt (a : Array Byte) (o : Nat) : Nat → Nat
  | 0 => 0
  | k + 1 => (a.getD o 0).toNat + 256 * leAt a (o + 1) k

/-- `n` bits of an array from bit `p`, the first the lowest. -/
def bitsAt (a : Array Byte) (p n : Nat) : Nat := (leAt a (p / 8) ((n + p % 8 + 7) / 8) >>> (p % 8)) % 2 ^ n

/-- Why decoding ends. -/
inductive InfEnd where
  /-- DEFLATE_CORRUPT with a detail (R155). -/
  | corrupt (d : Nat)
  /-- The input ends inside the element. -/
  | more
  /-- The element's output would pass the limit; `e` is the bit position of its end. -/
  | full (e : Nat)
  /-- The final block has ended. -/
  | done

/-- Reading bits from a position. -/
abbrev Br := StateT Nat (Except InfEnd)

/-- Reads `n` bits. -/
def brBits (a : Array Byte) (n : Nat) : Br Nat := fun p =>
  if p + n ≤ 8 * a.size then .ok (bitsAt a p n, p + n) else .error .more

/-- A Huffman code: how many codes there are of each length, and the symbols in the order of their codes. -/
structure Huff where
  /-- Codes of each length 0 to 15. -/
  counts : Array Nat
  /-- Symbols by length and value. -/
  syms : Array Nat

/-- The code of a set of lengths. -/
def huffOf (lens : List Nat) : Huff :=
  { counts := ((List.range 16).map fun l => if l = 0 then 0 else lens.count l).toArray
    syms := ((List.range 15).flatMap fun l => (List.range lens.length).filter fun i => lens.getD i 0 == l + 1).toArray }

/-- Space used by a code, of 2^15. -/
def huffSpace (lens : List Nat) : Nat := lens.foldl (fun a l => if l = 0 then a else a + 2 ^ (15 - l)) 0

/-- Does a set of lengths form a code: complete, or no more than one code of one bit where `one` allows it? -/
def huffOk (one : Bool) (lens : List Nat) : Bool := huffSpace lens == 2 ^ 15 || (one && lens.all (· ≤ 1) && huffSpace lens ≤ 2 ^ 14)

/-- Reads a symbol, one bit of its code at a time. -/
def brSym (a : Array Byte) (h : Huff) : Nat → Nat → Nat → Nat → Nat → Br Nat
  | 0, _, _, _, _ => throw (.corrupt 3)
  | fuel + 1, len, code, first, index => do
    let code := code + (← brBits a 1)
    let n := h.counts.getD len 0
    if code < first + n then return h.syms.getD (index + code - first) 0
    else brSym a h fuel (len + 1) (2 * code) (2 * (first + n)) (index + n)

/-- Reads a symbol of a code. -/
def brCode (a : Array Byte) (h : Huff) : Br Nat := brSym a h 15 1 0 0 0

/-- Order of the lengths of the code-length code. -/
def clenOrder : List Nat := [16, 17, 18, 0, 8, 7, 9, 6, 10, 5, 11, 4, 12, 3, 13, 2, 14, 1, 15]

/-- Reads the lengths of a dynamic block until there are `n`. -/
def brLens (a : Array Byte) (h : Huff) (n : Nat) : Nat → List Nat → Br (List Nat)
  | 0, _ => throw (.corrupt 3)
  | fuel + 1, acc => do
    if acc.length = n then return acc
    else if n < acc.length then throw (.corrupt 3)
    else
      let s ← brCode a h
      if s < 16 then brLens a h n fuel (acc ++ [s])
      else if s = 16 then
        match acc.getLast? with
        | none => throw (.corrupt 3)
        | some l => do
          let k ← brBits a 2
          brLens a h n fuel (acc ++ List.replicate (3 + k) l)
      else if s = 17 then
        let k ← brBits a 3
        brLens a h n fuel (acc ++ zerosN (3 + k))
      else
        let k ← brBits a 7
        brLens a h n fuel (acc ++ zerosN (11 + k))
where
  /-- `k` zeros. -/
  zerosN (k : Nat) : List Nat := List.replicate k 0

/-- Where decoding stands inside a block. -/
inductive InfMode where
  /-- Before a block header. -/
  | head
  /-- In a stored block with bytes left. -/
  | stored (n : Nat)
  /-- In a block with codes. -/
  | codes (lit dist : Huff)

/-- A stream between two elements. -/
structure Inf where
  /-- Bit position in the input. -/
  pos : Nat
  /-- The output. -/
  out : Array Byte
  /-- The block is the final one. -/
  last : Bool
  /-- Where it stands. -/
  mode : InfMode

/-- The codes of a fixed block. -/
def fixedCodes : Huff × Huff :=
  (huffOf (List.replicate 144 8 ++ List.replicate 112 9 ++ List.replicate 24 7 ++ List.replicate 8 8),
    huffOf (List.replicate 32 5))

/-- Reads the codes of a dynamic block. -/
def brDynamic (a : Array Byte) : Br (Huff × Huff) := do
  let hlit := 257 + (← brBits a 5)
  let hdist := 1 + (← brBits a 5)
  let hclen := 4 + (← brBits a 4)
  let cl ← (List.range hclen).mapM fun _ => brBits a 3
  let lens := (List.range 19).map fun s =>
    match (clenOrder.take hclen).idxOf? s with
    | some i => cl.getD i 0
    | none => 0
  if !huffOk false lens then throw (.corrupt 3)
  let all ← brLens a (huffOf lens) (hlit + hdist) 400 []
  let l := all.take hlit
  let d := all.drop hlit
  if !(huffOk true l && huffOk true d) then throw (.corrupt 3)
  return (huffOf l, huffOf d)

/-- Reads a block header: the mode it sets, and whether the block is final. -/
def brHead (a : Array Byte) : Br (Bool × InfMode) := do
  let last ← brBits a 1
  let ty ← brBits a 2
  if ty = 0 then
    let p ← get
    let _ ← brBits a ((8 - p % 8) % 8)
    let n ← brBits a 16
    let c ← brBits a 16
    if n + c ≠ 0xFFFF then throw (.corrupt 2)
    return (last == 1, .stored n)
  else if ty = 1 then return (last == 1, .codes fixedCodes.1 fixedCodes.2)
  else if ty = 2 then
    let c ← brDynamic a
    return (last == 1, .codes c.1 c.2)
  else throw (.corrupt 1)

/-- Base and extra bits of a length code, counted from 257. -/
def lenBase (c : Nat) : Nat × Nat :=
  if c < 8 then (3 + c, 0) else if c = 28 then (258, 0) else (3 + (4 + c % 4) * 2 ^ (c / 4 - 1), c / 4 - 1)

/-- Base and extra bits of a distance code. -/
def distBase (d : Nat) : Nat × Nat := if d < 4 then (1 + d, 0) else (1 + (2 + d % 2) * 2 ^ (d / 2 - 1), d / 2 - 1)

/-- Copies `n` bytes from `d` bytes back. -/
def copyBack (d : Nat) : Nat → Array Byte → Array Byte
  | 0, o => o
  | n + 1, o => copyBack d n (o.push (o.getD (o.size - d) 0))

/-- Reads a literal, a match or the end of a block: the bytes put out, or none at the end of the block. -/
def brElem (a : Array Byte) (lit dist : Huff) (out : Array Byte) : Br (Option (Array Byte)) := do
  let s ← brCode a lit
  if s < 256 then return some (out.push (BitVec.ofNat 8 s))
  else if s = 256 then return none
  else if 285 < s then throw (.corrupt 3)
  else
    let n := (lenBase (s - 257)).1 + (← brBits a (lenBase (s - 257)).2)
    let c ← brCode a dist
    if 29 < c then throw (.corrupt 3)
    let d := (distBase c).1 + (← brBits a (distBase c).2)
    if out.size < d then throw (.corrupt 4)
    return some (copyBack d n out)

/-- The next element, with output up to `limit` bytes. -/
def infStep (a : Array Byte) (limit : Nat) (z : Inf) : Except InfEnd Inf :=
  let room := fun (o : Array Byte) (p : Nat) (m : InfMode) =>
    if limit < o.size then .error (.full p) else .ok { z with pos := p, out := o, mode := m }
  match z.mode with
  | .head =>
    if z.last then .error .done
    else match brHead a z.pos with
      | .error e => .error e
      | .ok ((l, m), p) => .ok { z with pos := p, last := l, mode := m }
  | .stored 0 => .ok { z with mode := .head }
  | .stored (n + 1) =>
    match brBits a 8 z.pos with
    | .error e => .error e
    | .ok (v, p) => room (z.out.push (BitVec.ofNat 8 v)) p (.stored n)
  | .codes l d =>
    match brElem a l d z.out z.pos with
    | .error e => .error e
    | .ok (none, p) => .ok { z with pos := p, mode := .head }
    | .ok (some o, p) => room o p z.mode

/-- Decodes until decoding ends: the state before the element that ended it. -/
def infRun (a : Array Byte) (limit : Nat) : Nat → Inf → Inf × InfEnd
  | 0, z => (z, .more)
  | fuel + 1, z =>
    match infStep a limit z with
    | .error e => (z, e)
    | .ok z => infRun a limit fuel z

/-- Decodes a stream from its beginning: every element but the end of a stored block takes a bit of input. -/
def inflate (a : Array Byte) (limit : Nat) : Inf × InfEnd :=
  infRun a limit (16 * a.size + 16) { pos := 0, out := #[], last := false, mode := .head }

end Sys2Proof.Machine
end

