-- ==== Sys2Proof/Machine/Zstd.lean ====
section
/-!
DEFINITION. Zstandard frames (R148 to R154): the frame header, decoding of blocks as RFC 8878 defines it, and the form of the
blocks that the compressor writes.
-/
namespace Sys2Proof.Machine

/-- How the decoding of a block or a frame fails (R154). -/
inductive ZErr where
  /-- CORRUPT with a detail. -/
  | corrupt (d : Nat)
  /-- TRUNCATED, 2. -/
  | truncated
  /-- OUTPUT_FULL, 2. -/
  | full
  deriving DecidableEq, Repr

/-- A malformed section. -/
def zBad {α : Type} : Except ZErr α := .error (.corrupt 3)

/-- A part of an array, as an array. -/
def sub (a : Array Byte) (o n : Nat) : Array Byte := ((List.range n).map fun i => a.getD (o + i) 0).toArray

/-! ### Bitstreams read backward -/

/-- The number of bits before the marker of a bitstream that is read backward. -/
def backLen (a : Array Byte) : Except ZErr Nat :=
  let b := (a.getD (a.size - 1) 0).toNat
  if a.size = 0 ∨ b = 0 then zBad else .ok (8 * (a.size - 1) + Nat.log2 b)

/-- The `n` bits before position `p`; bits before the start read as zero. -/
def peekBack (a : Array Byte) (p n : Nat) : Nat := if n ≤ p then bitsAt a (p - n) n else bitsAt a 0 p <<< (n - p)

/-- Reads `n` bits backward: the stream must have them. -/
def takeBack (a : Array Byte) (n : Nat) : StateT Nat (Except ZErr) Nat := fun p =>
  if n ≤ p then .ok (bitsAt a (p - n) n, p - n) else zBad

/-! ### FSE tables (RFC 8878, 4.1) -/

/-- An entry of a decoding table: symbol, bits to read, and base of the next state. -/
structure FseEnt where
  /-- Symbol. -/
  sym : Nat
  /-- Bits to read. -/
  nb : Nat
  /-- Base of the next state. -/
  base : Nat
  deriving Inhabited

/-- A decoding table. -/
structure Fse where
  /-- Accuracy log. -/
  log : Nat
  /-- Entries. -/
  ents : Array FseEnt

/-- The next free position of the spreading of symbols. -/
def fseNext (size high : Nat) : Nat → Nat → Nat
  | 0, p => p
  | fuel + 1, p =>
    let q := (p + size / 2 + size / 8 + 3) % size
    if high ≤ q then fseNext size high fuel q else q

/-- Spreads `n` occurrences of a symbol. -/
def fseSpread (size high s : Nat) : Nat → Array Nat × Nat → Array Nat × Nat
  | 0, t => t
  | n + 1, (t, p) => fseSpread size high s n (t.setIfInBounds p s, fseNext size high size p)

/-- The decoding table of a distribution, in which −1 is a probability below one. -/
def fseOf (log : Nat) (norm : List Int) : Fse :=
  let size := 2 ^ log
  let low := (List.range norm.length).filter fun s => norm.getD s 0 == -1
  let t := (List.range low.length).foldl (fun (t : Array Nat) i => t.setIfInBounds (size - 1 - i) (low.getD i 0))
    (Array.replicate size 0)
  let high := size - low.length
  let t := ((List.range norm.length).foldl (fun t s => fseSpread size high s (norm.getD s 0).toNat t) (t, 0)).1
  let r := t.toList.foldl (fun (r : List FseEnt × Array Nat) s =>
    let x := r.2.getD s 0
    let nb := log - Nat.log2 x
    ({ sym := s, nb := nb, base := x * 2 ^ nb - size } :: r.1, r.2.setIfInBounds s (x + 1)))
    ([], (norm.map fun v => if v = -1 then 1 else v.toNat).toArray)
  { log := log, ents := r.1.reverse.toArray }

/-- Reads the runs of zeros after a probability of zero. -/
def fseZeros (a : Array Byte) : Nat → Nat → Nat × Nat
  | 0, p => (0, p)
  | fuel + 1, p =>
    let r := bitsAt a p 2
    if r = 3 then let x := fseZeros a fuel (p + 2); (3 + x.1, x.2) else (r, p + 2)

/-- Reads probabilities until `left` is used up. -/
def fseProbs (a : Array Byte) (maxSym : Nat) : Nat → Nat → Nat → List Int → Except ZErr (List Int × Nat)
  | 0, _, _, _ => zBad
  | fuel + 1, left, p, acc =>
    if left = 0 then .ok (acc, p)
    else if maxSym < acc.length ∨ 8 * a.size < p then zBad
    else
      let bits := Nat.log2 (left + 1) + 1
      let v := bitsAt a p bits
      let lower := 2 ^ (bits - 1) - 1
      let thr := 2 ^ bits - 1 - (left + 1)
      let (v, p) :=
        if v % 2 ^ (bits - 1) < thr then (v % 2 ^ (bits - 1), p + bits - 1)
        else if lower < v then (v - thr, p + bits)
        else (v, p + bits)
      let prob : Int := (v : Int) - 1
      if left < prob.natAbs then zBad
      else if v = 1 then
        let z := fseZeros a (maxSym + 2) p
        fseProbs a maxSym fuel left z.2 (acc ++ [0] ++ List.replicate z.1 0)
      else fseProbs a maxSym fuel (left - prob.natAbs) p (acc ++ [prob])

/-- Reads a table description from byte `o`: the table and the byte after it. -/
def fseRead (a : Array Byte) (o maxLog maxSym : Nat) : Except ZErr (Fse × Nat) :=
  let log := bitsAt a (8 * o) 4 + 5
  if maxLog < log then zBad
  else match fseProbs a maxSym (maxSym + 3) (2 ^ log) (8 * o + 4) [] with
    | .error e => .error e
    | .ok (norm, p) =>
      if maxSym + 1 < norm.length ∨ 8 * a.size < p then zBad else .ok (fseOf log norm, (p + 7) / 8)

/-- The entry of a state. -/
def Fse.ent (t : Fse) (st : Nat) : FseEnt := t.ents.getD st default

/-! ### Huffman-coded literals (RFC 8878, 4.2) -/

/-- A decoding table of a Huffman code: bits, and symbol and length of every value of so many bits. -/
structure HufTab where
  /-- Longest code. -/
  bits : Nat
  /-- Symbol and length. -/
  ents : Array (Nat × Nat)

/-- The table of a list of weights, the last of which is implied. -/
def hufOf (w : List Nat) : Except ZErr HufTab :=
  let sum := w.foldl (fun a x => if x = 0 then a else a + 2 ^ (x - 1)) 0
  let bits := Nat.log2 sum + 1
  let rest := 2 ^ bits - sum
  if sum = 0 ∨ 11 < bits ∨ 2 ^ Nat.log2 rest ≠ rest ∨ 255 < w.length then zBad
  else
    let w := w ++ [Nat.log2 rest + 1]
    let ents := (List.range bits).flatMap fun i =>
      ((List.range w.length).filter fun s => w.getD s 0 == i + 1).flatMap fun s => List.replicate (2 ^ i) (s, bits - i)
    .ok { bits := bits, ents := ents.toArray }

/-- Weights coded by two alternating FSE states: decoding ends when the stream is used up. -/
def fseWeights (a : Array Byte) (t : Fse) : Nat → Nat → Nat → Nat → List Nat → Except ZErr (List Nat)
  | 0, _, _, _, _ => zBad
  | fuel + 1, p, s1, s2, acc =>
    let e := t.ent s1
    let acc := acc ++ [e.sym]
    if p < e.nb then .ok (acc ++ [(t.ent s2).sym])
    else fseWeights a t fuel (p - e.nb) s2 (e.base + bitsAt a (p - e.nb) e.nb) acc

/-- Reads a Huffman tree description from byte `o`: the table and the byte after it. -/
def hufRead (a : Array Byte) (o : Nat) : Except ZErr (HufTab × Nat) := do
  let hb := (a.getD o 0).toNat
  if a.size ≤ o then zBad
  else if 128 ≤ hb then
    let n := hb - 127
    let stop := o + 1 + (n + 1) / 2
    if a.size < stop then zBad
    else
      let w := (List.range n).map fun i =>
        let b := (a.getD (o + 1 + i / 2) 0).toNat
        if i % 2 = 0 then b / 16 else b % 16
      return (← hufOf w, stop)
  else if a.size < o + 1 + hb then zBad
  else
    let d := sub a (o + 1) hb
    let (t, q) ← fseRead d 0 6 255
    let b := sub d q (hb - q)
    let p ← backLen b
    if p < 2 * t.log then zBad
    else
      let w ← fseWeights b t 300 (p - 2 * t.log) (bitsAt b (p - t.log) t.log) (bitsAt b (p - 2 * t.log) t.log) []
      return (← hufOf w, o + 1 + hb)

/-- Decodes `n` symbols of one stream, which they must use up. -/
def hufSyms (a : Array Byte) (t : HufTab) : Nat → Nat → List Byte → Except ZErr (List Byte)
  | 0, p, acc => if p = 0 then .ok acc.reverse else zBad
  | n + 1, p, acc =>
    let e := t.ents.getD (peekBack a p t.bits) (0, 0)
    if p < e.2 ∨ e.2 = 0 then zBad else hufSyms a t n (p - e.2) (BitVec.ofNat 8 e.1 :: acc)

/-- Decodes one stream of `n` symbols. -/
def hufStream (a : Array Byte) (t : HufTab) (n : Nat) : Except ZErr (List Byte) := do
  hufSyms a t n (← backLen a) []

/-- Decodes four streams after their jump table. -/
def hufFour (a : Array Byte) (t : HufTab) (n : Nat) : Except ZErr (List Byte) := do
  let s1 := leAt a 0 2
  let s2 := leAt a 2 2
  let s3 := leAt a 4 2
  let k := (n + 3) / 4
  if a.size < 6 + s1 + s2 + s3 ∨ n < 3 * k then zBad
  else
    let w ← hufStream (sub a 6 s1) t k
    let x ← hufStream (sub a (6 + s1) s2) t k
    let y ← hufStream (sub a (6 + s1 + s2) s3) t k
    let z ← hufStream (sub a (6 + s1 + s2 + s3) (a.size - 6 - s1 - s2 - s3)) t (n - 3 * k)
    return w ++ x ++ y ++ z

/-! ### Blocks (RFC 8878, 3.1.1.3) -/

/-- What a frame carries from block to block. -/
structure ZCtx where
  /-- Output of the frame. -/
  out : Array Byte
  /-- Huffman table for treeless literals. -/
  huf : Option HufTab
  /-- Tables for repeat mode: literals lengths, offsets, match lengths. -/
  tabs : List (Option Fse)
  /-- Repeated offsets. -/
  reps : Nat × Nat × Nat

/-- A frame before its first block. -/
def ZCtx.start : ZCtx := { out := #[], huf := none, tabs := [none, none, none], reps := (1, 4, 8) }

/-- A literals section from byte 0: literals, the Huffman table kept, and the byte after it. -/
def zLiterals (a : Array Byte) (huf : Option HufTab) : Except ZErr (List Byte × Option HufTab × Nat) := do
  let ty := bitsAt a 0 2
  let sf := bitsAt a 2 2
  if ty < 2 then
    let (n, o) := if sf % 2 = 0 then (bitsAt a 3 5, 1) else if sf = 1 then (bitsAt a 4 12, 2) else (bitsAt a 4 20, 3)
    let stop := o + if ty = 0 then n else 1
    if a.size < stop ∨ 131072 < n then zBad
    else return (if ty = 0 then (sub a o n).toList else List.replicate n (a.getD o 0), huf, stop)
  else
    let w := if sf < 2 then 10 else if sf = 2 then 14 else 18
    let o := if sf < 2 then 3 else if sf = 2 then 4 else 5
    let n := bitsAt a 4 w
    let c := bitsAt a (4 + w) w
    if a.size < o + c ∨ 131072 < n then zBad
    else
      let (t, q) ← if ty = 2 then hufRead (sub a o c) 0
        else match huf with
          | some t => pure (t, 0)
          | none => zBad
      let d := sub a (o + q) (c - q)
      let l ← if sf = 0 then hufStream d t n else hufFour d t n
      return (l, some t, o + c)

/-- The predefined distributions: literals lengths, offsets, match lengths. -/
def zPredef (k : Nat) : Fse :=
  if k = 0 then fseOf 6 ([4, 3] ++ List.replicate 11 2 ++ [1, 1, 1] ++ List.replicate 9 2 ++ [3, 2] ++ List.replicate 5 1
    ++ List.replicate 4 (-1))
  else if k = 1 then fseOf 5 (List.replicate 6 1 ++ [2, 2, 2] ++ List.replicate 15 1 ++ List.replicate 5 (-1))
  else fseOf 6 ([1, 4, 3] ++ List.replicate 6 2 ++ List.replicate 37 1 ++ List.replicate 7 (-1))

/-- Longest accuracy log and largest symbol of each table. -/
def zLimits (k : Nat) : Nat × Nat := if k = 0 then (9, 35) else if k = 1 then (8, 31) else (9, 52)

/-- A table of a sequences section in its mode, from byte `o`. -/
def zTable (a : Array Byte) (k mode o : Nat) (old : Option Fse) : Except ZErr (Fse × Nat) :=
  match mode with
  | 0 => .ok (zPredef k, o)
  | 1 =>
    let s := (a.getD o 0).toNat
    if a.size ≤ o ∨ (zLimits k).2 < s then zBad else .ok ({ log := 0, ents := #[{ sym := s, nb := 0, base := 0 }] }, o + 1)
  | 2 => fseRead a o (zLimits k).1 (zLimits k).2
  | _ =>
    match old with
    | some t => .ok (t, o)
    | none => zBad

/-- Base and extra bits of a literals-length code. -/
def llCode (c : Nat) : Nat × Nat :=
  if c < 16 then (c, 0)
  else if c < 20 then (16 + 2 * (c - 16), 1)
  else if c < 22 then (24 + 4 * (c - 20), 2)
  else if c < 24 then (32 + 8 * (c - 22), 3)
  else if c = 24 then (48, 4)
  else (2 ^ (c - 19), c - 19)

/-- Base and extra bits of a match-length code. -/
def mlCode (c : Nat) : Nat × Nat :=
  if c < 32 then (c + 3, 0)
  else if c < 36 then (35 + 2 * (c - 32), 1)
  else if c < 38 then (43 + 4 * (c - 36), 2)
  else if c < 40 then (51 + 8 * (c - 38), 3)
  else if c < 42 then (67 + 16 * (c - 40), 4)
  else if c = 42 then (99, 5)
  else (2 ^ (c - 36) + 3, c - 36)

/-- The offset that an offset value names, and the repeated offsets after it; offset 0 is none. -/
def zOffset (v ll : Nat) (r : Nat × Nat × Nat) : Nat × Nat × Nat × Nat :=
  if 3 < v then (v - 3, v - 3, r.1, r.2.1)
  else
    let i := v - 1 + if ll = 0 then 1 else 0
    if i = 0 then (r.1, r)
    else if i = 1 then (r.2.1, r.2.1, r.1, r.2.2)
    else
      let d := if i = 2 then r.2.2 else r.1 - 1
      (d, d, r.1, r.2.1)

/-- Executes sequences: output, literals left and repeated offsets; on a failure also the output made so far. `win` is the
window size and `cap` the room for output. -/
def zSeqs (a : Array Byte) (tl tt tm : Fse) (win cap : Nat) :
    Nat → Nat → Nat × Nat × Nat → List Byte → Nat × Nat × Nat → Array Byte →
      Array Byte × Except ZErr (List Byte × (Nat × Nat × Nat))
  | 0, p, _, lits, reps, out => (out, if p = 0 then .ok (lits, reps) else zBad)
  | n + 1, p, (sl, so, sm), lits, reps, out =>
    let el := tl.ent sl
    let eo := tt.ent so
    let em := tm.ent sm
    let read : StateT Nat (Except ZErr) (Nat × Nat × Nat × (Nat × Nat × Nat)) := do
      let v := 2 ^ eo.sym + (← takeBack a eo.sym)
      let m := (mlCode em.sym).1 + (← takeBack a (mlCode em.sym).2)
      let l := (llCode el.sym).1 + (← takeBack a (llCode el.sym).2)
      if n = 0 then return (v, m, l, (0, 0, 0))
      else
        let sl := el.base + (← takeBack a el.nb)
        let sm := em.base + (← takeBack a em.nb)
        let so := eo.base + (← takeBack a eo.nb)
        return (v, m, l, (sl, so, sm))
    match read p with
    | .error e => (out, .error e)
    | .ok ((v, m, l, st), p) =>
      let (d, reps) := zOffset v l reps
      if lits.length < l ∨ d = 0 then (out, zBad)
      else
        let out' := out ++ (lits.take l).toArray
        if cap < out'.size then (out' , .error .full)
        else if win < d ∨ out'.size < d then (out', .error (.corrupt 4))
        else
          let out := copyBack d m out'
          if cap < out.size then (out, .error .full)
          else zSeqs a tl tt tm win cap n p st (lits.drop l) reps out

/-- The number of sequences from byte `o`, and the byte after it. -/
def zCount (a : Array Byte) (o : Nat) : Nat × Nat :=
  let b := (a.getD o 0).toNat
  if b < 128 then (b, o + 1)
  else if b < 255 then ((b - 128) * 256 + (a.getD (o + 1) 0).toNat, o + 2)
  else (leAt a (o + 1) 2 + 0x7F00, o + 3)

/-- Decodes the content of a compressed block. The output comes with the outcome, so that it is known on a failure. -/
def zBlock (a : Array Byte) (win cap : Nat) (z : ZCtx) : Array Byte × Except ZErr ZCtx :=
  match zLiterals a z.huf with
  | .error e => (z.out, .error e)
  | .ok (lits, huf, o) =>
    let (n, q) := zCount a o
    let finish := fun (out : Array Byte) (lits : List Byte) (tabs : List (Option Fse)) (reps : Nat × Nat × Nat) =>
      let out := out ++ lits.toArray
      if cap < out.size then (out, .error .full) else (out, .ok { out := out, huf := huf, tabs := tabs, reps := reps })
    if a.size ≤ o ∨ a.size < q then (z.out, zBad)
    else if n = 0 ∧ q = o + 1 then if q = a.size then finish z.out lits z.tabs z.reps else (z.out, zBad)
    else
      let modes := (a.getD q 0).toNat
      let tabs : Except ZErr (Fse × Fse × Fse × Array Byte) := do
        if a.size ≤ q ∨ modes % 4 ≠ 0 then zBad
        else
          let (tl, q) ← zTable a 0 (modes / 64) (q + 1) (z.tabs.getD 0 none)
          let (tt, q) ← zTable a 1 (modes / 16 % 4) q (z.tabs.getD 1 none)
          let (tm, q) ← zTable a 2 (modes / 4 % 4) q (z.tabs.getD 2 none)
          return (tl, tt, tm, sub a q (a.size - q))
      match tabs with
      | .error e => (z.out, .error e)
      | .ok (tl, tt, tm, b) =>
        let start : Except ZErr ((Nat × Nat × Nat) × Nat) := do
          let p ← backLen b
          let run : StateT Nat (Except ZErr) (Nat × Nat × Nat) := do
            let sl ← takeBack b tl.log
            let so ← takeBack b tt.log
            let sm ← takeBack b tm.log
            return (sl, so, sm)
          run p
        match start with
        | .error e => (z.out, .error e)
        | .ok (st, p) =>
          match zSeqs b tl tt tm win cap n p st lits z.reps z.out with
          | (out, .error e) => (out, .error e)
          | (out, .ok (lits, reps)) => finish out lits [some tl, some tt, some tm] reps

/-! ### Frames -/

/-- A frame header (RFC 8878, 3.1.1.1). -/
structure ZHead where
  /-- Byte after the header. -/
  stop : Nat
  /-- Window size. -/
  win : Nat
  /-- Dictionary id. -/
  dict : Nat
  /-- Frame_Content_Size. -/
  fcs : Option Nat
  /-- Content_Checksum_flag. -/
  chk : Bool

/-- Reads the frame header whose descriptor is byte `o`; none when the source ends inside it. -/
def zHead (a : Array Byte) (o : Nat) : Option ZHead :=
  let d := (a.getD o 0).toNat
  let single := d / 32 % 2 == 1
  let w := if single then 0 else 1
  let dl := if d % 4 = 3 then 4 else d % 4
  let f := d / 64
  let fl := if f = 0 then (if single then 1 else 0) else 2 ^ f
  let q := o + 1 + w
  let stop := q + dl + fl
  if a.size < stop then none
  else
    let fcs := leAt a (q + dl) fl + if f = 1 then 256 else 0
    let wd := (a.getD (o + 1) 0).toNat
    let wb := 2 ^ (10 + wd / 8)
    some { stop := stop, win := if single then fcs else wb + wb / 8 * (wd % 8), dict := leAt a q dl,
           fcs := if fl = 0 then none else some fcs, chk := d / 4 % 2 == 1 }

/-- A frame's blocks from byte `o` on, output limited to `cap` bytes: at the end, the output and the byte after the last block;
on a failure, also the byte at which the failing block began and the output before it. -/
def zBlocks (a : Array Byte) (win cap : Nat) : Nat → Nat → ZCtx → Array Byte × (Except (ZErr × Nat × Nat) Nat)
  | 0, o, z => (z.out, .error (.truncated, o, z.out.size))
  | fuel + 1, o, z =>
    let fail := fun (out : Array Byte) (e : ZErr) => (out, Except.error (e, o, z.out.size))
    if a.size < o + 3 then fail z.out .truncated
    else
      let h := leAt a o 3
      let ty := h / 2 % 4
      let n := h / 8
      let most := min win 131072
      let next := fun (stop : Nat) (z : ZCtx) =>
        if h % 2 = 1 then (z.out, Except.ok stop) else zBlocks a win cap fuel stop z
      if ty = 3 then fail z.out (.corrupt 1)
      else if most < n then fail z.out (.corrupt 2)
      else if ty = 1 then
        if a.size < o + 4 then fail z.out .truncated
        else
          let out := z.out ++ (List.replicate n (a.getD (o + 3) 0)).toArray
          if cap < out.size then fail out .full else next (o + 4) { z with out := out }
      else if a.size < o + 3 + n then
        let out := if ty = 0 then z.out ++ sub a (o + 3) (a.size - o - 3) else z.out
        fail out (if cap < out.size then .full else .truncated)
      else if ty = 0 then
        let out := z.out ++ sub a (o + 3) n
        if cap < out.size then fail out .full else next (o + 3 + n) { z with out := out }
      else
        match zBlock (sub a (o + 3) n) win cap z with
        | (out, .error e) => fail out e
        | (out, .ok y) => if most < out.size - z.out.size then fail out (.corrupt 2) else next (o + 3 + n) y

/-- The bounds of the input consumed when the output reported is the first `k` bytes (R154), for a frame whose blocks begin at byte
`start`: an output that ends inside a raw block ends at a byte of the source; no output of another block comes before the whole block has
been read. -/
def zUsed (a : Array Byte) (win start k : Nat) : Nat × Nat :=
  match (zBlocks a win k (a.size + 1) start ZCtx.start).2 with
  | .ok q => (q, q)
  | .error (_, o, n) =>
    let h := leAt a o 3
    let stop := min a.size (if h / 2 % 4 = 1 then o + 4 else o + 3 + h / 8)
    if k ≤ n then (min o a.size, max o stop)
    else if h / 2 % 4 = 0 then (o + 3 + (k - n), o + 3 + (k - n))
    else (stop, stop)

/-! ### The frames that ZSTD.COMP writes (R148 to R151) -/

/-- May a compressed block's content stand in a frame of the compressor (R148): Huffman or raw literals, predefined or FSE
tables? -/
def zPlain (a : Array Byte) : Bool :=
  let ty := bitsAt a 0 2
  (ty == 0 || ty == 2) &&
    match zLiterals a none with
    | .error _ => false
    | .ok (_, _, o) =>
      let (n, q) := zCount a o
      let m := (a.getD q 0).toNat
      n == 0 || ((m / 64) % 2 == 0 && (m / 16) % 2 == 0 && (m / 4) % 2 == 0)

/-- A block header and content. -/
def zWrite (last : Bool) (ty n : Nat) (content : List Byte) : List Byte :=
  bytesOfNat 3 ((if last then 1 else 0) + 2 * ty + 8 * n) ++ content

/-- How a chunk is emitted (R149). -/
inductive ZChunk where
  /-- As an RLE block. -/
  | rle (b : Byte) (n : Nat)
  /-- As a compressed block. -/
  | comp (content : List Byte)
  /-- In a raw block. -/
  | raw (l : List Byte)

/-- Chooses how chunk `c` is emitted after the frame state `z`, given the compressed block that the entropy coder offers for
it: the offer counts only when it decodes to the chunk and saves 3 bytes. -/
def zChoose (win : Nat) (z : ZCtx) (c offer : List Byte) : ZChunk × ZCtx :=
  let b := c.headD 0
  if 8 ≤ c.length ∧ c.all (· == b) then (.rle b c.length, { z with out := z.out ++ c.toArray })
  else if offer.length + 6 ≤ c.length ∧ zPlain offer.toArray then
    match zBlock offer.toArray win (z.out.size + c.length) z with
    | (_, .ok y) => if y.out.toList.drop z.out.size = c then (.comp offer, y) else (.raw c, { z with out := z.out ++ c.toArray })
    | (_, .error _) => (.raw c, { z with out := z.out ++ c.toArray })
  else (.raw c, { z with out := z.out ++ c.toArray })

/-- The blocks of the emitted chunks: `raw` is the open raw block. -/
def zEmit : List ZChunk → List Byte → List Byte
  | [], raw => if raw.isEmpty then [] else zWrite true 0 raw.length raw
  | .raw l :: t, raw =>
    if 131072 < raw.length + l.length then zWrite false 0 raw.length raw ++ zEmit t l else zEmit t (raw ++ l)
  | .rle b n :: t, raw =>
    (if raw.isEmpty then [] else zWrite false 0 raw.length raw) ++ zWrite t.isEmpty 1 n [b] ++ zEmit t []
  | .comp c :: t, raw =>
    (if raw.isEmpty then [] else zWrite false 0 raw.length raw) ++ zWrite t.isEmpty 2 c.length c ++ zEmit t []

/-- The chunks of a stretch as they are emitted; `offer i` is the block offered for chunk `i`. -/
def zChunks (win : Nat) (offer : Nat → List Byte) : List (List Byte) → Nat → ZCtx → List ZChunk
  | [], _, _ => []
  | c :: t, i, z => let r := zChoose win z c (offer i); r.1 :: zChunks win offer t (i + 1) r.2

/-- The frame of a stretch (R148). -/
def zFrame (offer : Nat → List Byte) (chk : Bool) (l : List Byte) : List Byte :=
  let n := l.length
  let (f, fcs) := if n < 256 then (0, bytesOfNat 1 n) else if n < 65792 then (1, bytesOfNat 2 (n - 256)) else (2, bytesOfNat 4 n)
  let cs := (chunksOf 4096 l).filter fun c => !c.isEmpty
  bytesOfNat 4 0xFD2FB528 ++ [BitVec.ofNat 8 (64 * f + 32 + if chk then 4 else 0)] ++ fcs
    ++ zEmit (zChunks n offer cs 0 ZCtx.start) []
    ++ (if chk then bytesOfNat 4 ((xxh64 l).toNat % 2 ^ 32) else [])

end Sys2Proof.Machine
end

