-- ==== Sys2Proof/Machine/Cmpr.lean ====
section
/-!
DEFINITION. The compression unit (R143 to R158): its descriptor, ZSTD.COMP, ZSTD.DECOMP, ZSTD.PROBE and DEFLATE.DECOMP.
-/
namespace Sys2Proof.Machine

/-- Flags bit `n`. -/
def Job.flag (j : Job) (n : Nat) : Bool := (j.fld 2 1).testBit n

/-- Input bytes of a job, as clamped. -/
def cmprLen (j : Job) : Nat := min (if jobOp .cmpr j = 0x10 then 1048576 else 2097152) (j.fld 24 4)

/-- Capacity of a job, as clamped. -/
def cmprCap (j : Job) : Nat := min 2097152 (j.fld 40 4)

/-- Writes one of the counts of the record (R157): bytes consumed at 4, written at 8, frames skipped at 12. -/
def jcountAt (o n : Nat) : JobM Unit := jrecord o (bytesOfNat 4 n)

/-- The pieces of a job's source and of its output. -/
def srcPieces (j : Job) : List (Nat × Nat) := piecesOf (j.flag 6) (j.fld 8 8) (cmprLen j + 1) 0 (cmprLen j)

/-- The pieces of `n` bytes of output. -/
def dstPieces (j : Job) (n : Nat) : List (Nat × Nat) := piecesOf (j.flag 5) (j.fld 16 8) (n + 1) 0 n

/-- Writes output from the start of the destination, counted in the record; `bound` puts boundaries in it. -/
def putOut (j : Job) (bound : Bool) (l : List Byte) : JobM Unit :=
  jwriteBuf .cmpr j bound (jcountAt 8) l.length (dstPieces j l.length) 0 l

/-- Writes output; where a write ends the job, the input consumed is what `used` gives for the bytes written (R154, R167). -/
def putCounted (j : Job) (bound : Bool) (l : List Byte) (used : Nat → JobM Unit) : JobM Unit := do
  match ← jtry (putOut j bound l) with
  | .ok _ => return ()
  | .error (st, d) =>
    used (fieldAt (← get).mid 4 4)
    jfail st d

/-- Checks 1 to 5 of R166: false when the job has nothing to do. -/
def cmprHead (j : Job) : JobM Bool := do
  let op := jobOp .cmpr j
  let clamps : JobM Unit := do
    let _ ← jclamp .cmpr j 3 1 0 3
    if op ≠ 0 then
      let _ ← jclamp .cmpr j 24 4 0 (if op = 0x10 then 1048576 else 2097152)
    let _ ← jclamp .cmpr j 40 4 0 2097152
    if op = 0x10 then
      let _ ← jclamp .cmpr j 48 1 1 3
    if op = 0x11 ∨ op = 0x12 then jrecord 16 (List.replicate 8 0xFF)
  jhead .cmpr j clamps fun _ a n => inPon (berthSpan j.berth) a n
  if op = 0 then return false
  jref .cmpr j 4 4 (ctxOk .cmpr j) 0x10 1
  let i := berthSpan j.berth
  jref .cmpr j 8 8 (strideOk (j.flag 6) (j.fld 8 8) && inSec i (j.fld 8 8) (strideSize (j.flag 6) (cmprLen j))) 0x15 1
  jref .cmpr j 16 8 (strideOk (j.flag 5) (j.fld 16 8) && inSec i (j.fld 16 8) (strideSize (j.flag 5) (cmprCap j))) 0x15 2
  jloose .cmpr j [(j.fld 16 8, strideSize (j.flag 5) (cmprCap j))] [(j.fld 8 8, strideSize (j.flag 6) (cmprLen j))]
    [ctxRange .cmpr j]
  return cmprLen j != 0

/-- A job that does not leave a stream suspended ends the suspension in its context area (R156). -/
def dropStream (j : Job) : JobM Unit :=
  if ctxOk .cmpr j ∧ jobOp .cmpr j ≠ 0 then
    jmod fun s => s.modSpan (berthSpan j.berth) fun x => { x with deflates := Table.del x.deflates (ctxAddr j) }
  else pure ()

/-- Runs a job that ends the suspension of any stream in its context area, however it ends. -/
def endsStream (j : Job) (m : JobM Unit) : JobM Unit := do
  let r ← jtry m
  dropStream j
  match r with
  | .ok _ => return ()
  | .error (st, d) => jfail st d

/-- ZSTD.COMP (R148 to R151). Where the job stops before its end, how much of its input it has consumed for what it has written is not said,
and free (log entry 3). -/
def zstdCompJob (j : Job) : JobM Unit := endsStream j do
  let go ← cmprHead j
  if !go then
    jrecord 16 (bytesOfNat 8 (xxh64 []).toNat)
    return ()
  jwriteArea .cmpr j 0 deflCtxSize
  let n := cmprLen j
  match ← jreadPart .cmpr j true (jcountAt 4) n (srcPieces j) 0 [] with
  | (l, some (st, d)) =>
    let k ← jbetween 0 (min l.length (cmprCap j))
    jrecord 16 (bytesOfNat 8 (xxh64 l).toNat)
    putOut j false (freeBytes (← jdraw) k)
    jfail st d
  | (src, none) =>
    jrecord 16 (bytesOfNat 8 (xxh64 src).toNat)
    let chk := j.flag 4
    let frame := zFrame (Config.zstdBlock src (clampTo 1 3 (j.fld 48 1)) chk) chk src
    jcount .cmpr j 2 2 (ceilDiv src.length 64)
    let some' := fun (_ : Nat) => do jcountAt 4 (← jbetween 0 src.length)
    if cmprCap j < frame.length then
      putCounted j false (freeBytes (← jdraw) (cmprCap j)) some'
      some' 0
      jcountAt 8 (← jbetween 0 (cmprCap j))
      jfail 0x20 0
    putCounted j false frame some'

/-- Leading skippable frames (R152): how many lie whole in the source, the byte after them, and whether the source ends inside the one
that follows. -/
def zSkip (a : Array Byte) : Nat → Nat → Nat → Nat × Nat × Bool
  | 0, n, o => (n, o, false)
  | fuel + 1, n, o =>
    if a.size < o + 4 ∨ leAt a o 4 / 16 ≠ 0x184D2A5 then (n, o, false)
    else if a.size < o + 8 ∨ a.size < o + 8 + leAt a (o + 4) 4 then (n, o, true)
    else zSkip a fuel (n + 1) (o + 8 + leAt a (o + 4) 4)

/-- Ends a job with a status, having consumed an amount of input between two bounds that the spec leaves open (log entry 3). -/
def zFail {α : Type} (lo hi st d : Nat) : JobM α := do
  jcountAt 4 (← jbetween lo hi)
  jfail st d

/-- The checks of R153: the byte at which the frame starts, and its header. `cut` is how the job ends where the bytes it could read
run out. -/
def zJudge (j : Job) (a : Array Byte) (cut : Nat → Nat × Nat) : JobM (Nat × ZHead) := do
  match zSkip a a.size 0 0 with
  | (n, o, true) =>
    jcountAt 12 n
    zFail o a.size (cut 1).1 (cut 1).2
  | (n, o, false) =>
    jcountAt 12 n
    let bad : Nat → Nat → JobM Unit := fun st d => zFail o (min a.size (o + 18)) st d
    if a.size < o + 4 then bad (cut 2).1 (cut 2).2
    if leAt a o 4 ≠ 0xFD2FB528 then bad 0x21 0
    if a.size < o + 5 then bad (cut 2).1 (cut 2).2
    if ((a.getD (o + 4) 0).toNat).testBit 3 then bad 0x22 0
    match zHead a (o + 4) with
    | none => zFail o a.size (cut 2).1 (cut 2).2
    | some h =>
      jrecord 16 (match h.fcs with
        | some n => bytesOfNat 8 n
        | none => List.replicate 8 0xFF)
      if h.dict ≠ 0 then bad 0x24 0
      if 8388608 < h.win then bad 0x23 0
      if j.flag 4 ∧ ¬ h.chk then bad 0x26 2
      let want := j.fld 44 4
      match h.fcs with
      | none => pure ()
      | some n =>
        if want ≠ 0xFFFFFFFF ∧ n ≠ want then bad 0x27 2
        if cmprCap j < n then bad 0x20 1
      return (o, h)

/-- Status and detail of a failure in a frame's blocks (R154). -/
def zStatus : ZErr → Nat × Nat
  | .corrupt d => (0x25, d)
  | .truncated => (0x29, 2)
  | .full => (0x20, 2)

/-- ZSTD.DECOMP and ZSTD.PROBE (R152 to R154). What a failing read leaves unread ends the job once what precedes it has been decoded
(R167). -/
def zstdDecompJob (j : Job) : JobM Unit := endsStream j do
  let go ← cmprHead j
  if !go then return ()
  jwriteArea .cmpr j 0 deflCtxSize
  let (l, stopped) ← jreadPart .cmpr j false (fun _ => pure ()) (cmprLen j) (srcPieces j) 0 []
  let a := l.toArray
  let cut := fun (d : Nat) => stopped.getD (0x29, d)
  let (o, h) ← zJudge j a cut
  if jobOp .cmpr j = 0x12 then
    jcountAt 4 (← jbetween o h.stop)
    return ()
  let used := fun (k : Nat) => do
    let (lo, hi) := zUsed a h.win h.stop k
    jcountAt 4 (← jbetween lo hi)
  let r := zBlocks a h.win (cmprCap j) (a.size + 1) h.stop ZCtx.start
  match r.2 with
  | .error (e, _, n) =>
    let k ← jbetween n (min r.1.size (cmprCap j))
    used k
    putCounted j stopped.isNone (r.1.toList.take k) used
    jcount .cmpr j 2 3 (ceilDiv k 64)
    match e with
    | .truncated => jfail (cut 2).1 (cut 2).2
    | _ => jfail (zStatus e).1 (zStatus e).2
  | .ok q =>
    let stop := if h.chk then q + 4 else q
    jcountAt 4 (← jbetween q (min a.size stop))
    putCounted j stopped.isNone r.1.toList used
    jcount .cmpr j 2 3 (ceilDiv r.1.size 64)
    jcheck (decide (stop ≤ a.size)) (cut 2).1 (cut 2).2
    jcountAt 4 stop
    jcheck (match h.fcs with
      | some n => n == r.1.size
      | none => true) 0x27 1
    jcheck (j.fld 44 4 == 0xFFFFFFFF || j.fld 44 4 == r.1.size) 0x27 2
    jcheck (!h.chk || leAt a q 4 == (xxh64 r.1.toList).toNat % 2 ^ 32) 0x26 1
    jcheck (stop == cmprLen j) 0x28 1

/-- The pieces without their first `n` bytes. -/
def dropPieces : Nat → List (Nat × Nat) → List (Nat × Nat)
  | _, [] => []
  | n, (a, k) :: t => if k ≤ n then dropPieces (n - k) t else (a + n, k - n) :: t

/-- Where the last 32,768 bytes of a stream's output lie (R156): the pieces of its history. -/
def histPieces (h : List (Nat × Bool × Nat)) : List (Nat × Nat) :=
  let n := (h.map (·.2.2)).foldl (· + ·) 0
  dropPieces (n - 32768) (h.flatMap fun e => piecesOf e.2.1 e.1 (e.2.2 + 1) 0 e.2.2)

/-- Reads a stream's history (R156, R167). -/
def jreadHist (j : Job) (d : DeflStream) : JobM (List Byte) := do
  return (← (histPieces d.hist).mapM fun p => jread .cmpr j p.1 p.2).flatten

/-- The pieces of earlier output that a stream still needs, with a newer one after them. -/
def histTrim (h : List (Nat × Bool × Nat)) : List (Nat × Bool × Nat) :=
  ((h.reverse.foldl (fun (r : List (Nat × Bool × Nat) × Nat) e =>
    if 32768 ≤ r.2 then r else (e :: r.1, r.2 + e.2.2)) ([], 0))).1

/-- The work of a DEFLATE.DECOMP job (R155, R156): the stream is decoded from its beginning, of which earlier jobs consumed a part and
delivered the first bytes. Answers the stream that it leaves suspended, if it does, with its status and detail. -/
def deflateWork (j : Job) : JobM (Option (DeflStream × Nat × Nat)) := do
  let go ← cmprHead j
  if !go then return none
  let old := Table.find ((← jget).span (berthSpan j.berth)).deflates (ctxAddr j)
  let d : DeflStream ← if j.flag 3 then do
      let _ ← jreadHead .cmpr j (ctxAddr j) deflCtxSize
      match old with
      | some d => if d.damaged then jfail 0x10 2 else pure d
      | none => jfail 0x10 2
    else pure { input := [], outDone := 0, hist := [], damaged := false }
  let past ← jreadHist j d
  jwriteArea .cmpr j 0 deflCtxSize
  let (src, stopped) ← jreadPart .cmpr j false (fun _ => pure ()) (cmprLen j) (srcPieces j) 0 []
  let all := d.input ++ src
  let a := all.toArray
  let limit := d.outDone + cmprCap j
  let (z, e) := inflate a limit
  let lo := max d.input.length (z.pos / 8)
  -- the output as far as it may have gone, and the bounds of the input consumed
  let full := match e with
    | .full _ => (match infStep a (limit + 258) z with
      | .ok y => y.out.toList.take limit
      | .error _ => z.out.toList)
    | _ => z.out.toList
  let got ← match e with
    | .full _ => jbetween (max d.outDone z.out.size) full.length
    | .corrupt _ => jbetween d.outDone z.out.size
    | _ => pure z.out.size
  let used ← match e with
    | .done => pure ((z.pos + 7) / 8)
    | .full q => jbetween lo (max lo (q / 8))
    | .more => jbetween lo all.length
    | .corrupt _ => jbetween d.input.length all.length
  jcountAt 4 (used - d.input.length)
  let before := (full.take d.outDone).drop (d.outDone - 32768)
  let kept := before == past.drop (past.length - before.length)
  let n ← jdraw
  let crc := fun (k : Nat) => jrecord 16 (bytesOfNat 8 (if kept then (crc32 (full.take (d.outDone + k))).toNat
    else (Config.freeWord n).toNat % 2 ^ 32))
  crc 0
  let new := got - d.outDone
  putCounted j stopped.isNone (if kept then (full.take got).drop d.outDone else freeBytes n new) fun k => do
    crc k
    jcountAt 4 (← jbetween 0 (used - d.input.length))
  jcount .cmpr j 2 3 (ceilDiv new 64)
  crc new
  let kept' : DeflStream :=
    { input := all.take used, outDone := got, hist := histTrim (d.hist ++ [(j.fld 16 8, j.flag 5, new)]), damaged := false }
  match e with
  | .done => do
    jcheck (used == d.input.length + cmprLen j) 0x28 2
    return none
  | .corrupt k => jfail 0x40 k
  | .more =>
    match stopped with
    | some (st, x) => jfail st x
    | none => return some (kept', 0x41, 0)
  | .full _ => return some (kept', 0x20, 2)

/-- DEFLATE.DECOMP: a stream is left suspended, or its suspension ends (R156). -/
def deflateJob (j : Job) : JobM Unit := do
  match ← jtry (deflateWork j) with
  | .ok (some (d, st, x)) =>
    jmod fun s => s.modSpan (berthSpan j.berth) fun y => { y with deflates := Table.put y.deflates (ctxAddr j) d }
    jfail st x
  | .ok none => dropStream j
  | .error (st, x) =>
    dropStream j
    jfail st x

/-! ### The rows -/

/-- NOP of the compression unit. -/
def cmprNop (j : Job) : JobM Unit := do
  let _ ← cmprHead j

/-- CMPR_NOP. -/
def execCmprNop (b : BerthNo) (s : State) : Host.Outcome State Fault Refusal := .next (jobRow .cmpr b 0 (zeros 26) cmprNop s)
/-- ZSTD_COMP. -/
def execZstdComp (b : BerthNo) (s : State) : Host.Outcome State Fault Refusal := .next (jobRow .cmpr b 0x10 (zeros 26) zstdCompJob s)
/-- ZSTD_DECOMP. -/
def execZstdDecomp (b : BerthNo) (s : State) : Host.Outcome State Fault Refusal :=
  .next (jobRow .cmpr b 0x11 (zeros 26) zstdDecompJob s)
/-- ZSTD_PROBE. -/
def execZstdProbe (b : BerthNo) (s : State) : Host.Outcome State Fault Refusal :=
  .next (jobRow .cmpr b 0x12 (zeros 26) zstdDecompJob s)
/-- DEFLATE_DECOMP. -/
def execDeflateDecomp (b : BerthNo) (s : State) : Host.Outcome State Fault Refusal :=
  .next (jobRow .cmpr b 0x20 (zeros 26) deflateJob s)

end Sys2Proof.Machine
end

