-- ==== Sys2Proof/Machine/Hash.lean ====
section
/-!
DEFINITION. The Hash unit (R144, R159 to R165): its descriptor, streams in context areas, and its seven operations.
-/
namespace Sys2Proof.Machine

/-- Input bytes of a job, as clamped. -/
def hashLen (j : Job) : Nat := min 16777216 (j.fld 24 4)

/-- Largest output length that an operation takes from its descriptor, 0 for a fixed length (R160). -/
def hashMax (op : Nat) : Nat := if op = 0x12 ∨ op = 0x13 then 4096 else if op = 0x14 then 64 else 0

/-- Output bytes of a job (R159). -/
def hashOut (j : Job) : Nat :=
  let op := jobOp .hash j
  if hashMax op ≠ 0 then clampTo 1 (hashMax op) (j.fld 48 2) else if op = 0x11 then 64 else 32

/-- The digest of a stream, of `n` bytes. -/
def streamDigest (h : HashStream) (n : Nat) : List Byte :=
  if h.op = 0x10 then sha3_256 h.msg
  else if h.op = 0x11 then sha3_512 h.msg
  else if h.op = 0x12 then shake128 h.msg n
  else if h.op = 0x13 then shake256 h.msg n
  else if h.op = 0x14 then kmac256 h.key h.msg n h.custom
  else Sys2Proof.Machine.sha256 h.msg

/-- Does a buffer touch the secure partition of Span `i`? An empty one does where its address lies there (log entry 76). -/
def touchesSec (i : SpanNo) (a n : Nat) : Bool :=
  decide (a < pontoonBase i + 0x800000) && decide (pontoonBase i + 0x600000 < a + max 1 n)

/-- Checks 1 to 5 of R166 for a Hash job: false for NOP. -/
def hashHead (j : Job) : JobM Bool := do
  let op := jobOp .hash j
  let clamps : JobM Unit := do
    let _ ← jclamp .hash j 3 1 0 3
    if op ≠ 0 then
      let _ ← jclamp .hash j 24 4 0 16777216
      if hashMax op ≠ 0 then
        let _ ← jclamp .hash j 48 2 1 (hashMax op)
      if op = 0x14 then
        let _ ← jclamp .hash j 50 1 0 64
        let _ ← jclamp .hash j 51 1 0 64
  jhead .hash j clamps fun _ a n => inPon (berthSpan j.berth) a n
  if op = 0 then return false
  let i := berthSpan j.berth
  let kmac := op == 0x14
  let src := j.fld 8 8
  let n := strideSize (j.flag 6) (hashLen j)
  jref .hash j 4 4 (ctxOk .hash j && (!(kmac || touchesSec i src n) || inSec i (ctxAddr j) hashCtxSize)) 0x10 1
  let s ← jget
  jref .hash j 8 8 (strideOk (j.flag 6) src && (inPon i src n || inStg s src n)) 0x15 1
  jref .hash j 16 8 (if kmac then inSec i (j.fld 16 8) (hashOut j) else inPon i (j.fld 16 8) (hashOut j)) 0x15 2
  if kmac then jref .hash j 40 8 (inSec i (j.fld 40 8) 128) 0x15 3
  jloose .hash j [(j.fld 16 8, hashOut j)] ((src, n) :: if kmac then [(j.fld 40 8, 128)] else []) [ctxRange .hash j]
  return true

/-- The stream a job works on: a new one, or the open one of its context area (check 6 of R166). -/
def hashStream (j : Job) : JobM HashStream := do
  let op := jobOp .hash j
  if j.flag 5 then
    if op = 0x14 then
      let p ← jreadHead .hash j (j.fld 40 8) 128
      return { op := op, msg := [], key := p.take (min 64 (j.fld 50 1)), custom := (p.drop 64).take (min 64 (j.fld 51 1)),
               damaged := false }
    else return { op := op, msg := [], key := [], custom := [], damaged := false }
  else
    let _ ← jreadHead .hash j (ctxAddr j) hashCtxSize
    match Table.find ((← jget).span (berthSpan j.berth)).hashes (ctxAddr j) with
    | some h => if h.op = op ∧ ¬ h.damaged then return h else jfail 0x10 2
    | none => jfail 0x10 2

/-- A Hash job (R159 to R164). -/
def hashJob (j : Job) : JobM Unit := do
  if !(← hashHead j) then return ()
  let h ← hashStream j
  let total := fun k => jrecord 4 (bytesOfNat 8 (h.msg.length + k))
  total 0
  jcheck (h.op != 0x20 || decide (h.msg.length + hashLen j ≤ 2 ^ 61 - 1)) 0x20 0
  let l ← jreadBuf .hash j true total (hashLen j) (piecesOf (j.flag 6) (j.fld 8 8) (hashLen j + 1) 0 (hashLen j))
  let h := { h with msg := h.msg ++ l }
  jwriteArea .hash j 0 hashCtxSize
  if j.flag 4 then jwriteOut .hash j false (j.fld 16 8) (streamDigest h (hashOut j))
  jcount .hash j 2 4 (ceilDiv l.length 64)
  jmod fun s => s.modSpan (berthSpan j.berth) fun x =>
    { x with hashes := if j.flag 4 then Table.del x.hashes (ctxAddr j) else Table.put x.hashes (ctxAddr j) h }

/-- HASH_NOP. -/
def execHashNop (b : BerthNo) (s : State) : Host.Outcome State Fault Refusal := .next (jobRow .hash b 0 (zeros 26) hashJob s)
/-- SHA3_256. -/
def execSha3256 (b : BerthNo) (s : State) : Host.Outcome State Fault Refusal := .next (jobRow .hash b 0x10 (zeros 26) hashJob s)
/-- SHA3_512. -/
def execSha3512 (b : BerthNo) (s : State) : Host.Outcome State Fault Refusal := .next (jobRow .hash b 0x11 (zeros 26) hashJob s)
/-- SHAKE128. -/
def execShake128 (b : BerthNo) (s : State) : Host.Outcome State Fault Refusal := .next (jobRow .hash b 0x12 (zeros 26) hashJob s)
/-- SHAKE256. -/
def execShake256 (b : BerthNo) (s : State) : Host.Outcome State Fault Refusal := .next (jobRow .hash b 0x13 (zeros 26) hashJob s)
/-- KMAC256. -/
def execKmac256 (b : BerthNo) (s : State) : Host.Outcome State Fault Refusal := .next (jobRow .hash b 0x14 (zeros 26) hashJob s)
/-- SHA_256. -/
def execSha256 (b : BerthNo) (s : State) : Host.Outcome State Fault Refusal := .next (jobRow .hash b 0x20 (zeros 26) hashJob s)

end Sys2Proof.Machine
end

