-- ==== Sys2Proof/Machine/Seal.lean ====
section
/-!
DEFINITION. The Seal unit (R119 to R133): the cell format it judges (R31 to R45), its descriptor and cell list (R121 to R123)
and its ten operations.
-/
namespace Sys2Proof.Machine

/-! ### Cells (R31 to R35) -/

/-- Does a header break R35, in the fields that R32 to R34 give? -/
def headerBad (h : List Byte) : Bool :=
  let v := fieldAt h 2 2
  let kind := fieldAt h 34 1
  fieldAt h 0 2 != 0x5048 || v / 8 != 0x200 || fieldAt h 4 2 == 0 || fieldAt h 4 2 == 0xFFFF || 1023 < fieldAt h 6 2
    || 4032 < fieldAt h 32 2 || kind == 0 || 4 < kind || 2 ^ 48 ≤ fieldAt h 8 8
    || (kind == 3 && (fieldAt h 20 8 != 0 || fieldAt h 28 4 != 0 || fieldAt h 32 2 != 0 || fieldAt h 35 1 != 0 || v % 8 != 0))

/-- Is it a pad header? -/
def isPad (h : List Byte) : Bool := fieldAt h 34 1 == 3

/-- The location-neutral header of R38. -/
def neutral (h : List Byte) : List Byte := overlay (h.take 36) 4 (zeros 16)

/-- The IV of the object tag (R38). -/
def objectIv (index epoch : Nat) : List Byte := bytesOfNat 4 index ++ [BitVec.ofNat 8 epoch] ++ zeros 7

/-- The IV of the shelf tag (R41) or of a snapshot tag (R99). -/
def shelfIv (stripe row slot : Nat) : List Byte := bytesOfNat 6 stripe ++ bytesOfNat 4 row ++ bytesOfNat 2 slot

/-- Bytes 0 to 4,083 of a cell: a header, its payload of 4,032 plaintext bytes encrypted, and its object tag (R38). -/
def sealCell (key h pt : List Byte) : List Byte :=
  let r := gcmEnc key (objectIv (fieldAt h 28 4) (fieldAt h 35 1)) (neutral h) pt
  h.take 36 ++ r.1 ++ r.2

/-- The plaintext of a cell, when its object tag is right (R45 check 5). -/
def unsealCell (key c : List Byte) : Option (List Byte) :=
  gcmDec key (objectIv (fieldAt c 28 4) (fieldAt c 35 1)) (neutral c) ((c.drop 36).take 4032) ((c.drop 4068).take 16)

/-! ### The cell list (R122, R123) -/

/-- A cell-list entry. -/
structure CellEnt where
  /-- Address of the input cell. -/
  inp : Nat
  /-- Address of the output cell. -/
  out : Nat
  /-- Row. -/
  row : Nat
  /-- Slot. -/
  slot : Nat
  /-- Object cell index. -/
  idx : Nat

/-- Reads an entry from its bytes. -/
def cellEnt (l : List Byte) : CellEnt :=
  { inp := fieldAt l 0 8, out := fieldAt l 8 8, row := fieldAt l 16 4, slot := fieldAt l 20 2, idx := fieldAt l 24 4 }

/-- Cells of a job, as clamped. -/
def jobCells (j : Job) : Nat := min 4096 (j.fld 24 4)

/-- Does an operation use an object ticket? -/
def usesObject (op : Nat) : Bool := op == 0x10 || op == 0x11 || op == 0x12

/-- Is it a snapshot operation? -/
def isSnapOp (op : Nat) : Bool := op == 0x30 || op == 0x31

/-- Does a whole cell at `a` lie, 64-byte aligned, where R123 requires: in the secure partition or outside it? -/
def cellAt (s : State) (j : Job) (sec : Bool) (a : Nat) : Bool :=
  a % 64 == 0 && (if sec then inSec (berthSpan j.berth) a 4096 else inOpen (berthSpan j.berth) a 4096 || inStg s a 4096)

/-- Mask bit of an operation (R116). -/
def sealMaskBit (op : Nat) : Nat :=
  if op = 0x10 then 0 else if op = 0x11 then 1 else if op = 0x12 then 2 else if op < 0x22 then 3 else if op < 0x30 then 4 else 5

/-- The ticket checks of R119 for a job, object ticket first: the detail of TICKET when one fails (R129). -/
def ticketsBad (s : State) (j : Job) (op : Nat) : Option Nat :=
  let obj := if usesObject op then ticketCheck s j.berth (j.fld 40 4) (sealMaskBit op) 2 else none
  match obj with
  | some r => some (0x0100 + r)
  | none => (ticketCheck s j.berth (j.fld 44 4) (sealMaskBit op) 3).map (0x0200 + ·)

/-- Judges the tickets of a job now: the detail when one fails. -/
def askTickets (j : Job) (op : Nat) : JobM (Option Nat) := do
  match ← jask fun s => ((ticketsBad s j op).map (· + 1)).getD 0 with
  | 0 => return none
  | d + 1 => return some d

/-- Checks the tickets of a job: a handle that names no live ticket is a null reference (R477). -/
def checkTickets (j : Job) (op : Nat) : JobM Unit := do
  match ← askTickets j op with
  | none => pure ()
  | some d => do
    if d % 256 = 1 then jlog .sealU j 3 (if d < 0x200 then 40 else 44) 4 0
    jfail 0x18 d

/-! ### One cell -/

/-- How a cell ends: a cell status that is not OK, or done. -/
abbrev CellM := ExceptT Nat JobM

/-- Ends a cell with a status unless a condition holds. -/
def cellCheck (c : Bool) (st : Nat) : CellM Unit := if c then pure () else throw st

/-- Check 1 of R45, or the check of a snapshot tag, over a cell of 4,096 bytes. -/
def shelfOk (s : State) (j : Job) (e : CellEnt) (c : List Byte) : Bool :=
  gmac96 (ticketKey s (j.fld 44 4)) (shelfIv (j.fld 48 8) e.row e.slot) (c.take 4084) == (c.drop 4084).take 12

/-- Check 2 of R45. -/
def locationOk (j : Job) (e : CellEnt) (c : List Byte) : Bool :=
  fieldAt c 8 8 == j.fld 48 8 && fieldAt c 16 4 == e.row && fieldAt c 6 2 == e.slot

/-- Are the object id and object cell index the job's (R45 check 4)? -/
def objectOk (j : Job) (e : CellEnt) (c : List Byte) : Bool := fieldAt c 20 8 == j.fld 56 8 && fieldAt c 28 4 == e.idx

/-- The object key of a job for a key epoch. -/
def jobObjectKey (s : State) (j : Job) (epoch : Nat) : List Byte :=
  objectKey (ticketKey s (j.fld 40 4)) (j.fld 56 8) epoch

/-- Writes the shelf tag or snapshot tag of bytes 0 to 4,083 (R41, R99). -/
def writeTag (j : Job) (e : CellEnt) (a : Nat) (c : List Byte) : JobM Unit := do
  let s ← jget
  jwrite .sealU j (a + 4084) (gmac96 (ticketKey s (j.fld 44 4)) (shelfIv (j.fld 48 8) e.row e.slot) (c.take 4084))

/-- SEAL of one cell (R124). -/
def sealOne (j : Job) (e : CellEnt) : CellM Unit := do
  let h ← jread .sealU j e.inp 36
  cellCheck (!headerBad h) 1
  cellCheck (locationOk j e h) 3
  cellCheck (isPad h || objectOk j e h) 4
  let c ← if isPad h then pure (padTo 4084 h) else do
    let pt ← jread .sealU j (e.inp + 36) (fieldAt h 32 2)
    let key := jobObjectKey (← jget) j (fieldAt h 35 1)
    pure (sealCell key h (padTo 4032 pt))
  jwriteOut .sealU j false e.out c
  writeTag j e e.out c

/-- The checks of R45 on a cell that is opened: its bytes and its plaintext. -/
def openOne (j : Job) (e : CellEnt) : CellM (List Byte × List Byte) := do
  let c ← jread .sealU j e.inp 4096
  let s ← jget
  cellCheck (shelfOk s j e c) 2
  cellCheck (locationOk j e c) 3
  cellCheck (!headerBad c) 1
  cellCheck (!isPad c && objectOk j e c) 4
  match unsealCell (jobObjectKey s j (fieldAt c 35 1)) c with
  | none => throw 5
  | some pt => return (c, pt)

/-- REKEY of one cell (R126). -/
def rekeyOne (j : Job) (e : CellEnt) : CellM Unit := do
  let (c, pt) ← openOne j e
  let ep := fieldAt c 35 1
  cellCheck (ep != 255) 6
  let key := jobObjectKey (← jget) j (ep + 1)
  jwriteOut .sealU j false e.out (sealCell key (overlay (c.take 36) 35 [BitVec.ofNat 8 (ep + 1)]) pt ++ zeros 12)

/-- An operation on one cell (R124 to R127). -/
def cellOp (j : Job) (op : Nat) (e : CellEnt) : CellM Unit := do
  if op = 0x10 then sealOne j e
  else if op = 0x11 then
    let (c, pt) ← openOne j e
    jwriteOut .sealU j false (e.out + 36) (pt.take (fieldAt c 32 2))
  else if op = 0x12 then rekeyOne j e
  else if op = 0x20 then
    let c ← jread .sealU j e.inp 4084
    cellCheck (locationOk j e c) 3
    cellCheck (!headerBad c) 1
    writeTag j e e.inp c
  else if op = 0x21 ∨ op = 0x30 then writeTag j e e.inp (← jread .sealU j e.inp 4084)
  else
    let c ← jread .sealU j e.inp 4096
    cellCheck (shelfOk (← jget) j e c) 2
    if op = 0x22 then
      cellCheck (locationOk j e c) 3
      cellCheck (!headerBad c) 1

/-! ### The job -/

/-- Notes entry `n` as the first failing entry, unless an earlier one is. -/
def noteEntry (n : Nat) : JobM Unit := modify fun w =>
  if fieldAt w.mid 4 4 = 0xFFFFFFFF then { w with mid := overlay w.mid 4 (bytesOfNat 4 n) } else w

/-- A field of 4 bytes of the status record rises by one. -/
def bumpRecord (o : Nat) : JobM Unit := modify fun w =>
  { w with mid := overlay w.mid (o - 4) (bytesOfNat 4 (fieldAt w.mid (o - 4) 4 + 1)) }

/-- An action that, when it stops the job, leaves entry `n` named as the failing one (R131). -/
def atEntry {α : Type} (n : Nat) (m : JobM α) : JobM α := tryCatch m fun e => do noteEntry n; throw e

/-- Checks 6 and 7 of R128 on the entries of the list. -/
def readCells (j : Job) (op : Nat) : JobM (List CellEnt) := do
  let es ← (List.range (jobCells j)).mapM fun n => atEntry n do
    let a := j.fld 8 8 + 32 * n
    modify fun w => { w with next := n }
    if n = 0 ∨ a % 64 = 0 then jstep .sealU j 0
    return cellEnt (← jread .sealU j a 32)
  let s ← jget
  for (n, e) in (List.range (jobCells j)).zip es do
    jcheck (cellAt s j (op == 0x10) e.inp) 0x15 (0x8000 + n)
    jcheck (!usesObject op || cellAt s j (op == 0x11) e.out) 0x15 (0xC000 + n)
  for (n, e) in (List.range (jobCells j)).zip es do
    jcheck (if isSnapOp op then decide (0x8000 ≤ e.slot) else decide (e.slot ≤ 1023)) 0x16 n
  return es

/-- Processes cells in list order from entry `n` on (R128, R131). `last` tells that a cell has failed with flags.stop set, and
that the cell already in the other pipeline is the last. -/
def runCells (j : Job) (op : Nat) : List CellEnt → Nat → Bool → JobM Unit
  | [], _, _ => pure ()
  | e :: t, n, last => do
    if !last then
      modify fun w => { w with next := n }
      jstep .sealU j (cellCost .sealU)
    match ← askTickets j op with
    | some d => if last then pure () else do
      noteEntry n
      jfail 0x18 d
    | none =>
      let r ← atEntry n (cellOp j op e).run
      let st ← jask fun _ => match r with
        | .ok _ => 0
        | .error c => c
      atEntry n (jwrite .sealU j (j.fld 8 8 + 32 * n + 22) (bytesOfNat 2 st))
      bumpRecord 4
      jcount .sealU j 2 1 1
      if st ≠ 0 then
        jcount .sealU j 2 6 1
        noteEntry n
        bumpRecord 12
      if last then pure ()
      else if st ≠ 0 ∧ (j.fld 2 1).testBit 6 = true then
        let more := Config.freeBit (← jdraw)
        if more then runCells j op t (n + 1) true else pure ()
      else runCells j op t (n + 1) false

/-- A Seal job: the checks of R128, then its cells. -/
def sealJob (j : Job) : JobM Unit := do
  let op := jobOp .sealU j
  let clamps : JobM Unit := do
    let _ ← jclamp .sealU j 3 1 0 3
    if op ≠ 0 then
      let _ ← jclamp .sealU j 24 4 0 4096
  jhead .sealU j clamps fun s a n => inPon (berthSpan j.berth) a n || inStg s a n
  if op = 0 then return ()
  jref .sealU j 4 4 (ctxOk .sealU j) 0x10 0
  jref .sealU j 48 8 (decide (j.fld 48 8 < 2 ^ 48)) 0x12 0
  let s ← jget
  jref .sealU j 8 8 (j.fld 8 8 % 32 == 0
    && (inPon (berthSpan j.berth) (j.fld 8 8) (32 * jobCells j) || inStg s (j.fld 8 8) (32 * jobCells j))) 0x15 1
  if jobCells j = 0 then checkTickets j op
  else
    let es ← readCells j op
    checkTickets j op
    if usesObject op then
      let other := fun (e : CellEnt) => (es.filter fun x => !(op == 0x12 && x.inp == e.out && e.inp == e.out)).map fun x => (x.inp, 4096)
      es.forM fun e => jloose .sealU j [(e.out, 4096)] ((j.fld 8 8, 32 * jobCells j) :: other e) [ctxRange .sealU j]
    runCells j op es 0 false
    let w ← get
    jcheck (fieldAt w.mid 8 4 == 0) 0x20 0

/-- Bytes 4 to 29 of a Seal record before anything is done. -/
def sealMid : List Byte := zeros 4 ++ bytesOfNat 4 0xFFFFFFFF ++ zeros 18

/-- SEAL_NOP. -/
def execSealNop (b : BerthNo) (s : State) : Host.Outcome State Fault Refusal := .next (jobRow .sealU b 0 sealMid sealJob s)
/-- SEAL_OP. -/
def execSealOp (b : BerthNo) (s : State) : Host.Outcome State Fault Refusal := .next (jobRow .sealU b 0x10 sealMid sealJob s)
/-- OPEN. -/
def execOpenCells (b : BerthNo) (s : State) : Host.Outcome State Fault Refusal := .next (jobRow .sealU b 0x11 sealMid sealJob s)
/-- REKEY. -/
def execRekey (b : BerthNo) (s : State) : Host.Outcome State Fault Refusal := .next (jobRow .sealU b 0x12 sealMid sealJob s)
/-- TAG_DATA. -/
def execTagData (b : BerthNo) (s : State) : Host.Outcome State Fault Refusal := .next (jobRow .sealU b 0x20 sealMid sealJob s)
/-- TAG_PARITY. -/
def execTagParity (b : BerthNo) (s : State) : Host.Outcome State Fault Refusal := .next (jobRow .sealU b 0x21 sealMid sealJob s)
/-- CHECK_DATA. -/
def execCheckData (b : BerthNo) (s : State) : Host.Outcome State Fault Refusal := .next (jobRow .sealU b 0x22 sealMid sealJob s)
/-- CHECK_PARITY. -/
def execCheckParity (b : BerthNo) (s : State) : Host.Outcome State Fault Refusal := .next (jobRow .sealU b 0x23 sealMid sealJob s)
/-- TAG_SNAP. -/
def execTagSnap (b : BerthNo) (s : State) : Host.Outcome State Fault Refusal := .next (jobRow .sealU b 0x30 sealMid sealJob s)
/-- CHECK_SNAP. -/
def execCheckSnap (b : BerthNo) (s : State) : Host.Outcome State Fault Refusal := .next (jobRow .sealU b 0x31 sealMid sealJob s)

end Sys2Proof.Machine
end

