-- ==== Sys2Proof/Machine/Viaduct.lean ====
section
/-!
DEFINITION. The Viaduct engine (R374 to R398): what begins, carries and ends a pairing, the items a Lead waits on, and
checkpoints. The frames themselves are received in ViaRows.lean.
-/
namespace Sys2Proof.Machine

/-! ### Barriers of the twin (R394) -/

/-- Barriers that span the twin release their waiting members with 0. -/
def releaseTwin (s : State) : State :=
  s.barriers.foldl (fun s e => if e.2.twin then releaseBarrier s e.1 false else s) s

/-! ### Items that wait for an ACK (R383, R385, R388, R390) -/

/-- The KEY operation of Berth `b` that waits for an ACK ends with the registers `outs`, or with its own. -/
def keyAckEnd (s : State) (b : BerthNo) (outs : Option (List (Nat × W64))) : State :=
  match (s.berth b).wait with
  | .key (.ack _ own) => s.modBerth b fun x => { x with wait := .key (.done (outs.getD own)) }
  | _ => s

/-- The CKPT of Berth `b` retires with P(pd) = `v` (R388). -/
def ckptEnd (s : State) (b : BerthNo) (v : Bool) : State :=
  match (s.berth b).wait with
  | .ckpt pd _ _ =>
    finishWait { s with via := { s.via with lags := Table.del s.via.lags b.val } } b fun c => c.setP pd v
  | _ => s

/-- An item is acknowledged. -/
def itemDone (s : State) : ViaItem → State
  | .batch b seq _ => completeAwaiting s b seq none none
  | .ckpt b => ckptEnd s b true
  | .keyload b slot k => keyAckEnd (loadSlot s slot k.kind k.keyId k.key false) b none
  | .keyerase b => keyAckEnd s b none
  | .syncEnd => { s with via := { s.via with st := .paired } }
  | .parting _ => s

/-- An item's ACK will not be waited for: TWIN with `detail` for a batch (R385). -/
def itemLost (detail : Nat) (s : State) : ViaItem → State
  | .batch b seq _ => completeAwaiting s b seq (some 0x22) (some detail)
  | .ckpt b => ckptEnd s b false
  | .keyload b _ _ => keyAckEnd s b (some [(1, 0x0C)])
  | .keyerase b => keyAckEnd { s with via := { s.via with eunc := true } } b none
  | .syncEnd => s
  | .parting _ => s

/-- Every item is lost. -/
def itemsLost (s : State) (detail : Nat) : State :=
  s.via.items.foldl (fun s e => itemLost detail s e.2) { s with via := { s.via with items := [] } }

/-- Every Berth that waits at a CKPT goes on with 0. -/
def ckptsLost (s : State) : State :=
  s.berths.foldl (fun s e => ckptEnd s (berthOf e.1) false) s

/-! ### How pairings end -/

/-- The state is left for `st`: what waits on the Mirror ends (R385, R388, R390, R394), and what the Mirror has collected
is discarded (R386, R389). -/
def leavePaired (s : State) (st : PairSt) : State :=
  let detail := if s.via.superseded then 4 else 6
  let s := ckptsLost (itemsLost s detail)
  releaseTwin { s with via := { s.via with st := st, batch := none, ckpt := none, sync := [], parting := none, detachAt := none } }

/-- Erases slots `lo` to `lo + n - 1`. -/
def eraseSlots (s : State) (lo n : Nat) : State := (List.range n).foldl (fun s k => eraseSlot s (lo + k)) s

/-- The states in which a pairing is at work. -/
def pairingAlive (s : State) : Bool := s.via.st != .unpaired && s.via.st != .broken

/-- The pairing becomes Broken, with a reason where the spec gives one. -/
def viaBreak (s : State) (reason : Option Nat) : State :=
  if pairingAlive s then
    let s := leavePaired s .broken
    match reason with
    | some r => { s with via := { s.via with reason := BitVec.ofNat 8 r } }
    | none => s
  else s

/-- Pairing fails (R380): Unpaired, with the reason, and slots e and e + 1 erased. -/
def pairFail (s : State) (reason : Nat) : State :=
  let s := eraseSlots (leavePaired s .unpaired) s.via.eslot 2
  { s with via := { s.via with reason := BitVec.ofNat 8 reason, linkKeys := [] } }

/-- LINK_UP or VD_RST_N has fallen, or the link has been reset (R380, R398): a frame cut off is discarded (R419), and frames that had
not left, or that waited to be checked, with it. -/
def linkFell (s : State) (low : Bool) : State :=
  let s := raise { s with
    via := { s.via with out := [] }
    ports := (dropLane s 8).ports } 1351 0
  if low && s.via.st == .pairing then pairFail s 0x0C else viaBreak s none

/-- Slots received by mirroring are erased (R397). -/
def eraseMirrored (s : State) : State :=
  s.keys.slots.foldl (fun s e => if e.2.mirrored then eraseSlot s e.1 else s) s

/-- A pairing ends in Unpaired with its link keys erased and the flags of R397 cleared. -/
def unpair (s : State) (role : Role) : State :=
  let s := eraseSlots (leavePaired s .unpaired) 4 3
  { s with via := { s.via with role := role, superseded := false, eunc := false, linkKeys := [] } }

/-! ### HELLO and PAIR (R379, R380) -/

/-- Role code. -/
def roleCode : Role → Nat
  | .none => 0
  | .lead => 1
  | .mirror => 2

/-- The HELLO payload of this block. -/
def helloBody (s : State) : List Byte :=
  bytesOfNat 4 0x401 ++ [BitVec.ofNat 8 (roleCode s.via.role)] ++ zeros 3 ++ bytesOfNat 4 s.via.epoch.toNat ++ zeros 4
    ++ (identityKeys s).1 ++ (identityKeys s).2

/-- Sends HELLO. -/
def sendHello (s : State) : State := viaSend s 0x01 false s.via.helloOwn

/-- The slot VIA_ARG names. -/
def argSlot (s : State) : Nat := fld (s.hreg 0x300008) 27 16

/-- The epoch VIA_ARG names. -/
def argEpoch (s : State) : W32 := BitVec.ofNat 32 (fld (s.hreg 0x300008) 63 32)

/-- Is slot `n` loaded with an ephemeral key? -/
def ephemeralLoaded (s : State) (n : Nat) : Bool := slotLoaded s n && slotKind s n == 6

/-- Does any slot in 8 to 4,095 hold a vault or shelf integrity key? -/
def holdsKeys (s : State) : Bool :=
  s.keys.slots.any fun e => 8 ≤ e.1 && e.1 < 4096 && e.2.st == .loaded && (e.2.kind == 2 || e.2.kind == 3)

/-- Why PAIR is refused, if it is (R379). -/
def pairRefusal (s : State) (lead : Bool) : Option Nat :=
  let e := argSlot s
  if s.via.st ≠ .unpaired ∨ (if lead then s.via.role = .mirror else s.via.role ≠ .none) then some 1
  else if !keysAllowed s then some 2
  else if !hasIdentity s then some 3
  else if e < 8 ∨ 4094 < e ∨ !ephemeralLoaded s e ∨ !ephemeralLoaded s (e + 1) then some 4
  else if !lead ∧ holdsKeys s then some 5
  else if (argEpoch s).toNat < s.via.epoch.toNat then some 6
  else none

/-- A Viaduct command is refused with its reason. -/
def viaRefuse (s : State) (r : Nat) : State := { s with via := { s.via with reason := BitVec.ofNat 8 r } }

/-- PAIR LEAD and PAIR MIRROR (R379, R380 step 1). An ephemeral slot that R379 refuses is a null reference (R399, R477). -/
def pairCmd (s : State) (lead : Bool) : State :=
  match pairRefusal s lead with
  | some 4 => viaRefuse (clampLog s 0 3 (fidReg 0x300008 16) (BitVec.ofNat 64 (argSlot s)) 0) 4
  | some r => viaRefuse s r
  | none =>
    let s := eraseSlots s 4 4
    let s := { s with via := { s.via with
      role := if lead then .lead else .mirror
      st := .pairing
      epoch := argEpoch s
      eslot := argSlot s
      txSeq := 0, rxSeq := 0, helloPeer := [], kex1 := [], kex2 := [], transcript := [], linkKeys := []
      batch := none, ckpt := none, sync := [], items := [], lags := [], parting := none, detachAt := none
      since := s.time.ticks, lastRx := s.time.ticks } }
    let s := { s with via := { s.via with helloOwn := helloBody s } }
    if s.via.linkUp then sendHello s else pairFail s 0x0C

/-! ### Keys of a pairing (R381) -/

/-- The Lead's and the Mirror's HELLO payloads. -/
def hellos (s : State) : List Byte :=
  if s.via.role == .lead then s.via.helloOwn ++ s.via.helloPeer else s.via.helloPeer ++ s.via.helloOwn

/-- The ECDH scalar of the pairing. -/
def pairScalar (s : State) : Nat := ecScalar (s.keyOf (s.via.eslot + 1))

/-- The Lead's ML-KEM key pair. -/
def pairKem (s : State) : List Byte × List Byte :=
  mlkemKeyGen ((s.keyOf s.via.eslot).take 32) ((s.keyOf s.via.eslot).drop 32)

/-- Sends KEX1 (R380 step 3). -/
def sendKex1 (s : State) : State :=
  let l := (pairKem s).1 ++ ecBytes (ecPub (pairScalar s))
  viaSend { s with via := { s.via with kex1 := l } } 0x02 false l

/-- The link keys and T, from the shared secrets (R381). -/
def deriveLink (s : State) (ssk sse : List Byte) : State :=
  let t := sha3_512 (hellos s ++ s.via.kex1 ++ s.via.kex2)
  { s with via := { s.via with transcript := t, linkKeys := kmac256 (ssk ++ sse) t 96 (asciiBytes "PHIRA-LINK") } }

/-- Signs T and sends CONFIRM (R380 step 6); a signing that stops (R139) fails the step. -/
def sendConfirm (s : State) : State :=
  let k := s.keyOf (s.via.eslot + 1)
  let t := s.via.transcript
  let l := nestedSign s t (asciiBytes "PHIRA-PAIR") (kmac256 k t 32 (asciiBytes "PHIRA-PAIR-R"))
    fun m => kmac256 k m 64 (asciiBytes "PHIRA-PAIR-K")
  if l.isEmpty then pairFail s 0x0A else viaSend s 0x04 true l

/-- The Mirror receives KEX1 (R380 step 4). -/
def kex1In (s : State) (l : List Byte) : State :=
  let s := { s with via := { s.via with kex1 := l } }
  let ek := l.take 1568
  if l.length ≠ 1665 ∨ !mlkemEkValid ek then pairFail s 0x09
  else match ecdhSecret (pairScalar s) (l.drop 1568) with
    | none => pairFail s 0x09
    | some sse =>
      let m := kmac256 (s.keyOf s.via.eslot) (hellos s ++ l) 32 (asciiBytes "PHIRA-KEM-M")
      let r := mlkemEncaps ek m
      let k := r.1 ++ ecBytes (ecPub (pairScalar s))
      let s := viaSend { s with via := { s.via with kex2 := k } } 0x03 false k
      sendConfirm (deriveLink s r.2 sse)

/-- The Lead receives KEX2 (R380 step 5). -/
def kex2In (s : State) (l : List Byte) : State :=
  let s := { s with via := { s.via with kex2 := l } }
  if l.length ≠ 1665 then pairFail s 0x09
  else match ecdhSecret (pairScalar s) (l.drop 1568) with
    | none => pairFail s 0x09
    | some sse => sendConfirm (deriveLink s (mlkemDecaps (pairKem s).2 (l.take 1568)) sse)

/-- The peer's HELLO is checked (R380 step 2); a Lead then sends KEX1. -/
def helloIn (s : State) (l : List Byte) : State :=
  if fieldAt l 0 4 ≠ 0x401 then pairFail s 0x0D
  else if fieldAt l 4 1 = roleCode s.via.role then pairFail s 0x08
  else if fieldAt l 8 4 ≠ s.via.epoch.toNat then pairFail s 0x06
  else if sha3_256 (l.drop 16) ≠ (List.range 4).flatMap fun i => bytesOfNat 8 (s.hreg (0x300020 + 8 * i)).toNat then
    pairFail s 0x07
  else if l.length ≠ 2065 ∨ (ecPoint (l.drop 1968)).isNone then pairFail s 0x09
  else
    let s := { s with via := { s.via with helloPeer := l } }
    if s.via.role == .lead then sendKex1 s else s

/-- The nested signatures of a CONFIRM verify under the peer's identity (R381). -/
def confirmOk (s : State) (l : List Byte) : Bool :=
  let t := s.via.transcript
  l.length == 3405 && mldsaVerify ((s.via.helloPeer.drop 16).take 1952) t (asciiBytes "PHIRA-PAIR") (l.take 3309)
    && ecdsaVerify (s.via.helloPeer.drop 1968) (t ++ l.take 3309) (l.drop 3309)

/-! ### The initial sync (R380 step 7) -/

/-- The KEYLOAD payload of a slot (R390). -/
def keyloadBody (s : State) (n : Nat) (k : KeySlot) : List Byte :=
  bytesOfNat 2 n ++ [BitVec.ofNat 8 k.kind] ++ zeros 5 ++ bytesOfNat 8 k.keyId.toNat
    ++ kwWrap (s.keyOf 6) (bytesOfNat 8 k.keyId.toNat ++ padTo 48 k.key)

/-- The mirrored registers in rising order of offset (R392). -/
def mirroredRegs : List Nat :=
  ((List.range 16).flatMap fun i => [0x010000 + i * 0x1000 + 0x800, 0x010000 + i * 0x1000 + 0x808])
    ++ ((List.range 1024).flatMap fun b => [0x100000 + b * 0x20, 0x100008 + b * 0x20, 0x100010 + b * 0x20])
    ++ ((List.range 1024).map fun n => 0x108000 + n * 0x20)
    ++ ((List.range 32).flatMap fun w => ((List.range 32).flatMap fun n =>
          [0x200000 + w * 0x800 + n * 0x20, 0x200008 + w * 0x800 + n * 0x20, 0x200010 + w * 0x800 + n * 0x20])
          ++ [0x200400 + w * 0x800])
    ++ ((List.range 16).map fun i => 0x300100 + 8 * i) ++ ((List.range 1024).map fun b => 0x301000 + 8 * b)

/-- The value of a mirrored register, as it is sent: a staged region stands in the Span, and TOLL_COMMIT is sent as a
write of 1. -/
def mirroredValue (s : State) (o : Nat) : W64 :=
  if 0x200000 ≤ o ∧ o < 0x210000 then
    let w := (o - 0x200000) / 0x800
    if o % 0x800 = 0x400 then 1
    else
      let r := Table.get (Region.reset (worldOf (w % 2 == 1))) ((s.span (spanOf (w / 2))).toll (w % 2 == 1)).staged (o % 0x800 / 0x20)
      if o % 0x20 = 0 then at' r.base.toNat 47 12
      else if o % 0x20 = 8 then at' r.last.toNat 47 12
      else r.attr.setWidth 64
  else s.hreg o

/-- Sends a CONFIG frame (R378): offset, source and value. -/
def sendConfig (s : State) (o : Nat) : State :=
  viaSend s 0x25 true (bytesOfNat 4 o ++ zeros 4 ++ bytesOfNat 8 (mirroredValue s o).toNat)

/-- The Lead sends its keys and its configuration. -/
def sendSync (s : State) : State :=
  let s := s.keys.slots.foldl (fun s e =>
    if e.2.st == .loaded && (e.2.kind == 2 || e.2.kind == 3) then viaSend s 0x23 true (keyloadBody s e.1 e.2) else s) s
  viaSendItem (mirroredRegs.foldl sendConfig s) 0x05 [] .syncEnd

/-- The peer's CONFIRM has verified (R380 step 6): the link keys take their slots, and the pairing is Syncing. -/
def confirmIn (s : State) : State :=
  let k := s.via.linkKeys
  let s := loadSlot (loadSlot (loadSlot s 4 4 0 (k.take 32) false) 5 4 0 ((k.drop 32).take 32) false) 6 4 0 (k.drop 64) false
  let s := eraseSlots s s.via.eslot 2
  let s := { s with via := { s.via with st := .syncing, linkKeys := [] } }
  if s.via.role == .lead then sendSync s else s

/-! ### Memory as the Viaduct engine (R383) -/

/-- The access identity on behalf of Berth `b`'s home world. -/
def viaAcc (s : State) (b : BerthNo) : Acc :=
  { sp := berthSpan b, master := 6, north := (s.ctx b).home, sup := true, ferry := 0, berth := b.val }

/-- Reads for the Viaduct engine. -/
def viaRead (s : State) (b : BerthNo) (a n : Nat) : State × Except AccFail (List Byte) :=
  if n = 0 then (s, .ok []) else readAs s (viaAcc s b) viaBusyKey none a n

/-- Writes for the Viaduct engine. A staging port in reset holds the write back (R416). -/
def viaWrite (s : State) (b : BerthNo) (a : Nat) (l : List Byte) : State × Except AccFail Unit :=
  if l.isEmpty then (s, .ok ()) else writeAs s (viaAcc s b) viaBusyKey none false a l

/-! ### Checkpoints (R388, R389) -/

/-- VIA_MB: is Berth `b` marked? -/
def viaMarked (s : State) (b : BerthNo) : Bool := tb (s.hreg (0x300100 + 8 * (b.val / 64))) (b.val % 64)

/-- VIA_CKWb: the block address and the length of the checkpoint window, which ends within the Pontoon whatever is stored (R399,
R476). -/
def ckptWindow (s : State) (b : BerthNo) : Nat × Nat :=
  let v := s.hreg (0x301000 + 8 * b.val)
  (pontoonBase (berthSpan b) + 64 * fld v 16 0, 64 * min (fld v 42 32) (131072 - fld v 16 0))

/-- The CKPT frames of a checkpoint. -/
def ckptParts (b : BerthNo) (l : List Byte) : List (List Byte) :=
  let ps := chunksOf 8176 l
  ps.zipIdx.map fun e => bytesOfNat 2 b.val ++ bytesOfNat 2 e.2 ++ bytesOfNat 2 ps.length ++ zeros 10 ++ e.1

/-- Sends a checkpoint of Berth `b` as an item: none when the window cannot be read. -/
def sendCkpt (s : State) (b : BerthNo) (it : ViaItem) : State × Except AccFail Unit :=
  let (a, n) := ckptWindow s b
  match viaRead s b a n with
  | (s, .error e) => (s, .error e)
  | (s, .ok w) =>
    let ps := ckptParts b ((s.ctx b).bytes b ++ w)
    let s := (ps.take (ps.length - 1)).foldl (fun s p => viaSend s 0x22 true p) s
    (viaSendItem s 0x22 (ps.getLastD []) it, .ok ())

/-- May Berth `b`'s CKPT reach the Mirror (R388)? -/
def ckptGoes (s : State) (b : BerthNo) : Bool :=
  s.via.role == .lead && s.via.st == .paired && !s.via.hbLost && viaMarked s b

/-- Has Berth `b` a TWIN.SEND job that is not complete? -/
def twinSendOpen (s : State) (b : BerthNo) : Bool :=
  ((s.span (berthSpan b)).unit .tender).jobs.any fun j => j.berth == b && jobOp .tender j == 0x40

/-- The CKPT that Berth `b` waits at goes on, when it can: its checkpoint is sent once its TWIN.SEND jobs are complete. -/
def ckptStep (s : State) (b : BerthNo) : State :=
  match (s.berth b).wait with
  | .ckpt _ _ _ =>
    if s.via.items.any fun e => decide (e.2 = .ckpt b) then s
    else if !ckptGoes s b then ckptEnd s b false
    else if twinSendOpen s b then s
    else match sendCkpt s b (.ckpt b) with
      | (s, .ok _) => { s with via := { s.via with lags := Table.put s.via.lags b.val (s.time.ticks, false) } }
      | (s, .error .wait) => s
      | (s, .error _) => ckptEnd s b false
  | _ => s

/-- Every waiting CKPT goes on. -/
def ckptPump (s : State) : State := s.berths.foldl (fun s e => ckptStep s (berthOf e.1)) s

/-! ### DETACH and PROMOTE (R395, R397) -/

/-- Sends parting checkpoints as far as their windows can be read now: a window that is refused or fails is passed over, and one that
has to be waited for is kept with those after it. -/
def sendParting (s : State) : List BerthNo → State
  | [] =>
    let s := viaSend s 0x30 true []
    { s with via := { s.via with detachAt := some s.time.ticks, items := [], parting := none } }
  | b :: t =>
    match sendCkpt s b (.parting b) with
    | (s, .error .wait) => { s with via := { s.via with parting := some (b :: t) } }
    | (s, _) => sendParting s t

/-- A detaching Lead whose items are acknowledged sends its parting checkpoints and DETACH. -/
def detachGo (s : State) : State :=
  if s.via.st == .detaching && s.via.detachAt.isNone then
    match s.via.parting with
    | some l => sendParting s l
    | none =>
      if s.via.items.isEmpty then
        sendParting s ((List.finRange 1024).filter fun b =>
          viaMarked s b && ((s.berth b).st == .idle || (s.berth b).st == .parked))
      else s
  else s

/-- What is left of an item whose owner has been told of its loss: its ACK or NACK is still waited for (R397). -/
def ViaItem.orphan : ViaItem → ViaItem
  | .batch b seq first => .batch b seq first
  | _ => .parting 0

/-- The Viaduct command DETACH (R397). -/
def detachCmd (s : State) : State :=
  match s.via.role, s.via.st with
  | .lead, .paired =>
    let items := s.via.items
    let s := leavePaired s .detaching
    detachGo { s with via := { s.via with superseded := false, eunc := false
                                          items := items.map fun e => (e.1, e.2.orphan) } }
  | .mirror, .unpaired => unpair (eraseMirrored s) .none
  | .mirror, .paired => unpair (eraseMirrored (viaSend s 0x30 true [])) .none
  | _, .unpaired => viaRefuse s 1
  | _, .detaching => viaRefuse s 1
  | r, _ =>
    let s := eraseSlots (if r == .mirror then eraseMirrored s else s) s.via.eslot 2
    viaRefuse (unpair s (if r == .mirror then .none else r)) 0x12

/-- The Viaduct command PROMOTE (R395). -/
def promoteCmd (s : State) : State :=
  let e := argEpoch s
  if s.via.role == .mirror && (s.via.st == .unpaired || s.via.st == .paired || s.via.st == .broken)
      && s.via.epoch.toNat < e.toNat then
    let s := if s.via.st == .paired then viaSend s 0x31 true (bytesOfNat 4 e.toNat) else s
    let s := eraseSlots (leavePaired s .unpaired) 4 3
    { s with via := { s.via with role := .lead, epoch := e } }
  else viaRefuse s 0x0E

/-! ### What time brings (R380, R388, R393, R397) -/

/-- VIA_HB.interval and VIA_HB.loss. -/
def hbInterval (s : State) : Nat := fld (s.hreg 0x300060) 31 0

/-- VIA_HB.loss. -/
def hbLoss (s : State) : Nat := fld (s.hreg 0x300060) 63 32

/-- Is the pairing in Syncing or Paired? -/
def synced (s : State) : Bool := s.via.st == .syncing || s.via.st == .paired

/-- HEARTBEAT_SEND: a heartbeat, or in Pairing another HELLO until the peer's has arrived. -/
def execHeartbeatSend (s : State) : Host.Outcome State Fault Refusal :=
  let hello := s.via.st == .pairing && s.via.helloPeer.isEmpty
  if synced s || hello then
    let s := passUntil s.via.lastTx (hbInterval s) s
    if s.via.lastTx + hbInterval s ≤ s.time.ticks then .next (if hello then sendHello s else viaSend s 0x10 true [])
    else .next s
  else .next s

/-- HEARTBEAT_LOSS. -/
def execHeartbeatLoss (s : State) : Host.Outcome State Fault Refusal :=
  if synced s && !s.via.hbLost then
    let s := passUntil s.via.lastRx (hbLoss s) s
    if s.via.lastRx + hbLoss s ≤ s.time.ticks then
      let s := raise { s with via := { s.via with hbLost := true } } 1350 1
      let keep := s.via.items.filter fun e => decide (e.2 = .syncEnd)
      let s := ckptsLost (itemsLost s 3)
      .next (releaseTwin { s with via := { s.via with items := keep } })
    else .next s
  else .next s

/-- PAIRING_TIMEOUT. -/
def execPairingTimeout (s : State) : Host.Outcome State Fault Refusal :=
  if s.via.st == .pairing || s.via.st == .syncing then
    let s := passUntil s.via.since 50000000 s
    .next (if s.via.since + 50000000 ≤ s.time.ticks then pairFail s 0x0B else s)
  else .next s

/-- VIA_LAG. -/
def viaLag (s : State) : Nat := fld (s.hreg 0x300068) 31 0

/-- The waiting CKPT whose lag has not been reported and that was sent first. -/
def firstLag (l : Table (Nat × Bool)) : Option (Nat × Nat) :=
  l.foldl (fun m e => if e.2.2 then m else match m with
    | none => some (e.1, e.2.1)
    | some v => if e.2.1 < v.2 then some (e.1, e.2.1) else some v) none

/-- CHECKPOINT_LAG. -/
def execCheckpointLag (s : State) : Host.Outcome State Fault Refusal :=
  match firstLag s.via.lags with
  | none => .next s
  | some (b, t) =>
    let s := passUntil t (viaLag s + 1) s
    if t + viaLag s < s.time.ticks then
      .next (raise { s with via := { s.via with lags := Table.put s.via.lags b (t, true) } } 1371 (b / 64))
    else .next s

/-- DETACH_TIMEOUT. -/
def execDetachTimeout (s : State) : Host.Outcome State Fault Refusal :=
  match s.via.detachAt with
  | none => .next s
  | some t =>
    let s := passUntil t (hbLoss s) s
    .next (if t + hbLoss s ≤ s.time.ticks then unpair s .lead else s)

/-- PAIR_LEAD. -/
def execPairLead (s : State) : Host.Outcome State Fault Refusal := .next (cpDo s (pairCmd · true))
/-- PAIR_MIRROR. -/
def execPairMirror (s : State) : Host.Outcome State Fault Refusal := .next (cpDo s (pairCmd · false))
/-- PROMOTE. -/
def execPromote (s : State) : Host.Outcome State Fault Refusal := .next (cpDo s promoteCmd)
/-- DETACH. -/
def execDetach (s : State) : Host.Outcome State Fault Refusal := .next (cpDo s detachCmd)

/-- LINK_UP_RISE. -/
def execLinkUpRise (s : State) : Host.Outcome State Fault Refusal :=
  .next (if s.via.linkUp then s else raise { s with via := { s.via with linkUp := true } } 1351 1)

/-- LINK_UP_FALL. -/
def execLinkUpFall (s : State) : Host.Outcome State Fault Refusal :=
  .next (if s.via.linkUp then linkFell { s with via := { s.via with linkUp := false } } true else s)

/-- VIADUCT_PORT_RESET: an edge of VD_RST_N. It falls, with the effects of R398 (R403, R418, R419); while it is low, it rises (log
entry 97). -/
def execViaductPortReset (s : State) : Host.Outcome State Fault Refusal :=
  .next (if s.ports.vdRst then { s with ports := { s.ports with vdRst := false } }
    else linkFell { s with ports := { s.ports with vdRst := true } } false)

/-- LINK_RESET. -/
def execLinkReset (s : State) : Host.Outcome State Fault Refusal := .next (cpDo s (linkFell · false))

end Sys2Proof.Machine
end

