-- ==== Sys2Proof/Machine/Tender.lean ====
section
/-!
DEFINITION. The Tender (R330 to R334): copies, frames for the Landing and the Slipways, and batches for the Mirror (R384,
R385); and the end of an outbound frame.
-/
namespace Sys2Proof.Machine

/-- The beats of an outbound Landing frame (R306, R312): header beat and payload, padded to whole beats. -/
def landFrame (kind port : Nat) (buf payload : List Byte) : List Byte :=
  bytesOfNat 4 payload.length ++ bytesOfNat 1 kind ++ bytesOfNat 1 port ++ zeros 2 ++ (padTo 64 buf).drop 8
    ++ padTo (64 * ceilDiv payload.length 64) payload

/-- A frame joins the queue of a Landing or Slipway port (R312, R331). -/
def queueFrame (s : State) (slip : Bool) (port : Nat) (x : OutFrame) : State :=
  let p := s.ports
  { s with ports := if slip then { p with slipOut := Table.put p.slipOut port (Table.get [] p.slipOut port ++ [x]) }
                    else { p with landOut := Table.put p.landOut port (Table.get [] p.landOut port ++ [x]) } }

/-- Length of a job, as clamped. -/
def tenderLen (j : Job) : Nat := min 16777216 (j.fld 24 4)

/-- Does a range lie in the Span's Pontoon or in staging memory? -/
def tenderAddr (s : State) (j : Job) (a n : Nat) : Bool := inPon (berthSpan j.berth) a n || inStg s a n

/-- Does a range lie whole in the Pontoon of another Span? -/
def inOtherPon (j : Job) (a n : Nat) : Bool :=
  (List.finRange 16).any fun i => i != berthSpan j.berth && inPon i a n

/-- How a range stands to the secure partitions (R332). -/
inductive SecSide where
  /-- Whole in the secure partition of a Span. -/
  | within
  /-- Whole outside every one. -/
  | outside
  /-- Partly inside and partly outside. -/
  | across
  deriving DecidableEq

/-- The side of a range; of an empty one, the side of its address. -/
def secSide (a n : Nat) : SecSide :=
  if (List.finRange 16).any fun i => inSec i a n then .within
  else if (List.finRange 16).any fun i => touchesSecAt i a (max 1 n) then .across
  else .outside
where
  /-- Does a range touch the secure partition of Span `i`? -/
  touchesSecAt (i : SpanNo) (a n : Nat) : Bool :=
    decide (a < pontoonBase i + 0x800000) && decide (pontoonBase i + 0x600000 < a + n)

/-- Does an operation have a destination in memory? -/
def copies (op : Nat) : Bool := op == 0x10 || op == 0x11

/-- Does R332 allow the sides of source and destination? -/
def sidesOk (op : Nat) (src dst : SecSide) : Bool :=
  if copies op then (src == .within && dst == .within) || (src == .outside && dst == .outside)
  else if op = 0x20 then src != .across
  else src == .outside

/-- SESS_CTL of the job's session. -/
def jobSession (s : State) (j : Job) : W64 := s.hreg (0x108000 + j.fld 52 2 % 1024 * 0x20)

/-- Checks 1 to 5 of R333: false when the job has nothing to move. -/
def tenderHead (j : Job) : JobM Bool := do
  let op := jobOp .tender j
  let clamps : JobM Unit := do
    let _ ← jclamp .tender j 3 1 0 3
    if op ≠ 0 then
      let _ ← jclamp .tender j 24 4 0 16777216
  jhead .tender j clamps fun _ a n => inPon (berthSpan j.berth) a n
  if op = 0 then return false
  let s ← jget
  let n := tenderLen j
  let src := j.fld 8 8
  let dst := j.fld 16 8
  jref .tender j 8 8 (tenderAddr s j src n) 0x15 1
  if op = 0x10 then jref .tender j 16 8 (tenderAddr s j dst n) 0x15 2
  if op = 0x11 then jref .tender j 16 8 (inOtherPon j dst n) 0x15 2
  if op = 0x31 then jref .tender j 40 8 (j.fld 40 8 % 32 == 0 && tenderAddr s j (j.fld 40 8) 32) 0x15 3
  jcheck (sidesOk op (secSide src n) (secSide dst n)) 0x15 4
  if op = 0x20 then
    jref .tender j 48 2 (j.fld 48 2 / 64 == (berthSpan j.berth).val) 0x1A 1
    jref .tender j 50 1 (decide (j.fld 50 1 ≤ 3)) 0x1A 2
  if op = 0x30 ∨ op = 0x31 then
    jref .tender j 52 2 (decide (j.fld 52 2 < 1024) && tb (jobSession s j) 63 && fld (jobSession s j) 9 0 == j.berth.val) 0x19 0
  return n != 0

/-- Notes the bytes moved and the frames sent (R333). -/
def tenderCount (j : Job) (bytes frames : Nat) : JobM Unit := do
  let w ← get
  jrecord 4 (bytesOfNat 4 bytes ++ bytesOfNat 4 frames)
  jcount .tender j 2 5 (ceilDiv bytes 64 - ceilDiv (fieldAt w.mid 0 4) 64)

/-- COPY and SPAN.COPY: word by word in rising order, with a boundary before every 4,096 bytes. -/
def copyJob (j : Job) : JobM Unit := do
  if !(← tenderHead j) then return ()
  let n := tenderLen j
  let src := j.fld 8 8
  jloose .tender j [(j.fld 16 8, n)] [(src, n)] []
  let rec go : List (Nat × Nat) → JobM Unit
    | [] => pure ()
    | (a, k) :: t => do
      if begins4k (a - src) k then jstep .tender j (min 4096 (n - (a - src)))
      jwriteOut .tender j (jobOp .tender j == 0x11) (j.fld 16 8 + (a - src)) (← jread .tender j a k)
      tenderCount j (a - src + k) 0
      go t
  go (piecesOf false src (n + 1) 0 n)

/-- Ends a job that has sent all its frames: it completes later (R334, R385). -/
def tenderAwait : JobM Unit := do
  let w ← get
  throw (.await (if w.clamps = 0 then 0 else 1) 0)

/-- A job that fails after it has sent frames completes once they have left, as those that it reports as sent have (R334). -/
def afterFrames (m : JobM Unit) : JobM Unit :=
  tryCatch m fun x => match x with
    | .status st d => do
      if fieldAt (← get).mid 4 4 = 0 then throw x else throw (.await st d)
    | x => throw x

/-- Reads bytes `o` to `o + n - 1` of the source, with a boundary before every 4,096 bytes of it. -/
def tenderRead (j : Job) (o n : Nat) : JobM (List Byte) := do
  match ← jreadPart .tender j true (fun _ => pure ()) (tenderLen j) (piecesOf false (j.fld 8 8 + o) (n + 1) 0 n) o [] with
  | (l, none) => return l
  | (_, some (st, d)) => jfail st d

/-- LAND.SEND (R331). -/
def landSendJob (j : Job) : JobM Unit := afterFrames do
  if !(← tenderHead j) then return ()
  let n := tenderLen j
  let m := ceilDiv n 65472
  for i in List.range m do
    let k := min 65472 (n - 65472 * i)
    let l ← tenderRead j (65472 * i) k
    let x : OutFrame :=
      { beats := landFrame 2 (j.fld 50 1) (zeros 8 ++ bytesOfNat 8 (65472 * i)) l, kind := 2, dest := j.fld 48 2
        job := some (j.berth, j.seq), span := (berthSpan j.berth).val }
    jmod fun s => queueFrame s false (j.fld 50 1) x
    tenderCount j (65472 * i + k) (i + 1)
  tenderAwait

/-- Why a transport frame may not be sent (R314, R333). -/
def slipBad (proto : Nat) (l : List Byte) : Option Nat :=
  let ty := fieldAt l 0 1
  let ssp := proto == 1
  if proto = 0 ∨ !(if ssp then [0x06, 0x01, 0x16] else [0x27, 0x46, 0x58]).contains ty then some 1
  else if l.length % 4 ≠ 0 ∨ l.length < (if ssp then 28 else 4) ∨ (if ssp then 1048 else 8196) < l.length then some 2
  else none

/-- The beats of an outbound Slipway frame (R314). -/
def slipBeats (proto : Nat) (l : List Byte) : List Byte :=
  bytesOfNat 2 l.length ++ [BitVec.ofNat 8 proto] ++ zeros 61 ++ padTo (64 * ceilDiv l.length 64) l

/-- Sends a transport frame on the job's session, once it is judged. -/
def slipSend (j : Job) (l : List Byte) : JobM Unit := do
  let c := BitVec.ofNat 64 (← jask fun s => (jobSession s j).toNat)
  match slipBad (fld c 41 40) l with
  | some d => jfail 0x20 d
  | none =>
    let x : OutFrame :=
      { beats := slipBeats (fld c 41 40) l, kind := 1, dest := j.fld 52 2
        job := some (j.berth, j.seq), span := (berthSpan j.berth).val }
    jmod fun s => queueFrame s true (fld c 43 42) x

/-- SLIP.FRAME (R331). -/
def slipFrameJob (j : Job) : JobM Unit := afterFrames do
  if !(← tenderHead j) then return ()
  let l ← tenderRead j 0 (tenderLen j)
  slipSend j l
  tenderCount j l.length 1
  tenderAwait

/-- The header of a data frame after `sent` bytes (R331): of an SSP DATA frame 24 bytes with the Data Offset advanced, of a
Data FIS 4 bytes. -/
def slipHead (proto : Nat) (t : List Byte) (sent : Nat) : List Byte :=
  if proto = 1 then overlay (t.take 24) 20 (bytesOfNatBE 4 ((natOfBytesBE ((t.drop 20).take 4) + sent) % 2 ^ 32)) else t.take 4

/-- SLIP.DATA (R331). -/
def slipDataJob (j : Job) : JobM Unit := afterFrames do
  if !(← tenderHead j) then return ()
  let proto ← jask fun s => fld (jobSession s j) 41 40
  let n := tenderLen j
  let most := if proto = 1 then 1024 else 8192
  let m := ceilDiv n most
  let t ← jread .tender j (j.fld 40 8) 32
  for i in List.range m do
    let k := min most (n - most * i)
    let l ← tenderRead j (most * i) k
    slipSend j (slipHead proto t (most * i) ++ l)
    tenderCount j (most * i + k) (i + 1)
  tenderAwait

/-- Is a batch record in form (R384), for a job of `n` bytes? -/
def batchOk (l : List Byte) (n : Nat) : Bool :=
  fieldAt l 0 4 == 0x42545754 && decide (fieldAt l 4 2 ≤ 63) && fieldAt l 6 2 == 0 && decide (fieldAt l 8 4 ≤ 4095)
    && n == 128 + 4096 * fieldAt l 8 4 && fieldAt l 12 4 == 0 && (l.drop 64).all (· == 0)

/-- Charges the Berth's deficit without a boundary. -/
def jspend (cost : Nat) : JobM Unit :=
  modify fun w => { w with credit := (if w.credit < cost then w.credit + w.quantum else w.credit) - cost }

/-- Reads bytes of the source without a boundary. -/
def twinRead (j : Job) (o n : Nat) : JobM (List Byte) := do
  jspend n
  jreadBuf .tender j false (fun _ => pure ()) n (piecesOf false (j.fld 8 8 + o) (n + 1) 0 n)

/-- TWIN.SEND (R384, R385): a BATCH frame, then CELLS frames of two cells. Its frames leave with no other frame between them (R378), so
that the job, once it has begun, has no boundary (log entry 89). -/
def twinSendJob (j : Job) : JobM Unit := do
  if !(← tenderHead j) then return ()
  let n := tenderLen j
  jstep .tender j (min 4096 n)
  let v := (← jget).via
  jcheck (!v.superseded) 0x22 4
  jcheck (v.role == .lead && v.st == .paired) 0x22 1
  let l ← if n < 128 then pure [] else twinRead j 0 128
  jcheck (batchOk l n) 0x22 2
  jcheck (!v.hbLost) 0x22 3
  let cells := fieldAt l 8 4
  let m := ceilDiv cells 2
  let first := v.txSeq
  let send := fun (last : Bool) (ty : Nat) (body : List Byte) => jmod fun s =>
    if last then viaSendItem s ty body (.batch j.berth j.seq first) else viaSend s ty true body
  let now := (← jget).time.count
  send (m == 0) 0x20 (overlay (overlay l 76 (bytesOfNat 2 j.berth.val)) 80 (bytesOfNat 8 now.toNat))
  tenderCount j 128 1
  for i in List.range m do
    let k := 4096 * min 2 (cells - 2 * i)
    let c ← twinRead j (128 + 8192 * i) k
    send (i + 1 == m) 0x21 c
    tenderCount j (128 + 8192 * i + k) (i + 2)
  tenderAwait

/-- NOP of the Tender. -/
def tenderNop (j : Job) : JobM Unit := do
  let _ ← tenderHead j

/-- Has a frame of a job not left yet, or not been acknowledged? -/
def framesOut (s : State) (j : Job) : Bool :=
  let mine := fun (t : Table (List OutFrame)) => t.any fun e => e.2.any fun x => x.job == some (j.berth, j.seq)
  mine s.ports.landOut || mine s.ports.slipOut || s.via.items.any fun e => match e.2 with
    | .batch b q _ => b == j.berth && q == j.seq
    | _ => false

/-- The job of Berth `b` that has sent all it had completes at once when its frames had left before it ended. -/
def sentJobs (s : State) (i : SpanNo) : State :=
  ((s.span i).unit .tender).jobs.foldl (fun s j =>
    match j.await with
    | some w => if !w.ready && !framesOut s j then completeAwaiting s j.berth j.seq none none else s
    | none => s) s

/-- The meaning of a Tender row. -/
def tenderRow (b : BerthNo) (op : Nat) (m : Job → JobM Unit) (s : State) : State :=
  sentJobs (jobRow .tender b op (zeros 26) m s) (berthSpan b)

/-- TENDER_NOP. -/
def execTenderNop (b : BerthNo) (s : State) : Host.Outcome State Fault Refusal :=
  .next (tenderRow b 0 tenderNop s)
/-- COPY. -/
def execCopy (b : BerthNo) (s : State) : Host.Outcome State Fault Refusal := .next (tenderRow b 0x10 copyJob s)
/-- SPAN_COPY. -/
def execSpanCopy (b : BerthNo) (s : State) : Host.Outcome State Fault Refusal := .next (tenderRow b 0x11 copyJob s)
/-- LAND_SEND. -/
def execLandSend (b : BerthNo) (s : State) : Host.Outcome State Fault Refusal :=
  .next (tenderRow b 0x20 landSendJob s)
/-- SLIP_FRAME. -/
def execSlipFrame (b : BerthNo) (s : State) : Host.Outcome State Fault Refusal :=
  .next (tenderRow b 0x30 slipFrameJob s)
/-- SLIP_DATA. -/
def execSlipData (b : BerthNo) (s : State) : Host.Outcome State Fault Refusal :=
  .next (tenderRow b 0x31 slipDataJob s)
/-- TWIN_SEND: a CKPT that waits for the job may go on when the job fails at once. -/
def execTwinSend (b : BerthNo) (s : State) : Host.Outcome State Fault Refusal :=
  .next (ckptPump (tenderRow b 0x40 twinSendJob s))

/-- OUTBOUND_FRAME_SENT (R312, R334, R410): the first frame of a port's queue has left whole. A Tender job whose last frame it
was completes; a Berth that waits for room in the buffer is woken by BERTH_WAKE. -/
def execOutboundFrameSent (slip : Bool) (port : BitVec 2) (s : State) : Host.Outcome State Fault Refusal :=
  let p := port.toNat
  let q := Table.get [] (if slip then s.ports.slipOut else s.ports.landOut) p
  if flagAt (if slip then s.ports.slipRst else s.ports.landRst) p || !s.portsUp then .next s
  else match q with
    | [] => .next s
    | x :: t =>
      let s := { s with ports := if slip then { s.ports with slipOut := Table.put s.ports.slipOut p t }
                                 else { s.ports with landOut := Table.put s.ports.landOut p t } }
      let n := x.beats.length / 64
      let s := if slip then countBlock s 2 (4 + p) n else countBlock s 1 (4 + p) n
      match x.job with
      | none => .next s
      | some (b, seq) => .next (if t.any fun y => y.job == x.job then s else completeAwaiting s b seq none none)

end Sys2Proof.Machine
end

