-- ==== Sys2Proof/Machine/Units.lean ====
section
/-!
DEFINITION. What the units and the Tender do other than carry a job to its end: the change of jobs at a boundary (R80, R81, R132, R168,
R333), the stop at Holding (R444), and the jobs that a reset cuts off (R76, R103).
-/
namespace Sys2Proof.Machine

/-- The record of a unit's jobs as they begin. -/
def jobMid (e : Engine) : List Byte :=
  match e with
  | .truss => trussMid
  | .sealU => sealMid
  | _ => zeros 26

/-- What a job does (R63, R120, R147, R159, R331). -/
def jobProgram (e : Engine) (j : Job) : JobM Unit :=
  match e with
  | .truss =>
    (match jobOp e j with
     | 0x01 => geoReg j
     | 0x02 => geoDel j
     | 0x03 => geoRead j
     | 0x10 => encFull j
     | 0x11 => encGroup j
     | 0x20 => repLocal j
     | 0x21 => repGlobal j
     | 0x22 => repTest j
     | 0x30 => xcode j
     | 0x40 => scrubPar j
     | 0x41 => scrubGroup j
     | 0x80 => cofferAcc j
     | 0x81 => cofferFold j
     | 0x82 => cofferRelease j
     | 0x83 => cofferSnap j
     | 0x84 => cofferLoad j
     | _ => trussNop j)
  | .sealU => sealJob j
  | .cmpr =>
    (match jobOp e j with
     | 0x10 => zstdCompJob j
     | 0x11 => zstdDecompJob j
     | 0x12 => zstdDecompJob j
     | 0x20 => deflateJob j
     | _ => cmprNop j)
  | .hash => hashJob j
  | .tender =>
    (match jobOp e j with
     | 0x10 => copyJob j
     | 0x11 => copyJob j
     | 0x20 => landSendJob j
     | 0x30 => slipFrameJob j
     | 0x31 => slipDataJob j
     | 0x40 => twinSendJob j
     | _ => tenderNop j)

/-- A job goes on until it has passed `left` boundaries. -/
def advance (s : State) (e : Engine) (j : Job) (left : Option Nat) : Except Stop Unit × JobRun :=
  goOn s e j (jobMid e) (jobProgram e j) left

/-- Has the job stopped at a boundary? -/
def pauses (r : Except Stop Unit × JobRun) : Bool :=
  match r.1 with
  | .error .pause => true
  | _ => false

/-- A job that stops at some boundary still before it: how many it passes first is free, as the instant of the change is (log entry 3).
None where it comes to no boundary any more. -/
def toBoundary (s : State) (e : Engine) (j : Job) : Option JobRun :=
  let r := advance s.drawn e j (some (s.freeWord.toNat % 2 ^ 21))
  if pauses r then some r.2
  else
    let r := advance s.drawn e j (some 0)
    if pauses r then some r.2 else none

/-- A job of a more urgent class that could start and has no pipe (R80). -/
def overtaken (e : Engine) (u : UnitSched) (j : Job) : Bool :=
  u.jobs.any fun k => jobAble e u k && (pipeOf u k).isNone && jobSide e k == jobSide e j && jobClass k < jobClass j

/-- The job that a pipe works at. -/
def onPipe (u : UnitSched) (pipe : Nat) : Option Job :=
  (Table.find u.current pipe).bind fun q => u.jobs.find? fun j => j.seq == q

/-- The pipe's job is put aside where it stands, if a boundary has been reached at which the unit changes jobs: one of a more urgent class
waits, or the Berth's deficit is used up while another Berth waits (R80). -/
def leavePipe (i : SpanNo) (e : Engine) (j : Job) (s : State) : State :=
  let u := (s.span i).unit e
  let w :=
    if overtaken e u j then toBoundary s e j
    else if othersWait e u j then
      let r := advance s e j none
      if pauses r then some r.2 else none
    else none
  match w with
  | none => s
  | some w => countSpan (putAside e j w) i 4 2 (jobAcc e j).who none 1

/-- One pipe of a unit changes jobs: it takes up the next, once its own is put aside. -/
def changePipe (i : SpanNo) (e : Engine) (side : Nat) (s : State) (pipe : Nat) : State :=
  let s := match onPipe ((s.span i).unit e) pipe with
    | none => s
    | some j => leavePipe i e j s
  if (onPipe ((s.span i).unit e) pipe).isNone then takeNext i e side pipe s else s

/-- UNIT_JOB_CHANGE. -/
def execUnitJobChange (sp : SpanNo) (e : Engine) (s : State) : Host.Outcome State Fault Refusal :=
  .next (if unitsRun s then (sidesOf e).foldl (fun s side => (pipesOf e side).foldl (changePipe sp e side) s) s else s)

/-! ### Holding (R444) -/

/-- The five engines of a Span. -/
def engines : List Engine := [.truss, .sealU, .cmpr, .hash, .tender]

/-- A job stops at a boundary with its state saved; one that has none any more goes on to its end. -/
def stopJob (e : Engine) (j : Job) (s : State) : State :=
  match toBoundary s e j with
  | some w => putAside e j w
  | none => runJob s e j (jobMid e) (jobProgram e j)

/-- Every unit job under way stops at its next boundary. -/
def holdUnits (s : State) : State :=
  s.spans.foldl (fun s x => engines.foldl (fun s e =>
    (x.2.unit e).current.foldl (fun s c =>
      match onPipe ((s.span (spanOf x.1)).unit e) c.1 with
      | none => s
      | some j => stopJob e j s) s) s) s

/-! ### Jobs that are cut off (R76, R90, R101, R103) -/

/-- A job is cut off: what it had done by the last boundary that it passed stays done, and of its outputs a part may have been written. -/
def cutJob (e : Engine) (j : Job) (s : State) : State :=
  let r := advance s.drawn e j (some (s.freeWord.toNat % 2 ^ 21))
  let (s, p, _) := r.2.base
  if s.freeBit then (writeParts s.drawn e j ((p.map (·.parts)).getD [])).1 else s.drawn

/-- The jobs that a unit works at are cut off, and the jobs that it would have turned to next, had they begun by then. -/
def cutPipe (i : SpanNo) (e : Engine) (side : Nat) (s : State) (pipe : Nat) : State :=
  let u := (s.span i).unit e
  match onPipe u pipe with
  | some j => cutJob e j s
  | none =>
    match nextJob e u side with
    | none => s
    | some j => if s.freeBit then cutJob e j (takeUp i e pipe j s.drawn) else s.drawn

/-- Every job of a Span's units is cut off, and forgotten: no record is written and no bit set (R76). -/
def cutSpan (s : State) (i : SpanNo) : State :=
  if (s.span i).units.all fun u => u.2.jobs.isEmpty then s
  else
    let t := if unitsRun s then
        engines.foldl (fun s e => (sidesOf e).foldl (fun s side => (pipesOf e side).foldl (cutPipe i e side) s) s) s
      else s
    t.modSpan i fun x => { x with units := x.units.map fun u => (u.1, { u.2 with jobs := [], current := [] }) }

/-- Every job of the block is cut off. -/
def cutJobs (s : State) : State := s.spans.foldl (fun s x => cutSpan s (spanOf x.1)) s

end Sys2Proof.Machine
end

