-- ==== Sys2Proof/Machine/Power.lean ====
section
/-!
DEFINITION. Power states (R442 to R447), the start sequence and the resets (R449 to R453), the life cycle with its OTP writes
(R438, R439, R456 to R459), tamper (R460 to R463), the key port (R437), the block watchdog (R499) and the timebase's loss and
loads (R21, R432).
-/
namespace Sys2Proof.Machine

/-! ### Life cycle (R456, R459) -/

/-- A life-cycle code as the block takes it: codes above 4 are Scrapped (R439). -/
def lcCode (c : BitVec 3) : BitVec 3 := if 4 < c.toNat then 4 else c

/-- The recorded state (R456): the highest written word. -/
def lcRecorded (s : State) : BitVec 3 :=
  (List.range 4).foldl (fun a k => if 16 ≤ popc32 (s.otpWord (0x30 + k)) then BitVec.ofNat 3 (k + 1) else a) 0

/-- The block settles the state (R456). -/
def lcSettle (s : State) : State :=
  let r := lcRecorded s
  let p := lcCode s.lc.pin
  { s with lc := { s.lc with state := if r.toNat < p.toNat then p else r, mismatch := r != p } }

/-- Raises event 1,364 with flags in bits 7 and 6 (R459). -/
def lcEvent (s : State) (flags : Nat) : State :=
  let code := flags + s.lc.state.toNat
  raise { s with lc := { s.lc with last := BitVec.ofNat 8 code } } 1364 code

/-! ### The start sequence (R449) -/

/-- The state of the block as a block reset or, with `cold`, a cold reset leaves it, before the start sequence (R441, R451). The jobs
under way are cut off first; of a life-cycle change's reset a lock of the DRBG outlasts (R371). -/
def resetState (s : State) (cold : Bool) (cause : Nat) : State :=
  let r := State.reset
  let s := cutJobs s
  { r with
    pending := s.pending
    free := s.free
    time := if cold then { s.time with count := 0, armed := none, ticks := 0 } else s.time
    power := { s.power with st := .underWay, target := none, reason := 0, seq := [], fin := some .started, emul := 0 }
    lc := { s.lc with otpErr := false, last := 0, writes := [] }
    tamper := if cold then Tamper.reset else s.tamper
    rstCount := if cold then 0 else satAdd 16 s.rstCount 1
    rstCause := BitVec.ofNat 4 cause
    logs := Logs.reset
    mem := s.mem.filter fun c => stagingBase ≤ c.1 || (!cold && 0x20000000 ≤ c.1)
    poison := if cold then [] else s.poison.filter fun w => 0x20000000 ≤ 64 * w
    spans := if cold then [] else s.spans.map fun e =>
      (e.1, { Span.reset with pon := e.2.pon, bitsS := e.2.bitsS, bitsN := e.2.bitsN
                              cs0 := { e.2.cs0 with poison := [], flips := [] }, cs1 := { e.2.cs1 with poison := [], flips := [] } })
    ferries := if cold then [] else (List.finRange 256).map fun f =>
      (f.val, { Ferry.reset with cs := { (s.ferry f).cs with poison := [], flips := [] }, tickBase := s.time.ticks })
    keys := Keystone.reset
    ent := { Entropy.reset with st := if cause = 6 ∧ s.ent.st = .locked then .locked else .starting }
    via := { Viaduct.reset with linkUp := s.via.linkUp }
    ldr := (ldrReset s).ldr
    gw := { Gangway.reset with attached := s.gw.attached }
    ports := { Ports.reset with landRst := s.ports.landRst, slipRst := s.ports.slipRst, stgRst := s.ports.stgRst,
                                   vdRst := s.ports.vdRst, cpRst := s.ports.cpRst } }

/-- Steps 5 and 6 of R449: K_P is awaited unless the tamper hold is set, the entropy sources start, and the port serves. -/
def startEnd (s : State) : State :=
  { s with
    power := { s.power with st := .underWay, fin := none }
    lc := { s.lc with req := false }
    keys := { s.keys with kpWait := !s.tamper.hold, since := s.time.ticks }
    ent := { Entropy.reset with dead := s.tamper.hold, st := if s.ent.st = .locked then .locked else .starting } }

/-- Steps 2 to 4 of R449, and 5 and 6 when no life-cycle change waits for its OTP write. -/
def startSequence (s : State) : State :=
  let s := raiseAny (lcSettle s) 1370
  match s.lc.latch with
  | none => startEnd s
  | some t => otpStart s [(.lifeCycle, 0x2F + t.toNat, 0xFFFFFFFF)]

/-- A block reset (R450, R451). -/
def blockReset (s : State) (cause : Nat) : State := startSequence (resetState s false cause)

/-! ### Supply lines (R440) -/

/-- The block drives the next line of the sequence under way, passing those already settled; `lineEnd` follows the last. -/
def driveLines (lineEnd : PowerEnd → State → State) : List (Nat × Bool) → State → State
  | [], s =>
    let s := { s with power := { s.power with seq := [] } }
    (match s.power.fin with
     | none => s
     | some f => lineEnd f s)
  | (l, v) :: t, s =>
    if s.power.req.getLsbD l = v ∧ s.power.ack.getLsbD l = v then driveLines lineEnd t s
    else
      let m : BitVec 4 := 1#4 <<< l
      { s with power := { s.power with req := if v then s.power.req ||| m else s.power.req &&& ~~~m, seq := (l, v) :: t } }

/-- The block is Laid up: only the always-on domain remains (R442, R447). -/
def laidUp (s : State) : State :=
  let r := resetState s true s.rstCause.toNat
  { r with tamper := s.tamper, rstCount := s.rstCount, power := { s.power with st := .laidUp, target := none, fin := none, seq := [] } }

/-- A source at the start of another start-up test: what its registers show of failures before stays (R373). -/
def restartEddy (x : Eddy) : Eddy := { Eddy.reset with why := x.why, rct := x.rct, apt := x.apt }

/-- The entropy machinery starts again at step 1 of R364, a lock and what its registers show kept (R371). -/
def entropyRestart (s : State) : State :=
  let e := s.ent
  { s with ent := { e with
    e0 := restartEddy e.e0, e1 := restartEddy e.e1, gather := [], seed := none, key := [], v := [], served := 0, retest := false
    retestRan := false, st := if e.st = .locked then .locked else if e.dead then .stopped else .starting } }

/-- The end of a wake (R446 step 5): with a tamper response owed (R463), its event follows. -/
def wakeEnd (s : State) : State :=
  let s := { s with power := { s.power with st := .holding, target := none, fin := none }, lc := { s.lc with req := false } }
  let s := lcEvent (raise s 1362 2) 0
  match s.tamper.owed with
  | none => s
  | some c => raise { s with tamper := { s.tamper with owed := none } } 1347 c

/-- What follows the last line of a sequence, but for the lines that a restored block still has to drive. -/
def lineEnd0 (e : PowerEnd) (s : State) : State :=
  match e with
  | .moored => { s with power := { s.power with st := .moored, target := none, fin := none } }
  | .laidUp => laidUp s
  | .restored => s
  | .woken => wakeEnd s
  | .started => startSequence s

/-- What follows the last line of a sequence. -/
def lineEnd (e : PowerEnd) (s : State) : State :=
  match e with
  | .restored =>
    let s := entropyRestart { s with power := { s.power with st := .holding, fin := some .woken } }
    driveLines lineEnd0 [(3, true)] s
  | e => lineEnd0 e s

/-- Starts a sequence of lines. -/
def startLines (s : State) (l : List (Nat × Bool)) (fin : PowerEnd) : State :=
  driveLines lineEnd l { s with power := { s.power with fin := some fin } }

/-- A cold start (R441, R449): the supplies, and then the start sequence. -/
def coldStart (s : State) (cause : Nat) : State :=
  startLines (resetState s true cause) [(2, true), (1, true), (0, true), (3, true)] .started

/-! ### Power commands (R443 to R447, R497) -/

/-- Code of a power state. -/
def powerCode : PowerSt → Nat
  | .underWay => 1
  | .holding => 2
  | .moored => 3
  | .laidUp => 4

/-- Is any lifeboat set of any Ferry occupied? -/
def anyLifeboat (s : State) : Bool := s.ferries.any fun e => e.2.lbS.occ || e.2.lbN.occ

/-- Do MOORED and LAID_UP only emulate (R497)? -/
def emulates (s : State) : Bool := s.gw.attached && tb (s.hreg 0x5F0000) 1

/-- A refused power command (R443). -/
def powerRefuse (s : State) (r : Nat) : State :=
  raiseAny { s with power := { s.power with reason := BitVec.ofNat 8 r } } 1363

/-- Steps 1 and 2 of R445. -/
def moorEngines (s : State) : State :=
  let s := s.berths.foldl (fun s e => if e.2.st = .running then leaveReady s (berthOf e.1) else s) s
  let s := viaBreak s none
  { s with ent := { s.ent with
    st := if s.ent.st = .locked then .locked else .starting, key := [], v := [], served := 0, seed := none, gather := [] } }

/-- LAID_UP from Holding (R447). -/
def layUp (s : State) : State :=
  let s := leavePaired (keystoneWipe s) .unpaired
  let s := { s with via := { Viaduct.reset with linkUp := s.via.linkUp }, ent := { Entropy.reset with dead := s.ent.dead } }
  let s := allSpans.foldl (fun s i => rawClear s (pontoonBase i + 0x600000) (pontoonBase i + 0x800000)) s
  if emulates s then { s with power := { s.power with st := .laidUp, emul := 4 } }
  else startLines { s with power := { s.power with target := some .laidUp } } [(3, false), (1, false), (0, false), (2, false)] .laidUp

/-- MOORED from Holding (R445). -/
def moor (s : State) : State :=
  let s := moorEngines s
  if emulates s then { s with power := { s.power with st := .moored, emul := 3 } }
  else startLines { s with power := { s.power with target := some .moored } } [(3, false), (1, false), (0, false)] .moored

/-- POWER_CMD (R443). -/
def powerCmd (s : State) (c : Nat) : State :=
  if s.power.emul ≠ 0 then powerRefuse s 1
  else if s.power.target.isSome then powerRefuse s 2
  else if s.lc.latch.isSome then powerRefuse s 4
  else match s.power.st, c with
    | .underWay, 1 => s
    | .underWay, 2 => { s with power := { s.power with target := some .holding } }
    | .holding, 1 => raise { s with power := { s.power with st := .underWay } } 1362 1
    | .holding, 2 => s
    | .holding, 3 => if anyLifeboat s then powerRefuse s 3 else moor s
    | .holding, 4 => layUp s
    | _, _ => powerRefuse s 1

/-- Has every engine stopped (R444)? Slack water and LOCK holds are closed, and no KEY, PK or RND operation is in progress. -/
def enginesStopped (s : State) : Bool :=
  s.tamper.hold || s.berths.all fun e =>
    (e.2.st != .running || (!e.2.ctx.slack && e.2.ctx.lock.isNone) || onHalted s e.2) &&
    (match e.2.wait with
     | .key (.done _) => true
     | .key _ => false
     | .rnd _ _ => false
     | _ => true)

/-- UNDER_WAY. -/
def execUnderWay (s : State) : Host.Outcome State Fault Refusal := .next (cpDo s (powerCmd · 1))
/-- HOLDING. -/
def execHolding (s : State) : Host.Outcome State Fault Refusal := .next (cpDo s (powerCmd · 2))
/-- MOORED. -/
def execMoored (s : State) : Host.Outcome State Fault Refusal := .next (cpDo s (powerCmd · 3))
/-- LAID_UP. -/
def execLaidUp (s : State) : Host.Outcome State Fault Refusal := .next (cpDo s (powerCmd · 4))

/-- HOLDING_REACHED. -/
def execHoldingReached (s : State) : Host.Outcome State Fault Refusal :=
  if s.power.st == .underWay && s.power.target == some .holding && enginesStopped s then
    let s := holdUnits s
    .next (raise { s with power := { s.power with st := .holding, target := none } } 1362 2)
  else .next s

/-- POWER_ACK: the carrier settles a line that the block has changed (R440). -/
def execPowerAck (line : BitVec 2) (level : Bool) (s : State) : Host.Outcome State Fault Refusal :=
  let l := line.toNat
  if s.power.good && s.power.req.getLsbD l == level && s.power.ack.getLsbD l != level then
    let m : BitVec 4 := 1#4 <<< l
    let s := { s with power := { s.power with ack := if level then s.power.ack ||| m else s.power.ack &&& ~~~m } }
    .next (driveLines lineEnd s.power.seq s)
  else .next s

/-- A wake (R446), real or emulated (R497). -/
def wake (s : State) : State :=
  let s := { s with lc := { s.lc with req := true } }
  if s.power.emul = 3 then wakeEnd (entropyRestart { s with power := { s.power with emul := 0 } })
  else startLines { s with power := { s.power with target := some .holding } } [(0, true), (1, true)] .restored

/-- Is the block Moored, real or emulated, with no sequence under way? -/
def isMoored (s : State) : Bool := s.power.good && s.power.st == .moored && s.power.target.isNone

/-- WAKE. -/
def execWake (s : State) : Host.Outcome State Fault Refusal := .next (if isMoored s then wake s else s)

/-- POWER_LOSS: AO_PWR_GOOD falls without permission (R440). It is high only while the core has power. -/
def execPowerLoss (s : State) : Host.Outcome State Fault Refusal :=
  .next (if s.power.good then (fun (s : State) => { s with power := { s.power with good := false } }) (cutJobs s) else s)

/-- POWER_RETURN: the block starts cold (R440, R450). -/
def execPowerReturn (s : State) : Host.Outcome State Fault Refusal :=
  .next (if s.power.good then s else coldStart { s with power := { s.power with good := true } } 1)

/-- COLD_RESET (R441): from Laid up, the cause is leaving it. -/
def execColdReset (s : State) : Host.Outcome State Fault Refusal :=
  .next (coldStart { s with power := { s.power with good := true } } (if s.power.st = .laidUp then 2 else 0))

/-- RESET_REQ (R441): it is sampled while the core is under power, and not in an emulated sleep, which it does not end (R497). -/
def execResetReq (s : State) : Host.Outcome State Fault Refusal :=
  .next (if s.power.good && (s.power.st == .underWay || s.power.st == .holding) then blockReset s 4 else s)

/-- BLOCK_RESET: an emulated sleep ends by the wake or a cold reset only (R497). -/
def execBlockReset (s : State) : Host.Outcome State Fault Refusal :=
  .next (cpDo s fun s => if s.power.emul = 0 then blockReset s 3 else s)

/-! ### Span and Ferry resets (R451 to R453) -/

/-- A register's name goes from the table of stored registers: it reads its reset value again. -/
def clearRegs (s : State) (h : Nat → Bool) : State := { s with hregs := s.hregs.filter fun e => !h e.1 }

/-- A Span reset (R451, R453). -/
def spanReset (s : State) (i : SpanNo) : State :=
  let s := if s.via.role == .mirror && synced s then viaBreak s (some 0x10) else s
  let s := cutSpan s i
  let x := s.span i
  let mine := fun (b : BerthNo) => berthSpan b == i
  let s := s.setSpan i { Span.reset with
    pon := x.pon, bitsS := x.bitsS, bitsN := x.bitsN, cs0 := x.cs0, cs1 := x.cs1, csErr := x.csErr, pilotFault := x.pilotFault
    hashes := x.hashes.filter fun e => !inAnySecure e.1 }
  let s := rawClear s (pontoonBase i + 0x600000) (pontoonBase i + 0x800000)
  let s := (berthsOf i).foldl (fun s b =>
    let y := s.berth b
    s.setBerth b { Berth.reset with drops := y.drops, refused := y.refused, acause := y.acause }) s
  let s := (ferriesOf i).foldl (fun s f =>
    let y := s.ferry f
    (forgetAccess s f.val).setFerry f { 
      Ferry.reset with agr := y.agr, refloat := y.refloat, tickBase := y.tickBase, cs := y.cs, csErr := y.csErr }) s
  let o := 0x510000 + i.val * 0x100
  let s := clearRegs { s with cnts := s.cnts.filter fun e => !(o ≤ e.1 && e.1 < o + 0x100) } fun k => o ≤ k && k < o + 0x100
  { s with
    ent := { s.ent with waits := s.ent.waits.filter fun w => !mine w.berth }
    barriers := (s.barriers.map fun e => (e.1, { e.2 with arrived := e.2.arrived.filter fun b => !mine b })).filter
      fun e => !e.2.arrived.isEmpty
    ports := { s.ports with
      stgWrites := s.ports.stgWrites.filter fun w => w.span != i.val
      outst := s.ports.outst.filter fun x => x.span != i.val
      busy := s.ports.busy.filter fun e => !(256 + 8 * i.val ≤ e.1 && e.1 < 264 + 8 * i.val) }
    keys := { s.keys with pkQueue := s.keys.pkQueue.filter fun b => !b.any mine }
    via := { s.via with
      lags := s.via.lags.filter fun e => !mine (berthOf e.1)
      items := s.via.items.filter fun e => match e.2 with
      | .batch b _ _ => !mine b
      | .ckpt b => !mine b
      | _ => true } }

/-- The part of a Ferry reset that follows the dispatch it waits for (R452). A gate in progress is discarded with its save area: the
Berth stays in the callee's context, in which no gate is open any more (R252, log entry 90). -/
def ferryResetNow (s : State) (f : FerryNo) : State :=
  let s := match (s.ferry f).berth with
    | none => s
    | some b => (leaveFerry s b .parked .none).modBerth b fun x =>
        { x with cmd := none, gate := none, ctx := { x.ctx with gate := false }, img := { x.img with gate := false } }
  let y := s.ferry f
  (forgetAccess s f.val).setFerry f { Ferry.reset with refloat := true, tickBase := s.time.ticks, cs := y.cs, csErr := y.csErr }

/-- Does a Ferry reset have to wait for a dispatch: a LOCK hold is open, or an operation holds the Ferry? -/
def ferryBusy (s : State) (f : FerryNo) : Bool :=
  match (s.ferry f).berth with
  | none => false
  | some b => (s.ctx b).lock.isSome || (s.berth b).wait != .none

/-- A Ferry reset (R452, R496). -/
def ferryReset (s : State) (f : FerryNo) : State :=
  let s := s.modFerry f fun y => { y with halt := .run, hcause := 0 }
  if ferryBusy s f then s.modFerry f fun y => { y with resetReq := true } else ferryResetNow s f

/-- SPAN_RESET. -/
def execSpanReset (sp : SpanNo) (s : State) : Host.Outcome State Fault Refusal := .next (cpDo s (spanReset · sp))

/-- FERRY_RESET. -/
def execFerryReset (f : FerryNo) (s : State) : Host.Outcome State Fault Refusal := .next (cpDo s (ferryReset · f))

/-! ### Life-cycle changes and OTP (R438, R457, R458) -/

/-- Is the change of state legal (R457)? -/
def lcLegal (s : State) (t : BitVec 3) : Bool :=
  decide (t.toNat ≤ 4) && s.lc.latch.isNone && s.power.st != .moored && s.lc.state != 4
    && (t == s.lc.state + 1 || t == 4)

/-- LIFE_CYCLE_CHANGE. In Moored a request for the current state is the wake (R446). -/
def execLifeCycleChange (target : BitVec 3) (lcState : BitVec 3) (s : State) : Host.Outcome State Fault Refusal :=
  if !s.power.good then .next s
  else if isMoored s && target == s.lc.state then .next (wake s)
  else if lcLegal s target then
    let s := { s with lc := { s.lc with latch := some target, pinNext := lcState, req := true } }
    .next (if s.power.st == .laidUp then s
           else blockReset s 6)
  else .next (lcEvent s 0x80)

/-- The OTP access under way ends; the next begins. -/
def otpNext (s : State) : State := { s with lc := { s.lc with writes := s.lc.writes.drop 1, since := s.time.ticks } }

/-- A write fails (R284, R285, R438, R458): the others of its job are not made. -/
def otpFail (s : State) (j : OtpJob) : State :=
  let s := { s with lc := { s.lc with writes := s.lc.writes.filter fun w => decide (w.1 ≠ j), since := s.time.ticks } }
  match j with
  | .lifeCycle =>
    startEnd (lcEvent (raiseAny { s with lc := { s.lc with latch := none, otpErr := true } } 1365) 0xC0)
  | _ => { s with ldr := { s.ldr with otpErr := true } }

/-- OTP_ACK: a write is read back (R438). -/
def execOtpAck (readback : W32) (s : State) : Host.Outcome State Fault Refusal :=
  match s.lc.writes with
  | [] => .next s
  | (j, a, v) :: _ =>
    let s := { s with lc := { s.lc with otp := Table.put s.lc.otp a readback } }
    if readback &&& v ≠ v then .next (otpFail s j)
    else
      let s := otpNext s
      match j with
      | .lifeCycle =>
        let s := lcSettle { s with lc := { s.lc with pin := s.lc.pinNext, latch := none } }
        .next (startEnd (lcEvent (raiseAny s 1365) 0))
      | _ => .next { s with ldr := { s.ldr with otpErr := false } }

/-- OTP_TIMEOUT (R438). -/
def execOtpTimeout (s : State) : Host.Outcome State Fault Refusal :=
  match s.lc.writes with
  | [] => .next s
  | (j, _, _) :: _ =>
    let s := passUntil s.lc.since 10000000 s
    .next (if s.lc.since + 10000000 ≤ s.time.ticks then otpFail s j else s)

/-! ### The key port (R437) -/

/-- KEY_IN_TRANSFER. -/
def execKeyInTransfer (kp : BitVec 256) (s : State) : Host.Outcome State Fault Refusal :=
  .next (if s.keys.kpWait && s.power.good then takeKp s (bytesOfNat 32 kp.toNat) else s)

/-- KEY_IN_TIMEOUT. -/
def execKeyInTimeout (s : State) : Host.Outcome State Fault Refusal :=
  if s.keys.kpWait then
    let s := passUntil s.keys.since 1000000 s
    .next (if s.keys.since + 1000000 ≤ s.time.ticks then { s with keys := { s.keys with kpWait := false } } else s)
  else .next s

/-! ### Tamper (R460 to R463) -/

/-- Every secure partition is cleared (R327). -/
def clearSecure (s : State) : State :=
  allSpans.foldl (fun s i => rawClear s (pontoonBase i + 0x600000) (pontoonBase i + 0x800000)) s

/-- Every Ferry that is not aground is halted at once (R461 step 2, R496). -/
def haltAll (s : State) : State :=
  allFerries.foldl (fun s f =>
    if (s.ferry f).agr.aground then s
    else s.modFerry f fun y => { y with halt := .halted, step := false, stepMask := false }) s

/-- The pairing is Broken at once; no engine does anything about what waited for it. -/
def viaStop (s : State) : State :=
  if pairingAlive s then { s with via := { s.via with
      st := .broken, items := [], lags := [], batch := none, ckpt := none, sync := [], parting := none, detachAt := none
      linkKeys := [] } }
  else s

/-- Wipes the Keystone, zeroises the DRBG and clears the secure partitions. -/
def tamperWipe (s : State) : State :=
  let s := keystoneWipe s
  clearSecure { s with ent := { s.ent with
    st := if s.ent.st = .locked then .locked else .stopped, key := [], v := [], served := 0, seed := none, gather := []
    waits := [], dead := true } }

/-- The tamper response to a cause of event code `c` (R460, R461, R463): `mark` latches the cause. -/
def tamper (s : State) (c : Nat) (mark : Tamper → Tamper) : State :=
  let first := !s.tamper.hold
  let s := { s with tamper := mark s.tamper }
  if !first then s
  else
    let s := { s with tamper := { s.tamper with hold := true, time := s.time.count } }
    if s.power.st = .laidUp ∧ s.power.emul = 0 then s
    else if s.power.st = .moored ∧ s.power.emul = 0 then
      tamperWipe { s with tamper := { s.tamper with owed := some c } }
    else
      let s := raiseAny (tamperWipe (viaStop (cutJobs (haltAll s)))) 1370
      raise (raiseAny s 1365) 1347 c

/-- TAMPER_IN: the lowest line names the cause. -/
def execTamperIn (lines : Byte) (s : State) : Host.Outcome State Fault Refusal :=
  if lines = 0 then .next s
  else .next (tamper s (((List.range 8).find? fun i => lines.getLsbD i).getD 0) fun t => { t with lines := t.lines ||| lines })

/-- DUAL_RAIL_INVALID: in the block's own logic, or on KEY_IN. -/
def execDualRailInvalid (keyIn : Bool) (s : State) : Host.Outcome State Fault Refusal :=
  .next (if keyIn then tamper s 10 fun t => { t with keyin := true } else tamper s 8 fun t => { t with dualrail := true })

/-- KEY_PATH_TIMEOUT: on a key path of the block, or on KEY_IN, where it is an invalid code (R437). -/
def execKeyPathTimeout (keyIn : Bool) (s : State) : Host.Outcome State Fault Refusal :=
  .next (if keyIn then tamper s 10 fun t => { t with keyin := true } else tamper s 9 fun t => { t with timeout := true })

/-! ### Timebase and block watchdog -/

/-- TIMEBASE_LOST (R21). -/
def execTimebaseLost (s : State) : Host.Outcome State Fault Refusal :=
  if ticking s then
    let s := s.berths.foldl (fun s e => slackExpire s (berthOf e.1)) { s with time := { s.time with lost := true } }
    .next (raiseAny s 1344)
  else .next s

/-- TIMEBASE_RETURN (R21). -/
def execTimebaseReturn (s : State) : Host.Outcome State Fault Refusal := .next { s with time := { s.time with lost := false } }

/-- TIMEBASE_LOAD_ARM (R432). -/
def execTimebaseLoadArm (value : W64) (s : State) : Host.Outcome State Fault Refusal :=
  .next (if ticking s then { s with time := { s.time with armed := some value } } else s)

/-- TIMEBASE_LOAD (R432): at this edge the count takes the armed value. -/
def execTimebaseLoad (s : State) : Host.Outcome State Fault Refusal :=
  match s.time.armed with
  | none => .next s
  | some v =>
    .next (if ticking s then passTicks 1 { s with time := { s.time with count := v - 1, armed := none } } else s)

/-- BLOCK_WATCHDOG_EXPIRY (R499). -/
def execBlockWatchdogExpiry (s : State) : Host.Outcome State Fault Refusal :=
  if bwCounts s then
    let s := passTicks s.gw.bwRem.toNat s
    if s.gw.bwRem = 0 ∧ ticking s then
      let s := raiseAny { s with gw := { s.gw with bwExpired := true } } 1346
      .next (if tb (s.hreg 0x5F0020) 63 then blockReset s 5 else s)
    else .next s
  else .next s

end Sys2Proof.Machine
end

