-- ==== Sys2Proof/Machine/RegRead.lean ====
section
/-!
DEFINITION. What a read of a register of the host window returns (R465 to R473), and the side effects of a take (R484).
-/
namespace Sys2Proof.Machine

/-! ### Identity and features -/

/-- FEATn and MCVER, n = 8 being MCVER (R199 to R202): the fields that an image supplies stand with the loader. -/
def featReg (s : State) (n : Nat) : W64 :=
  match n with
  | 0 => s.ldr.feat0
  | 1 => 0xF0FFF
  | 2 => 0xF87
  | 3 => 0x401208488820
  | 4 => s.ldr.feat4
  | 5 => s.ldr.feat5
  | 8 => setFld s.ldr.mcver 31 16 1
  | _ => 0

/-- The identity area (R469). -/
def readIdentity (s : State) (o : Nat) : W64 :=
  if o = 0 then 0x0000040154530100
  else if o = 8 then 0x000C040400401010
  else if o = 0x10 then s.time.count
  else featReg s ((o - 0x40) / 8)

/-! ### Power, reset, life cycle and tamper -/

/-- POWER_STAT.state: the emulated state under sleep emulation. -/
def shownPower (s : State) : Nat := if s.power.emul = 0 then powerCode s.power.st else s.power.emul.toNat

/-- The power area (R464). -/
def readPower (s : State) (o : Nat) : W64 :=
  if o = 0x1008 then
    at' s.power.reason.toNat 39 32 ||| at' s.power.ack.toNat 15 12 ||| at' s.power.req.toNat 11 8
      ||| at' ((s.power.target.map powerCode).getD 0) 7 5 ||| atB s.power.target.isSome 4 ||| at' (shownPower s) 2 0
  else if o = 0x1010 then s.hreg o
  else if o = 0x1018 then at' s.rstCount 23 8 ||| at' s.rstCause.toNat 3 0
  else if o = 0x1020 then
    atB s.lc.latch.isSome 31 ||| atB s.tamper.hold 30 ||| atB s.lc.mismatch 29 ||| atB s.lc.otpErr 28
      ||| at' (s.lc.latch.getD 0).toNat 18 16 ||| at' s.lc.last.toNat 15 8 ||| at' s.lc.state.toNat 2 0
  else if o = 0x1028 then
    at' s.tamper.lines.toNat 15 8 ||| atB s.tamper.keyin 2 ||| atB s.tamper.timeout 1 ||| atB s.tamper.dualrail 0
  else if o = 0x1030 then s.tamper.time
  else 0

/-! ### Events and the clamp log -/

/-- An entry as EVT_FIFO shows it (R318). -/
def EvEntry.word (e : EvEntry) : W64 :=
  atB true 63 ||| at' e.count 62 56 ||| at' e.code 55 48 ||| at' e.source 42 32 ||| at' e.time.toNat 31 0

/-- IRQ_OUT[7:0]: line k is high while an entry waits whose source routes to it with irq = 1 (R318); all are low while CP_RST_N is
(R423). -/
def irqOut (s : State) : Nat :=
  if s.ports.cpRst then 0
  else s.logs.fifo.foldl (fun m e =>
    let r := evRoute s e.source
    if r.testBit 6 then m ||| (1 <<< (r % 8)) else m) 0

/-- The event area (R318). -/
def readEvents (s : State) (o : Nat) : W64 :=
  if o = 0x2000 then (s.logs.fifo.head?.map EvEntry.word).getD 0
  else if o = 0x2008 then at' (irqOut s) 23 16 ||| at' s.logs.fifo.length 10 0
  else if o = 0x2010 then 0
  else s.hreg o

/-- The clamp-log area (R481). -/
def readClamps (s : State) (o : Nat) : W64 :=
  let h := s.logs.clamps.head?
  if o = 0x3000 then
    (h.map fun e => atB true 63 ||| at' e.kind 55 52 ||| at' e.source 50 48 ||| at' e.field.toNat 31 0).getD 0
  else if o = 0x3008 then (h.map (·.written)).getD 0
  else if o = 0x3010 then (h.map (·.applied)).getD 0
  else if o = 0x3018 then (h.map (·.time)).getD 0
  else if o = 0x3020 then at' s.logs.lost 23 16 ||| at' s.logs.clamps.length 8 0
  else if o = 0x3028 then BitVec.ofNat 64 s.logs.count
  else 0

/-! ### A Span's own area -/

/-- Pool units that Berth `b` holds (R310). -/
def heldUnits (s : State) (b : BerthNo) : Nat :=
  let x := s.berth b
  ceilDiv (x.granted - x.consumed) 65536

/-- PILOT_POOL.free: pool units that no Berth holds. -/
def poolFree (s : State) (i : SpanNo) : Nat :=
  fld (s.hreg (spanOff i 0x808)) 5 0 - ((berthsOf i).map (heldUnits s)).sum

/-- AGROUND (R249). -/
def AgroundRec.word (x : AgroundRec) : W64 :=
  at' x.pc.toNat 63 32 ||| at' x.berth.toNat 31 22 ||| atB x.bare 21 ||| atB x.north 20 ||| at' x.cause.toNat 13 8
    ||| atB x.aground 0

/-- The register that GOP_TWIN of every Span's area names (R471). -/
def gopTwin : Nat := 0x010180

/-- Offset `x` of Span `i`'s area (R470). -/
def readSpan (s : State) (i : SpanNo) (x : Nat) : W64 :=
  let p := s.span i
  if x = 0 then BitVec.ofNat 64 i.val
  else if x = 0x180 then s.hreg gopTwin
  else if x = 0x188 ∨ x = 0x280 then 0
  else if 0x200 ≤ x ∧ x < 0x280 then (s.ferry (ferryOf (16 * i.val + (x - 0x200) / 8))).agr.word
  else if x = 0x808 then s.hreg (spanOff i x) ||| at' (poolFree s i) 21 16
  else if x = 0x900 then s.hreg (spanOff i x) ||| at' (64 - p.pon.spares.length) 46 40 ||| atB p.pon.shadow.isSome 32
  else if x = 0x908 then
    at' (Table.get 0 s.errs (errKey 0 i.val 0)) 63 32 ||| at' (Table.get 0 s.errs (errKey 0 i.val 1)) 31 16
      ||| at' (Table.get 0 s.errs (errKey 0 i.val 2)) 15 0
  else if x = 0x910 then
    let e := Table.get (false, 0) s.ponAddr i.val
    atB e.1 63 ||| at' (e.2 / 64) 22 6
  else if x = 0x918 then at' (Table.get 0 s.errs (errKey 0 i.val 3)) 63 32 ||| p.csErr.setWidth 64
  else if 0x980 ≤ x then ((s.ferry (ferryOf (16 * i.val + (x - 0x980) / 8))).csErr).setWidth 64
  else s.hreg (spanOff i x)

/-! ### Berth table -/

/-- Codes of the states of a Berth (R296). -/
def berthCode : BerthSt → Nat
  | .idle => 0
  | .ready => 1
  | .running => 2
  | .waiting => 3
  | .parked => 4
  | .aground => 5

/-- BTE_STAT.wkind (R300). -/
def waitKind : Wait → Nat
  | .none => 0
  | .unit .tender _ => 2
  | .unit _ _ => 1
  | .bit _ => 4
  | .bitT _ _ _ => 3
  | .bar _ _ _ => 5
  | .ckpt _ _ _ => 6
  | .key _ => 7
  | .rnd _ _ => 7
  | .post => 2
  | .fence _ => 0

/-- Register `x` of Berth `b`'s entry (R300). -/
def readBerth (s : State) (b : BerthNo) (x : Nat) : W64 :=
  let y := s.berth b
  if x = 0 then s.hreg (bteOff b 0)
  else if x = 8 then at' y.cons 63 43 ||| at' y.prod 42 22 ||| s.hreg (bteOff b 8)
  else if x = 0x10 then at' y.grants.toNat 63 32 ||| s.hreg (bteOff b 0x10) ||| at' (heldUnits s b) 4 0
  else
    at' y.drops.toNat 63 48 ||| at' (waitKind y.wait) 39 32
      ||| at' ((y.ferry.map fun f => f.val % 16).getD 0xFF) 31 24 ||| atB y.refused 16 ||| at' y.acause.toNat 15 8
      ||| at' (berthCode y.st) 2 0

/-! ### Tollgate -/

/-- Offset `x` of the Tollgate page of a world of Span `i` (R344, R354, R358). -/
def readToll (s : State) (i : SpanNo) (north : Bool) (x : Nat) : W64 :=
  let p := s.span i
  let t := p.toll north
  if x < 0x400 then mirroredValue s (tollOff i north + x)
  else if x = 0x408 then at' t.reason.toNat 7 4 ||| atB t.refused 2 ||| atB t.pending 1 ||| atB t.busy 0
  else if x = 0x410 then at' p.fenceEpoch.toNat 63 32 ||| atB p.fencePend 0
  else if x = 0x418 then p.epoch.setWidth 64
  else if x = 0x420 then atB t.vValid 63 ||| t.vAddr.setWidth 64
  else if x = 0x428 then t.vRec
  else if x = 0x430 then t.vCount.setWidth 64
  else 0

/-! ### Viaduct -/

/-- Codes of the pairing states (R374). -/
def pairCode : PairSt → Nat
  | .unpaired => 0
  | .pairing => 1
  | .syncing => 2
  | .paired => 3
  | .broken => 4
  | .detaching => 5

/-- The hash of this block's identity keys (R399): zero bytes while slots 2 and 3 are not both loaded. -/
def ownHash (s : State) : List Byte :=
  if hasIdentity s then sha3_256 ((identityKeys s).1 ++ (identityKeys s).2) else zeros 32

/-- The Viaduct area (R399). -/
def readViaduct (s : State) (o : Nat) : W64 :=
  let v := s.via
  if o = 0x300000 then 0
  else if o = 0x300010 then
    at' v.epoch.toNat 63 32 ||| at' v.reason.toNat 31 24 ||| atB v.linkUp 15 ||| atB v.eunc 14 ||| atB v.superseded 13
      ||| atB v.hbLost 12 ||| at' (roleCode v.role) 5 4 ||| at' (pairCode v.st) 3 0
  else if 0x300040 ≤ o ∧ o < 0x300060 then BitVec.ofNat 64 (fieldAt (ownHash s) (o - 0x300040) 8)
  else if o = 0x300070 then at' v.tagfail 63 48 ||| at' v.seqerr 47 32 ||| at' v.nRefused 31 16 ||| at' v.nacks 15 0
  else s.hreg o

/-! ### Entropy -/

/-- Codes of a source's condition (R373). -/
def srcStCode : SrcSt → Nat
  | .starting => 0
  | .enabled => 1
  | .disabled => 2

/-- Codes of the DRBG's condition (R373). -/
def drbgCode : DrbgSt → Nat
  | .starting => 0
  | .running => 1
  | .stopped => 2
  | .locked => 3

/-- The entropy area (R373). -/
def readEntropy (s : State) (o : Nat) : W64 :=
  let e := s.ent
  if o = 0x400008 then
    at' e.hstat.toNat 39 32 ||| at' (recentFails s) 17 16 ||| at' e.e1.why.toNat 15 14 ||| at' e.e0.why.toNat 13 12
      ||| atB e.refused 9 ||| atB e.retest 8 ||| at' (srcStCode e.e1.st) 7 6 ||| at' (srcStCode e.e0.st) 5 4
      ||| at' (drbgCode e.st) 3 0
  else if o = 0x400010 ∨ o = 0x400018 then s.hreg o
  else if o = 0x400028 then at' e.e1.apt 63 48 ||| at' e.e1.rct 47 32 ||| at' e.e0.apt 31 16 ||| at' e.e0.rct 15 0
  else 0

/-! ### Counters and run control -/

/-- TICK of Ferry `f` (R500). -/
def tickOf (s : State) (f : FerryNo) : W64 := BitVec.ofNat 64 (s.time.ticks - (s.ferry f).tickBase)

/-- Ferries that are halted. -/
def haltedCount (s : State) : Nat := (s.ferries.filter fun e => e.2.halt == .halted).length

/-- The counters area (R512, R513). -/
def readCounters (s : State) (o : Nat) : W64 :=
  if o < 0x520000 then if o % 16 = 8 then (Table.get 0 s.cnts o).setWidth 64 else s.hreg o
  else if o < 0x5F0000 then tickOf s (ferryOf ((o - 0x520000) / 8))
  else if o = 0x5F0008 then at' (haltedCount s) 16 8 ||| at' s.power.emul.toNat 3 1 ||| atB s.gw.attached 0
  else if o = 0x5F0028 then atB s.gw.bwExpired 32 ||| s.gw.bwRem.setWidth 64
  else if o = 0x5F0038 then s.gw.deny.setWidth 64
  else s.hreg o

/-! ### Loader and staging -/

/-- The loader area (R288). -/
def readLoader (s : State) (o : Nat) : W64 :=
  let l := s.ldr
  if o = 0x600008 then
    at' l.word 63 48 ||| at' l.engine 47 39 ||| atB l.otpErr 32 ||| at' l.reason.toNat 31 24 ||| at' (imageFloor s) 15 6
      ||| at' l.state 3 0
  else if o = 0x600000 ∨ 0x601000 ≤ o then 0
  else s.hreg o

/-- The staging area (R339). -/
def readStaging (s : State) (o : Nat) : W64 :=
  if o = 0x700000 then s.hreg o
  else if o = 0x700008 then BitVec.ofNat 64 (extentCount s - s.alloc.held.length)
  else if o < 0x701000 then
    let p := (o - 0x700100) / 8
    at' (Table.get 0 s.errs (errKey 0x1000 p 0)) 63 32 ||| at' (Table.get 0 s.errs (errKey 0x1000 p 1)) 31 0
  else if o % 0x20 = 0x10 then s.hreg o ||| at' (heldBy s ((o - 0x701000) / 0x20)) 49 32
  else 0

/-! ### Peek and take -/

/-- What a peek of the register at offset `o` returns: zero where there is none (R466). -/
def regPeek (s : State) (o : Nat) : W64 :=
  if !regExists o then 0
  else if o < 0x1000 then readIdentity s o
  else if o < 0x2000 then readPower s o
  else if o < 0x3000 then readEvents s o
  else if o < 0x10000 then readClamps s o
  else if o < 0x20000 then readSpan s (spanOf ((o - 0x10000) / 0x1000)) (o % 0x1000)
  else if o < 0x108000 then readBerth s (berthOf ((o - 0x100000) / 0x20)) (o % 0x20)
  else if o < 0x110000 then if o % 0x20 = 8 then s.hreg o &&& ones 47 6 else s.hreg o
  else if o < 0x210000 then readToll s (spanOf ((o - 0x200000) / 0x1000)) (0x800 ≤ o % 0x1000) (o % 0x800)
  else if o < 0x303800 then readViaduct s o
  else if o < 0x500000 then readEntropy s o
  else if o < 0x600000 then readCounters s o
  else if o < 0x700000 then readLoader s o
  else readStaging s o

/-- Clears the counters at the given keys. -/
def clearErrs (s : State) (ks : List Nat) : State := { s with errs := s.errs.filter fun e => !ks.contains e.1 }

/-- The side effects of a take in a Span's own area (R484). -/
def takeSpan (s : State) (i : SpanNo) (x : Nat) : State :=
  if x = 0x908 then clearErrs s [errKey 0 i.val 0, errKey 0 i.val 1, errKey 0 i.val 2]
  else if x = 0x910 then
    { s with ponAddr := Table.put s.ponAddr i.val (false, (Table.get (false, 0) s.ponAddr i.val).2) }
  else if x = 0x918 then (clearErrs s [errKey 0 i.val 3]).modSpan i fun p => { p with csErr := 0 }
  else if 0x980 ≤ x then s.modFerry (ferryOf (16 * i.val + (x - 0x980) / 8)) fun y => { y with csErr := 0 }
  else s

/-- An eddy source with its failure counts cleared. -/
def Eddy.cleared (x : Eddy) : Eddy := { x with rct := 0, apt := 0 }

/-- The side effects of a take: every RS and RC field of the register at once (R484). -/
def takeEffect (s : State) (o : Nat) : State :=
  if o = 0x1018 then { s with rstCount := 0 }
  else if o = 0x2000 then { s with logs := { s.logs with fifo := s.logs.fifo.drop 1 } }
  else if o = 0x3000 then { s with logs := { s.logs with clamps := s.logs.clamps.drop 1 } }
  else if o = 0x3020 then { s with logs := { s.logs with lost := 0 } }
  else if o = 0x3028 then { s with logs := { s.logs with count := 0 } }
  else if 0x10000 ≤ o ∧ o < 0x20000 then takeSpan s (spanOf ((o - 0x10000) / 0x1000)) (o % 0x1000)
  else if 0x100000 ≤ o ∧ o < 0x108000 then
    if o % 0x20 = 0x18 then s.modBerth (berthOf ((o - 0x100000) / 0x20)) fun x => { x with drops := 0 } else s
  else if 0x200000 ≤ o ∧ o < 0x210000 then
    let h := fun (f : Toll → Toll) => s.modSpan (spanOf ((o - 0x200000) / 0x1000)) fun x => x.modToll (0x800 ≤ o % 0x1000) f
    if o % 0x800 = 0x420 then h fun t => { t with vValid := false }
    else if o % 0x800 = 0x430 then h fun t => { t with vCount := 0 }
    else s
  else if o = 0x300070 then { s with via := { s.via with tagfail := 0, seqerr := 0, nRefused := 0, nacks := 0 } }
  else if o = 0x400028 then { s with ent := { s.ent with e0 := s.ent.e0.cleared, e1 := s.ent.e1.cleared } }
  else if 0x700100 ≤ o ∧ o < 0x700160 then
    clearErrs s [errKey 0x1000 ((o - 0x700100) / 8) 0, errKey 0x1000 ((o - 0x700100) / 8) 1]
  else s

/-- A take of the register at offset `o`: the value from before its side effects, and CP_ERR (R421, R466, R484). -/
def regTake (s : State) (o : Nat) : State × W64 × Bool :=
  if !regExists o then (s, 0, true)
  else if o = 0x400020 then takeRnd s
  else if 0x701000 ≤ o ∧ o % 0x20 = 0 then
    let r := stgAlloc s ((o - 0x701000) / 0x20)
    (r.1, r.2, false)
  else (takeEffect s o, regPeek s o, false)

/-- A take by the host at the control port, which drives CP_RDATA and CP_ERR. -/
def hostTake (s : State) (o : Nat) : State :=
  let r := regTake s (o % 0x1000000 / 8 * 8)
  { r.1 with ports := { r.1.ports with cpData := r.2.1, cpErr := r.2.2 } }

/-- DRBG_RND (R365). -/
def execDrbgRnd (s : State) : Host.Outcome State Fault Refusal := .next (cpDo s (hostTake · 0x400020))
/-- EVT_FIFO_TAKE (R318). -/
def execEvtFifoTake (s : State) : Host.Outcome State Fault Refusal := .next (cpDo s (hostTake · 0x2000))
/-- CLAMP_HEAD0_TAKE (R481). -/
def execClampHead0Take (s : State) : Host.Outcome State Fault Refusal := .next (cpDo s (hostTake · 0x3000))
/-- A read by the host with CP_PEEK = 1 (R420, R484): CP_RDATA and CP_ERR, without any side effect. -/
def hostPeek (s : State) (o : Nat) : State :=
  let o := o % 0x1000000 / 8 * 8
  { s with ports := { s.ports with cpData := regPeek s o, cpErr := !regExists o } }

/-- RC_COUNTER_TAKE (R483, R484): a read of the register at an offset, a take or with CP_PEEK = 1 a peek (R420). -/
def execRcCounterTake (read : HostRead) (s : State) : Host.Outcome State Fault Refusal :=
  .next (cpDo s fun s => match read with
    | .take o => hostTake s o
    | .peek o => hostPeek s o)
/-- STG_ALLOC_TAKE (R337). -/
def execStgAllocTake (n : SessionNo) (s : State) : Host.Outcome State Fault Refusal :=
  .next (cpDo s (hostTake · (0x701000 + n.val * 0x20)))

end Sys2Proof.Machine
end

