-- ==== Sys2Proof/Machine/RegWrite.lean ====
section
/-!
DEFINITION. What a write to a register of the host window does (R298, R422, R466, R474 to R477): its fields are judged from
the top down, all of them take effect at one instant, and then its actions start. The rows of the table that are register
accesses share these operations.
-/
namespace Sys2Proof.Machine

/-! ### Parts of a write -/

/-- The argument of a write-triggered field: formed from its enabled bytes, none when no byte of it is enabled (R422). -/
def wtArg (v : W64) (be : Byte) (hi lo : Nat) : Option Nat :=
  if beTouches be hi lo then some (fld (v &&& beMask be) hi lo) else none

/-- Does the write carry a 1 to a write-one-to-clear bit (R10)? -/
def w1c (v : W64) (be : Byte) (i : Nat) : Bool := tb (v &&& beMask be) i

/-- A command field with codes 0 to `mx`: a reserved code is replaced by none and logged (R474). -/
def cmdArg (s : State) (src : WSrc) (o : Nat) (v : W64) (be : Byte) (hi lo mx : Nat) : State × Nat :=
  match wtArg v be hi lo with
  | none => (s, 0)
  | some c =>
    if c ≤ mx then (s, c)
    else (clampLog s (srcCode src) 2 (fidReg o lo) (BitVec.ofNat 64 c) 0, 0)

/-- A field that keeps its old value, with an entry of kind `k`, when `keep` holds. -/
def condField (keep : Bool) (k : Nat) (f : FieldSpec) : FieldSpec :=
  if keep then { f with judge := fun acc _ => (fld acc f.hi f.lo, some k) } else f

/-- Is the write one that a Mirror ignores, since the register is mirrored (R392)? -/
def mirrorBars (s : State) (src : WSrc) (o : Nat) : Bool := mirrorBusy s && mirroredReg o && !isVia src

/-- A write whose register currently reads `old`: judged, or kept on a Mirror; the register as applied. -/
def judgeWrite (s : State) (src : WSrc) (o : Nat) (old v : W64) (be : Byte) (fs : List FieldSpec) : State × W64 :=
  if mirrorBars s src o then (keepFields s src 4 o old v be fs, old) else judgeFields s src o old v be fs

/-- A write of a register that only holds its fields. -/
def storeReg (s : State) (src : WSrc) (o : Nat) (v : W64) (be : Byte) (fs : List FieldSpec) : State :=
  let old := s.hreg o
  let r := judgeWrite s src o old v be fs
  viaConfigSend (r.1.setHreg o r.2) src o (beMerge old v be)

/-! ### Power, reset and life cycle (R464) -/

/-- RESET_CMD: the argument is judged when the command starts (R450, R477). -/
def resetCmd (s : State) (src : WSrc) (kind : Nat) : State :=
  let t := fld (s.hreg 0x1010) 15 8
  match kind with
  | 1 => if s.power.emul = 0 then blockReset s 3 else s
  | 2 => if t < 16 then spanReset s (spanOf t) else clampLog s (srcCode src) 3 (fidReg 0x1010 8) (BitVec.ofNat 64 t) 0
  | 3 => ferryReset s (ferryOf t)
  | 4 => linkFell s false
  | _ => s

/-- A write in the power area. -/
def writePower (s : State) (src : WSrc) (o : Nat) (v : W64) (be : Byte) : State :=
  if o = 0x1000 then
    let (s, c) := cmdArg s src o v be 2 0 4
    if c = 0 then s else powerCmd s c
  else if o = 0x1010 then
    let s := storeReg s src o v be [anyField 15 8]
    let (s, c) := cmdArg s src o v be 2 0 4
    resetCmd s src c
  else if o = 0x1020 then
    if w1c v be 28 then { s with lc := { s.lc with otpErr := false } } else s
  else s

/-! ### Events and clamp log -/

/-- A write in the event area: every byte of EVT_ROUTEn has fifo, irq and line (R318). -/
def writeEvents (s : State) (src : WSrc) (o : Nat) (v : W64) (be : Byte) : State :=
  if o = 0x2010 then { s with logs := { s.logs with fifo := [] } }
  else if 0x2100 ≤ o then
    storeReg s src o v be ((List.range 8).reverse.flatMap fun j => [anyField (8 * j + 7) (8 * j + 6), anyField (8 * j + 2) (8 * j)])
  else s

/-- A write in the clamp-log area. -/
def writeClamps (s : State) (o : Nat) : State :=
  if o = 0x3030 then { s with logs := { s.logs with clamps := [] } } else s

/-! ### A Span's own area -/

/-- GOP_MEMBERg of Span `i`: South-bank firmware changes no bit of a North-home Berth (R471). -/
def memberField (s : State) (src : WSrc) (i : SpanNo) : FieldSpec :=
  { hi := 63, lo := 0
    judge := fun old v =>
      if isSouthFw src then
        let m := (List.range 64).foldl (fun m j =>
          if (s.ctx (berthOf (64 * i.val + j))).home then setFld m j j (if tb old j then 1 else 0) else m) (BitVec.ofNat 64 v)
        (m.toNat, if m.toNat = v then none else some 5)
      else (v, none) }

/-- Starts the refloat of every Ferry of a Span that a mask names (R472). -/
def refloats (s : State) (i : SpanNo) (m : Nat) : State :=
  (List.finRange 16).foldl (fun s j => if m.testBit j.val then startRefloat s (spanFerry i j) else s) s

/-- The pace of a background test (R329): 0, or 1,000 to 1,000,000. -/
def paceField : FieldSpec :=
  { hi := 31, lo := 0
    judge := fun _ v =>
      if v = 0 then (0, none)
      else (clampTo 1000 1000000 v, if clampTo 1000 1000000 v = v then none else some 1) }

/-- PILOT_POOL.resv, at most units (R305). -/
def resvField : FieldSpec :=
  { hi := 12, lo := 8
    judge := fun acc v => (min v (fld acc 5 0), if v ≤ fld acc 5 0 then none else some 1) }

/-- A write at offset `x` of Span `i`'s area. -/
def writeSpan (s : State) (src : WSrc) (i : SpanNo) (x : Nat) (v : W64) (be : Byte) : State :=
  let o := spanOff i x
  if 0x100 ≤ x ∧ x < 0x180 then storeReg s src o v be [memberField s src i]
  else if x = 0x180 then
    let r := judgeFields s src o (s.hreg gopTwin) v be [anyField 15 0]
    r.1.setHreg gopTwin r.2
  else if x = 0x188 then
    match wtArg v be 15 0 with
    | some m => breakGroups s m
    | none => s
  else if x = 0x280 then
    match wtArg v be 15 0 with
    | some m => refloats s i m
    | none => s
  else if x = 0x800 then storeReg s src o v be [numField 31 0 1000 1000000]
  else if x = 0x808 then storeReg s src o v be [resvField, numField 5 0 0 32]
  else if x = 0x900 then storeReg s src o v be [paceField]
  else s

/-! ### Berth table and sessions -/

/-- The command that a code names. -/
def bcmdOf : Nat → Option BCmd
  | 1 => some .start
  | 2 => some .resume
  | 3 => some .park
  | 4 => some .unpark
  | 5 => some .stop
  | 6 => some .rehome
  | _ => none

/-- The cmd field of BTE_CTL: a REHOME by South-bank firmware is discarded and logged (R298); a mirrored write carries no
command (R392). -/
def bteCommand (s : State) (src : WSrc) (b : BerthNo) (v : W64) (be : Byte) : State :=
  let o := bteOff b 0
  if isVia src then s
  else
    let (s, c) := cmdArg s src o v be 3 0 6
    match bcmdOf c with
    | none => s
    | some k =>
      if isSouthFw src && k == .rehome then clampLog s (srcCode src) 5 (fidReg o 0) (BitVec.ofNat 64 c) 0
      else berthCmd s b k

/-- Does the entry of Berth `b` turn the writer away whole: South-bank firmware at a North-home Berth (R298)? -/
def entryBars (s : State) (src : WSrc) (b : BerthNo) : Bool := isSouthFw src && (s.ctx b).home

/-- The end of a ring: q + 1 units, or as many as the partition still holds (R300, R476). -/
def ringSize (s : State) (b : BerthNo) : Nat :=
  let w := s.hreg (bteOff b 8)
  (min (fld w 12 8) (31 - fld w 4 0) + 1) * 65536

/-- A written cons: a multiple of 64 from the old cons to prod in ring order, else the bound nearer in ring order (R300). -/
def consField (s : State) (b : BerthNo) : FieldSpec :=
  { hi := 63, lo := 43
    judge := fun _ v =>
      let n := ringSize s b
      let c := (s.berth b).cons
      let p := (s.berth b).prod
      let a := v / 64 * 64
      let dist := fun (x y : Nat) => (x + n - y % n) % n
      let a := if a < n ∧ dist a c ≤ dist p c then a else if dist a p ≤ dist (c + n) (a % n) then p else c
      (a, if a = v then none else some 1) }

/-- May q and base of Berth `b` change: it is idle or parked, holds no unused credit and its ring is empty (R300)? Slipway records, for
which no credit is asked, count as received too: nothing is unused when more has been received than granted. -/
def ringFree (s : State) (b : BerthNo) : Bool :=
  let x := s.berth b
  (x.st == .idle || x.st == .parked) && decide (x.granted ≤ x.received) && x.cons == x.prod

/-- BTE_RING.q: the ring ends within the secure partition (R300). -/
def qField : FieldSpec :=
  { hi := 12, lo := 8
    judge := fun acc v =>
      let m := min 16 (31 - fld acc 4 0)
      (min v m, if v ≤ m then none else some 1) }

/-- BTE_CREDIT.hi, at most 16 and q, and lo, at most hi (R300). -/
def creditFields (q : Nat) : List FieldSpec :=
  [{ hi := 20, lo := 16, judge := fun _ v => (min v (min 16 q), if v ≤ min 16 q then none else some 1) },
   { hi := 12, lo := 8, judge := fun acc v => (min v (fld acc 20 16), if v ≤ fld acc 20 16 then none else some 1) }]

/-- A write of BTE_RING. Positions that a smaller ring leaves beyond its end start again at 0: the ring is empty then. -/
def writeRing (s : State) (src : WSrc) (b : BerthNo) (v : W64) (be : Byte) : State :=
  let o := bteOff b 8
  let old := readBerth s b 8
  let x := s.berth b
  let bars := mirrorBars s src o
  let keep := bars || !ringFree s b
  let r := judgeFields s src o old v be
    ((if isVia src then [] else [consField s b]) ++ [condField keep 4 qField, condField keep 4 (anyField 4 0)])
  let c := fld r.2 63 43
  let n := ringSize s b
  let s := r.1.setBerth b { x with cons := c, consumed := x.consumed + (c + n - x.cons % n) % n }
  let s := s.setHreg o (r.2 &&& ones 12 0)
  let s := if ringSize s b ≤ (s.berth b).prod then s.modBerth b fun x => { x with prod := 0, cons := 0 } else s
  viaConfigSend s src o (beMerge old v be)

/-- A write in Berth `b`'s entry (R298, R300). -/
def writeBerth (s : State) (src : WSrc) (b : BerthNo) (x : Nat) (v : W64) (be : Byte) : State :=
  let o := bteOff b x
  if entryBars s src b then clampLog s (srcCode src) 3 (fidReg o 0) v 0
  else if x = 0 then
    let fw := isSouthFw src
    let s := storeReg s src o v be
      [roundField 63 32 2, anyField 23 22, anyField 21 20, condField fw 5 (anyField 17 17), condField fw 5 (anyField 16 16)]
    bteCommand s src b v be
  else if x = 8 then writeRing s src b v be
  else if x = 0x10 then storeReg s src o v be (creditFields (fld (s.hreg (bteOff b 8)) 12 8))
  else if w1c v be 16 then s.modBerth b fun y => { y with refused := false }
  else s

/-- May firmware write a session that is bound to Berth `b` (R313)? -/
def sessionOwn (s : State) (src : WSrc) (b : BerthNo) : Bool :=
  match src with
  | .fwSouth i => berthSpan b == i && !(s.ctx b).home
  | .fwNorth i => berthSpan b == i && (s.ctx b).home
  | .viaduct (some (north, i)) => berthSpan b == i && (s.ctx b).home == north
  | _ => true

/-- SESS_CTL.berth of session `n`. -/
def sessBerth (s : State) (n : Nat) : BerthNo := berthOf (fld (s.hreg (0x108000 + n * 0x20)) 9 0)

/-- A write in session `n` (R313): firmware binds a session to no Berth that is not its own. A written SESS_WADDR starts a window
at a whole word. -/
def writeSession (s : State) (src : WSrc) (n x : Nat) (v : W64) (be : Byte) : State :=
  let o := 0x108000 + n * 0x20 + x
  let keep := !sessionOwn s src (sessBerth s n)
  let bf : FieldSpec :=
    { hi := 9, lo := 0
      judge := fun acc v => if sessionOwn s src (berthOf v) then (v, none) else (fld acc 9 0, some 5) }
  let fs := if x = 0 then [anyField 63 63, anyField 43 42, anyField 41 40, bf]
    else if x = 8 then [anyField 47 6] else [anyField 31 0]
  let s := storeReg s src o v be (fs.map (condField keep 5))
  if x = 8 ∧ be ≠ 0 ∧ ¬ keep then s.setHreg o (s.hreg o &&& ones 47 6) else s

/-! ### Tollgate (R344, R351, R354) -/

/-- A staged region with register `x` of it taken from a word. -/
def Region.written (r : Region) (x : Nat) (v : W64) : Region :=
  if x = 0 then { r with base := BitVec.ofNat 36 (fld v 47 12) }
  else if x = 8 then { r with last := BitVec.ofNat 36 (fld v 47 12) }
  else { r with attr := BitVec.ofNat 16 (fld v 15 0) }

/-- The fields of register `x` of a region. -/
def regionFields (x : Nat) : List FieldSpec :=
  if x = 0x10 then [anyField 15 14, anyField 12 10, anyField 5 0] else [anyField 47 12]

/-- A write at offset `x` of a Tollgate page. -/
def writeToll (s : State) (src : WSrc) (i : SpanNo) (north : Bool) (x : Nat) (v : W64) (be : Byte) : State :=
  let o := tollOff i north + x
  if x < 0x400 then
    let old := mirroredValue s o
    let r := judgeWrite s src o old v be (regionFields (x % 0x20))
    let s := r.1.modSpan i fun p => p.modToll north fun t =>
      let g := Table.get (Region.reset (worldOf north)) t.staged (x / 0x20)
      { t with staged := Table.put t.staged (x / 0x20) (g.written (x % 0x20) r.2) }
    viaConfigSend s src o (beMerge old v be)
  else if x = 0x400 then
    if mirrorBars s src o then keepFields s src 4 o 0 v be [anyField 63 0]
    else viaConfigSend (startCommit s i north) src o (v &&& beMask be)
  else if x = 0x408 then
    if w1c v be 2 then s.modSpan i fun p => p.modToll north fun t => { t with refused := false } else s
  else if x = 0x410 then (match wtArg v be 0 0 with | some _ => startFence s i | none => s)
  else s

/-! ### Viaduct (R399) -/

/-- VIA_HB.loss: within its range, and at least twice the interval. -/
def lossField : FieldSpec :=
  { hi := 63, lo := 32
    judge := fun acc v =>
      let a := max (clampTo 20000 10000000 v) (2 * fld acc 31 0)
      (a, if a = v then none else some 1) }

/-- VIA_CKWb.len: the window ends within the Pontoon. -/
def ckwField : FieldSpec :=
  { hi := 42, lo := 32
    judge := fun acc v =>
      let m := min 1024 (131072 - fld acc 16 0)
      (min v m, if v ≤ m then none else some 1) }

/-- VIA_CMD. -/
def viaCmd (s : State) (c : Nat) : State :=
  match c with
  | 1 => pairCmd s true
  | 2 => pairCmd s false
  | 3 => promoteCmd s
  | 4 => detachCmd s
  | _ => s

/-- A write in the Viaduct area. -/
def writeViaduct (s : State) (src : WSrc) (o : Nat) (v : W64) (be : Byte) : State :=
  if o = 0x300000 then
    let (s, c) := cmdArg s src o v be 3 0 4
    viaCmd s c
  else if o = 0x300008 then storeReg s src o v be [anyField 63 32, anyField 27 16]
  else if o = 0x300010 then
    if w1c v be 14 then { s with via := { s.via with eunc := false } } else s
  else if 0x300020 ≤ o ∧ o < 0x300040 then storeReg s src o v be [anyField 63 0]
  else if o = 0x300060 then storeReg s src o v be [lossField, numField 31 0 1000 1000000]
  else if o = 0x300068 then storeReg s src o v be [numField 31 0 10000 100000000]
  else if 0x300100 ≤ o ∧ o < 0x300180 then storeReg s src o v be [anyField 63 0]
  else if 0x301000 ≤ o ∧ o < 0x303000 then storeReg s src o v be [ckwField, anyField 16 0]
  else if 0x303000 ≤ o then
    storeReg s src o v be
      (if o % 0x20 = 0 then [anyField 63 63, anyField 9 0] else if o % 0x20 = 8 then [anyField 47 6] else [anyField 31 0])
  else s

/-! ### Entropy (R373) -/

/-- A write in the entropy area. -/
def writeEntropy (s : State) (src : WSrc) (o : Nat) (v : W64) (be : Byte) : State :=
  if o = 0x400000 then
    let (s, c) := cmdArg s src o v be 3 0 1
    if c = 1 then retest s else s
  else if o = 0x400008 then
    if w1c v be 9 then { s with ent := { s.ent with refused := false } } else s
  else if o = 0x400010 then storeReg s src o v be [numField 3 0 0 12]
  else if o = 0x400018 then storeReg s src o v be [numField 31 0 10000 100000000]
  else s

/-! ### Counters and run control (R502, R512, R513) -/

/-- The fields of a counter configuration; `masks` are the mask bits that each class defines (R502). -/
def cntFields (v : W64) (be : Byte) (masks : List Nat) : List FieldSpec :=
  [anyField 63 63,
   { hi := 62, lo := 62, judge := fun acc _ => (if w1c v be 62 then 0 else fld acc 62 62, none) },
   anyField 61 60, anyField 58 56, anyField 55 51, enumField 47 44 4 0, enumField 43 42 2 0, enumField 41 40 2 0,
   anyField 39 32, enumField 15 12 (masks.length - 1) 0,
   { hi := 11, lo := 0, judge := fun acc w => (w &&& masks.getD (fld acc 15 12) 0, none) }]

/-- The block watchdog is kicked: it counts from its limit again (R499). -/
def kickBlock (s : State) : State :=
  { s with gw := { s.gw with bwRem := BitVec.ofNat 32 (bwLimit s), bwExpired := false } }

/-- BWDOG_CTL.limit: 0, or at least 10,000. -/
def bwField : FieldSpec :=
  { hi := 31, lo := 0
    judge := fun _ v => if v = 0 ∨ 10000 ≤ v then (v, none) else (10000, some 1) }

/-- A write of BWDOG_CTL (R499, R513). -/
def writeBwdog (s : State) (src : WSrc) (v : W64) (be : Byte) : State :=
  let s := storeReg s src 0x5F0020 v be [anyField 63 63, bwField]
  if beTouches be 31 0 then kickBlock s else s

/-- A write in the counters area. -/
def writeCounters (s : State) (src : WSrc) (o : Nat) (v : W64) (be : Byte) : State :=
  if o < 0x520000 then
    if o % 16 = 8 then
      let r := judgeFields s src o ((Table.get 0 s.cnts o).setWidth 64) v be [anyField 47 0]
      { r.1 with cnts := Table.put r.1.cnts o (r.2.setWidth 48) }
    else storeReg s src o v be (cntFields v be (if o < 0x510000 then blockClasses else spanClasses))
  else if o = 0x5F0000 then storeReg s src o v be [anyField 1 0]
  else if o = 0x5F0010 then storeReg s src o v be [numField 8 0 0 271]
  else if o = 0x5F0018 then storeReg s src o v be [numField 31 0 0 100000000]
  else if o = 0x5F0020 then writeBwdog s src v be
  else if o = 0x5F0030 then storeReg s src o v be [anyField 15 0]
  else if 0x5F0100 ≤ o ∧ o < 0x5F0140 then storeReg s src o v be [anyField 47 0]
  else if 0x5F0200 ≤ o ∧ o < 0x5F0400 then
    storeReg s src o v be [if o % 0x40 = 0 then anyField 3 0 else anyField 63 0]
  else if 0x5F1000 ≤ o then storeReg s src o v be [roundField 63 32 2, anyField 31 31]
  else s

/-! ### Loader and staging -/

/-- A write in the loader area (R288). -/
def writeLoader (s : State) (src : WSrc) (o : Nat) (v : W64) (be : Byte) : State :=
  if o = 0x600000 then
    let (s, c) := cmdArg s src o v be 3 0 8
    if c = 0 then s else ldrCmd s c
  else if o = 0x600010 then storeReg s src o v be [numField 63 0 0 0x2000000]
  else if 0x600020 ≤ o ∧ o < 0x600040 then storeReg s src o v be [anyField 63 0]
  else if 0x601000 ≤ o then ldrDeliver s (bytesOfNat 8 (v &&& beMask be).toNat)
  else s

/-- A write in the staging area (R339). -/
def writeStaging (s : State) (src : WSrc) (o : Nat) (v : W64) (be : Byte) : State :=
  if o = 0x700000 then storeReg s src o v be [condField (!s.alloc.held.isEmpty) 4 (numField 5 0 0 32)]
  else if 0x701000 ≤ o then
    let n := (o - 0x701000) / 0x20
    if o % 0x20 = 8 then stgFree s src n (v &&& beMask be)
    else if o % 0x20 = 0x10 then storeReg s src o v be [numField 17 0 0 196608]
    else if o % 0x20 = 0x18 then stgClaim s src n (v &&& beMask be)
    else s
  else s

/-! ### A write anywhere in the window -/

/-- A write of `v` with byte enables `be` at offset `o` (R422, R466): the state after, and CP_ERR. -/
def regWrite (s : State) (src : WSrc) (o : Nat) (v : W64) (be : Byte) : State × Bool :=
  if be = 0 then (s, false)
  else if !regExists o then (clampLog s (srcCode src) 6 (fidReg o 0) v 0, true)
  else
    (if o < 0x1000 then s
     else if o < 0x2000 then writePower s src o v be
     else if o < 0x3000 then writeEvents s src o v be
     else if o < 0x10000 then writeClamps s o
     else if o < 0x20000 then writeSpan s src (spanOf ((o - 0x10000) / 0x1000)) (o % 0x1000) v be
     else if o < 0x108000 then writeBerth s src (berthOf ((o - 0x100000) / 0x20)) (o % 0x20) v be
     else if o < 0x110000 then writeSession s src ((o - 0x108000) / 0x20) (o % 0x20) v be
     else if o < 0x210000 then
       writeToll s src (spanOf ((o - 0x200000) / 0x1000)) (0x800 ≤ o % 0x1000) (o % 0x800) v be
     else if o < 0x303800 then writeViaduct s src o v be
     else if o < 0x500000 then writeEntropy s src o v be
     else if o < 0x600000 then writeCounters s src o v be
     else if o < 0x700000 then writeLoader s src o v be
     else writeStaging s src o v be, false)

/-- A write by the Gangway through the window view (R487): outside Blank and Provisioned, the counters area only. -/
def gwRegWrite (s : State) (o : Nat) (v : W64) (be : Byte) : State :=
  if !s.gw.attached then gwAck s 6 0
  else if !s.openDebug && !(0x500000 ≤ o && o < 0x600000) then gwDenied s (0x50000000 + o)
  else
    let r := regWrite s .gangway o v be
    if r.2 then gwAck r.1 4 0 else gwDone r.1

/-- Can a source other than the host and the Gangway reach the register at offset `o` (R467, R392)? What the Tollgate says of
firmware's access is judged where the access is made. -/
def reaches (src : WSrc) (o : Nat) : Bool :=
  match src with
  | .host => true
  | .gangway => true
  | .viaduct _ => mirroredReg o
  | .fwSouth i => fwReach i o
  | .fwNorth i => fwReach i o
where
  /-- Does firmware of Span `i` see host-window offset `o`? -/
  fwReach (i : SpanNo) (o : Nat) : Bool :=
    (0x010000 + i.val * 0x1000 ≤ o && o < 0x011000 + i.val * 0x1000)
      || (0x100000 + i.val * 0x800 ≤ o && o < 0x100800 + i.val * 0x800) || (0x108000 ≤ o && o < 0x110000)
      || (0x200000 + i.val * 0x1000 ≤ o && o < 0x201000 + i.val * 0x1000) || (0x700000 ≤ o && o < 0x709000)

/-- The offset in the firmware view of Span `i` of the register at host-window offset `o` (R467). -/
def viewOffset (i : SpanNo) (o : Nat) : Nat :=
  if o < 0x020000 then o - i.val * 0x1000
  else if o < 0x108000 then o - i.val * 0x800
  else if 0x200000 ≤ o ∧ o < 0x210000 then o - i.val * 0x1000
  else o

/-- Does the Tollgate of its Span let firmware of a world write the register at offset `o` (R345, R467)? Firmware is taken for a supervisor
here: the store of a Ferry by which it writes is judged by its own row. -/
def gatePasses (s : State) (src : WSrc) (o : Nat) : Bool :=
  let ok := fun (i : SpanNo) (north : Bool) =>
    (judge s { sp := i, master := 0, north := north, sup := true, ferry := 0, berth := 0 } false .write (regBase i + viewOffset i o)).isNone
  match src with
  | .fwSouth i => ok i false
  | .fwNorth i => ok i true
  | _ => true

/-- A register write by a source: it happens while the control port is served, and where the source reaches the register and the Tollgate
lets it pass. The host sees CP_ERR. -/
def srcWrite (s : State) (src : WSrc) (o : Nat) (v : W64) (be : Byte) : State :=
  match src with
  | .host => cpDo s fun s => let r := regWrite s .host o v be; { r.1 with ports := { r.1.ports with cpErr := r.2 } }
  | .gangway => hostDo s fun s => gwRegWrite s o v be
  | _ => hostDo s fun s => if reaches src o && gatePasses s src o then (regWrite s src o v be).1 else s

/-! ### The rows of the table that are register writes -/

/-- REGISTER_WRITE (R475). The offset is that of an aligned register of the window (R420). -/
def execRegisterWrite (src : WSrc) (off : Nat) (value : W64) (be : Byte) (s : State) : Host.Outcome State Fault Refusal :=
  .next (srcWrite s src (off % 0x1000000 / 8 * 8) value be)

/-- A command of the Berth table by a source: a write of BTE_CTL that enables byte 0 only (R297, R298, R422). -/
def berthRow (src : WSrc) (b : BerthNo) (code : Nat) (s : State) : State :=
  srcWrite s src (bteOff b 0) (BitVec.ofNat 64 code) 1

/-- BERTH_START. -/
def execBerthStart (src : WSrc) (b : BerthNo) (s : State) : Host.Outcome State Fault Refusal := .next (berthRow src b 1 s)
/-- BERTH_RESUME. -/
def execBerthResume (src : WSrc) (b : BerthNo) (s : State) : Host.Outcome State Fault Refusal := .next (berthRow src b 2 s)
/-- BERTH_PARK. -/
def execBerthPark (src : WSrc) (b : BerthNo) (s : State) : Host.Outcome State Fault Refusal := .next (berthRow src b 3 s)
/-- BERTH_UNPARK. -/
def execBerthUnpark (src : WSrc) (b : BerthNo) (s : State) : Host.Outcome State Fault Refusal := .next (berthRow src b 4 s)
/-- BERTH_STOP. -/
def execBerthStop (src : WSrc) (b : BerthNo) (s : State) : Host.Outcome State Fault Refusal := .next (berthRow src b 5 s)
/-- BERTH_REHOME. -/
def execBerthRehome (src : WSrc) (b : BerthNo) (s : State) : Host.Outcome State Fault Refusal := .next (berthRow src b 6 s)

/-- TOLL_COMMIT (R351). -/
def execTollCommit (src : WSrc) (sp : SpanNo) (w : World) (s : State) : Host.Outcome State Fault Refusal :=
  .next (srcWrite s src (tollOff sp (isNorth w) + 0x400) 1 0xFF)

/-- TOLL_COMMIT_END (R351). -/
def execTollCommitEnd (sp : SpanNo) (w : World) (s : State) : Host.Outcome State Fault Refusal :=
  .next (endCommit s sp (isNorth w))

/-- TOLL_FENCE (R354). -/
def execTollFence (src : WSrc) (sp : SpanNo) (w : World) (s : State) : Host.Outcome State Fault Refusal :=
  .next (srcWrite s src (tollOff sp (isNorth w) + 0x410) 1 0xFF)

/-- TOLL_FENCE_DONE (R354): no access checked under an epoch older than the one captured is outstanding. -/
def execTollFenceDone (sp : SpanNo) (s : State) : Host.Outcome State Fault Refusal :=
  let x := s.span sp
  if x.fencePend && !olderAccess s sp x.fenceEpoch then .next (s.setSpan sp { x with fencePend := false }) else .next s

/-- RETEST (R370). -/
def execRetest (s : State) : Host.Outcome State Fault Refusal := .next (srcWrite s .host 0x400000 1 1)
/-- EVT_FLUSH (R318). -/
def execEvtFlush (s : State) : Host.Outcome State Fault Refusal := .next (srcWrite s .host 0x2010 0 0xFF)
/-- CLAMP_FLUSH (R481). -/
def execClampFlush (s : State) : Host.Outcome State Fault Refusal := .next (srcWrite s .host 0x3030 0 0xFF)
/-- STG_FREE (R338). -/
def execStgFree (src : WSrc) (n : SessionNo) (value : W64) (s : State) : Host.Outcome State Fault Refusal :=
  .next (srcWrite s src (0x701008 + n.val * 0x20) value 0xFF)
/-- STG_CLAIM (R338). -/
def execStgClaim (src : WSrc) (n : SessionNo) (value : W64) (s : State) : Host.Outcome State Fault Refusal :=
  .next (srcWrite s src (0x701018 + n.val * 0x20) value 0xFF)
/-- GOP_BREAK (R471). -/
def execGopBreak (mask : BitVec 16) (s : State) : Host.Outcome State Fault Refusal :=
  .next (srcWrite s .host 0x010188 (mask.setWidth 64) 0xFF)
/-- FERRY_REFLOAT (R472). -/
def execFerryRefloat (sp : SpanNo) (mask : BitVec 16) (s : State) : Host.Outcome State Fault Refusal :=
  .next (srcWrite s .host (spanOff sp 0x280) (mask.setWidth 64) 0xFF)
/-- BWDOG_CTL_WRITE (R499). -/
def execBwdogCtlWrite (value : W64) (be : Byte) (s : State) : Host.Outcome State Fault Refusal :=
  .next (srcWrite s .host 0x5F0020 value be)

end Sys2Proof.Machine
end

