-- ==== Sys2Proof/Machine/Access.lean ====
section
/-!
DEFINITION. The memory accesses of a Ferry (R176 to R183, R203, R204, R235, R325, R468, R492): the segment checks, the
Tollgate, and what each target of the block address map does.
-/
namespace Sys2Proof.Machine

/-- An exception: its cause, info and info2 (R240). -/
structure Exc where
  /-- The cause. -/
  cause : Nat
  /-- Info. -/
  info : W64
  /-- Info2. -/
  info2 : W64
  deriving DecidableEq, Repr

/-- The outcome of an access. -/
inductive FRes (α : Type) where
  /-- Made. -/
  | ok (a : α)
  /-- Not made: an exception. -/
  | exc (e : Exc)
  /-- Not made yet: it waits for a port or for a held word. -/
  | wait

/-! ### Segments (R177) -/

/-- The rights an access needs. -/
inductive Right where
  /-- r. -/
  | r
  /-- w. -/
  | w
  /-- r and w: an atomic. -/
  | rw
  /-- x. -/
  | x
  deriving DecidableEq, Repr

/-- Does a segment grant a right (R176)? -/
def Seg.has (x : Seg) : Right → Bool
  | .r => x.r
  | .w => x.w
  | .rw => x.r && x.w
  | .x => x.x

/-- Checks 1 to 3 of R177 on `z` bytes at offset `o` through Sn: the block address. -/
def segCheck (c : Ctx) (n : Nat) (o : W64) (z : Nat) (k : Right) : Except Exc Nat :=
  let x := c.seg n
  let n64 := BitVec.ofNat 64 n
  if 0xFFFFFFFF < o.toNat ∨ x.limit.toNat < o.toNat + z - 1 then .error { cause := 0x06, info := o, info2 := n64 }
  else if !x.has k then .error { cause := 0x07, info := o, info2 := n64 }
  else if 2 ^ 48 ≤ x.base.toNat + o.toNat + z - 1 then .error { cause := 0x06, info := o, info2 := n64 }
  else .ok (x.base.toNat + o.toNat)

/-- The block address of an offset, as the alignment rules see it (R180): before the segment checks, it may lie anywhere. -/
def rawAddr (c : Ctx) (n : Nat) (o : W64) : Nat := ((c.seg n).base.setWidth 64 + o).toNat

/-- Cause 0x08 for an offset through Sn. -/
def misaligned (n : Nat) (o : W64) : Exc := { cause := 0x08, info := o, info2 := BitVec.ofNat 64 n }

/-! ### Who accesses -/

/-- The access identity of Ferry `f` running Berth `b` (R341, R357), at the Berth's level or as a supervisor. -/
def ferAcc (s : State) (b : BerthNo) (f : FerryNo) (asSup : Bool) : Acc :=
  let c := s.ctx b
  { sp := ferrySpan f, master := 0, north := c.north, sup := c.sup || asSup, ferry := f.val % 16, berth := b.val }

/-- The source of a register write by Berth `b` (R474). -/
def fwSrc (s : State) (b : BerthNo) : WSrc :=
  if (s.ctx b).north then .fwNorth (berthSpan b) else .fwSouth (berthSpan b)

/-! ### Targets of the address map -/

/-- Is the address the Ferry's local data? -/
def inLocal (a : Nat) : Bool := a < 0x8000

/-- Does the address lie in the Berth store? -/
def inBerthStore (a : Nat) : Bool := 0x30000000 ≤ a && a < 0x30100000

/-- Does the address lie in Span `i`'s register area? -/
def inRegs (i : SpanNo) (a : Nat) : Bool := regBase i ≤ a && a < regBase i + 0x1000000

/-- Event bit of a data access by its target (R503 class 4). -/
def targetBit (s : State) (i : SpanNo) (a : Nat) : Nat :=
  if inLocal a then 0
  else if inSecure i a then 2
  else if inAnyPontoon a then 1
  else if s.inStaging a then 3
  else if 0x20000000 ≤ a && a < 0x21000000 then 4
  else if inBerthStore a then 6
  else 5

/-- Counts the pieces of an access by target (R503). -/
def countTargets (s : State) (b : BerthNo) (a n : Nat) : State :=
  (wordsOf (n / 64 + 2) a n).foldl (fun s w => countBerth s b 4 (targetBit s (berthSpan b) w.1) 1 (some w.1)) s

/-- The exception that a failed access raises (R240). -/
def failExc : AccFail → Option Exc
  | .toll a vr => some { cause := 0x09, info := BitVec.ofNat 64 a, info2 := vr }
  | .ecc a => some { cause := 0x0A, info := BitVec.ofNat 64 a, info2 := 1 }
  | .progEcc a => some { cause := 0x0A, info := BitVec.ofNat 64 a, info2 := 4 }
  | .rerr a => some { cause := 0x0A, info := BitVec.ofNat 64 a, info2 := 3 }
  | .busy a => some { cause := 0x12, info := BitVec.ofNat 64 a, info2 := 0 }
  | .wait => none

/-- A failed access is counted among the memory incidents of its Berth (R503 class 5) and answered. -/
def failRes {α : Type} (s : State) (b : BerthNo) (f : FerryNo) (a n : Nat) (e : AccFail) : State × FRes α :=
  match e with
  | .toll w r => (countBerth s b 5 5 1 (some w), .exc { cause := 0x09, info := BitVec.ofNat 64 w, info2 := r })
  | .busy w => (countBerth s b 5 1 1 (some w), .exc { cause := 0x12, info := BitVec.ofNat 64 w, info2 := 0 })
  | .wait =>
    if heldByOther s (some b.val) a n && !(s.ferry f).lockWait then
      ((countBerth s b 5 4 1 (some a)).modFerry f fun y => { y with lockWait := true }, .wait)
    else (s, .wait)
  | e => match failExc e with
    | some x => (s, .exc x)
    | none => (s, .wait)

/-- What stops the pieces of a read behind the Tollgate: local data and the Berth store stop nothing. -/
def piecesFault (s : State) (q : Acc) (write : Bool) : List (Nat × Nat) → State × Option AccFail
  | [] => (s, none)
  | (a, n) :: t =>
    if inLocal a || inBerthStore a then piecesFault s q write t
    else
      let r := if write then writeFault s q (busyKey q) (some q.berth) a n
               else readFault s q (busyKey q) (some q.berth) a n
      match r with
      | (s, some e) => (s, some e)
      | (s, none) => piecesFault s q write t

/-- The bytes of one piece. -/
def pieceRead (s : State) (f : FerryNo) (a n : Nat) : List Byte :=
  if inLocal a then memRead (s.ferry f).localMem a n
  else if inBerthStore a then readCtx s (berthOf ((a - 0x30000000) / 0x400)) (a % 0x400) n
  else rawRead s a n

/-- Writes the bytes of one piece, checked under epoch `e`. -/
def pieceWrite (s : State) (q : Acc) (f : FerryNo) (src : Nat) (e : W32) (a : Nat) (l : List Byte) : State :=
  if inLocal a then s.modFerry f fun y => { y with localMem := memWrite y.localMem a l }
  else if inBerthStore a then writeCtx s (berthOf ((a - 0x30000000) / 0x400)) src (a % 0x400) l
  else landAs s q e a l

/-- Diverted accesses and corrected errors that an access of a Ferry meets are memory incidents of its Berth (R503 class 5). -/
def countIncidents (s : State) (b : BerthNo) (write : Bool) (a n : Nat) : State :=
  let s := (divertedIn s a n).foldl (fun s w => countBerth s b 5 2 1 (some w)) s
  (softIn s write a n).foldl (fun s w => countBerth s b 5 3 1 (some (64 * w))) s

/-- A Ferry's access is served. -/
def ferServed (s : State) (q : Acc) (b : BerthNo) (k : AKind) (a n : Nat) : State :=
  served (countIncidents s b (k == .write) a n) q (busyKey q) k a n

/-- A Ferry's access fails, or waits with its verdict (R353). -/
def ferFails {α : Type} (s : State) (q : Acc) (b : BerthNo) (f : FerryNo) (k : AKind) (a n : Nat) (e : AccFail) : State × FRes α :=
  failRes (stopped s q (busyKey q) k a n e) b f a n e

/-- A load from a secure partition sets the custody mark (R492). -/
def markCustody (s : State) (b : BerthNo) (a n : Nat) : State :=
  if (wordsOf (n / 64 + 2) a n).any (fun w => inAnySecure w.1) then s.modCtx b fun c => { c with custody := true } else s

/-- Reads `n` bytes at block address `a` for Ferry `f`, of access kind `k`. -/
def ferRead (s : State) (b : BerthNo) (f : FerryNo) (asSup : Bool) (k : AKind) (a n : Nat) : State × FRes (List Byte) :=
  let q := ferAcc s b f asSup
  match gateOnce s q (busyKey q) false k a n with
  | (s, some (w, r)) => failRes s b f a n (.toll w r)
  | (s, none) =>
    let ps := wordsOf (n / 64 + 2) a n
    match piecesFault s q false ps with
    | (s, some e) => ferFails s q b f k a n e
    | (s, none) =>
      let l := ps.flatMap fun p => pieceRead s f p.1 p.2
      let s := ferServed s q b k a n
      if k = .fetch then (s, .ok l)
      else (markCustody (countTargets s b a n) b a n, .ok l)

/-- Must a store of Ferry `f` wait for room in its write buffer: fewer than 128 of its 256 bytes are free (R270, R277)? -/
def bufferFull (s : State) (f : FerryNo) : Bool := decide (128 < postedBytes s f)

/-- Writes bytes at block address `a` for Ferry `f`. -/
def ferWrite (s : State) (b : BerthNo) (f : FerryNo) (asSup : Bool) (a : Nat) (l : List Byte) : State × FRes Unit :=
  let q := ferAcc s b f asSup
  let n := l.length
  match gateOnce s q (busyKey q) false .write a n with
  | (s, some (w, r)) => failRes s b f a n (.toll w r)
  | (s, none) =>
    let ps := wordsOf (n / 64 + 2) a n
    if bufferFull s f then ferFails s q b f .write a n .wait
    else match piecesFault s q true ps with
      | (s, some e) => ferFails s q b f .write a n e
      | (s, none) =>
        let e := checkedEpoch s q (busyKey q) .write a n
        let s := ps.foldl (fun s p => pieceWrite s q f (srcCode (fwSrc s b)) e p.1 ((l.drop (p.1 - a)).take p.2)) s
        (touchJobs (countTargets (ferServed s q b .write a n) b a n) (berthSpan b) a n, .ok ())

/-! ### Accesses through a segment -/

/-- A load of `z` bytes through Sn. Only an aligned load of 8 bytes reaches a register of the Span area, and it is a take
(R468). -/
def segLoad (s : State) (b : BerthNo) (f : FerryNo) (n : Nat) (o : W64) (z : Nat) (single : Bool) : State × FRes (List Byte) :=
  match segCheck (s.ctx b) n o z .r with
  | .error e => (s, .exc e)
  | .ok a =>
    let i := ferrySpan f
    if (wordsOf (z / 64 + 2) a z).any (fun w => inRegs i w.1) then
      if single && z == 8 && a % 8 == 0 then
        match gateCheck s (ferAcc s b f false) false .read a 8 with
        | (s, some (w, r)) => failRes s b f a 8 (.toll w r)
        | (s, none) =>
          let s := countTargets s b a 8
          match fwOffset i (a - regBase i) with
          | none => (s, .ok (zeros 8))
          | some h =>
            let r := regTake s h
            (r.1, .ok (bytesOfNat 8 r.2.1.toNat))
      else (s, .exc (misaligned n o))
    else ferRead s b f false .read a z

/-- A store of bytes through Sn. -/
def segStore (s : State) (b : BerthNo) (f : FerryNo) (n : Nat) (o : W64) (l : List Byte) (single : Bool) : State × FRes Unit :=
  match segCheck (s.ctx b) n o l.length .w with
  | .error e => (s, .exc e)
  | .ok a =>
    let i := ferrySpan f
    if (wordsOf (l.length / 64 + 2) a l.length).any (fun w => inRegs i w.1) then
      if single && l.length == 8 && a % 8 == 0 then
        match gateCheck s (ferAcc s b f false) false .write a 8 with
        | (s, some (w, r)) => failRes s b f a 8 (.toll w r)
        | (s, none) =>
          let s := countTargets s b a 8
          match fwOffset i (a - regBase i) with
          | none => (s, .ok ())
          | some h => ((regWrite s (fwSrc s b) h (BitVec.ofNat 64 (natOfBytes l)) 0xFF).1, .ok ())
      else (s, .exc (misaligned n o))
    else ferWrite s b f false a l

/-- The read half of an atomic on the aligned 8-byte word at offset `o` of Sn (R180, R181): its block address and value. The segment has to
grant `k`, and the Tollgate both r and w, of LOCK too (R343). `lock` asks for a Pontoon word (R182). -/
def atomLoad (s : State) (b : BerthNo) (f : FerryNo) (n : Nat) (o : W64) (k : Right) (lock : Bool) : State × FRes (Nat × W64) :=
  if rawAddr (s.ctx b) n o % 8 ≠ 0 then (s, .exc (misaligned n o))
  else match segCheck (s.ctx b) n o 8 k with
    | .error e => (s, .exc e)
    | .ok a =>
      if inRegs (ferrySpan f) a then (s, .exc (misaligned n o))
      else if lock && !inAnyPontoon a then (s, .exc { cause := 0x07, info := o, info2 := BitVec.ofNat 64 n })
      else match ferRead s b f false .atomic a 8 with
        | (s, .ok l) => (s, .ok (a, BitVec.ofNat 64 (natOfBytes l)))
        | (s, .exc e) => (s, .exc e)
        | (s, .wait) => (s, .wait)

/-- The write half of an atomic, whose read half has passed. -/
def atomStore (s : State) (b : BerthNo) (f : FerryNo) (a : Nat) (v : W64) : State :=
  touchJobs (pieceWrite s (ferAcc s b f false) f (srcCode (fwSrc s b)) (s.span (ferrySpan f)).epoch a (bytesOfNat 8 v.toNat))
    (berthSpan b) a 8

/-! ### Fetches (R17, R178, R235) -/

/-- Lines of the instruction buffer: 16 KiB of 64 bytes (R17). Which line a word takes is not given: that of its line address modulo 256
(log entry 93). -/
def lineOf (a : Nat) : Nat := a / 64 % 256

/-- Does Ferry `f`'s instruction buffer hold the line of address `a`? -/
def lineHit (s : State) (f : FerryNo) (a : Nat) : Bool :=
  match Table.find (s.ferry f).ibuf (lineOf a) with
  | some (t, v, _) => v && t == a / 64
  | none => false

/-- Fetches the program-store line of address `a`, which its Tollgate has passed, into Ferry `f`'s instruction buffer (R272, event 11). -/
def fillLine (s : State) (b : BerthNo) (f : FerryNo) (q : Acc) (a : Nat) : State × FRes Unit :=
  let o := a / 64 * 64
  match readFault s q (busyKey q) (some q.berth) o 64 with
  | (s, some e) => ferFails s q b f .fetch a 4 e
  | (s, none) =>
    let l := rawRead s o 64
    (countEv ((endsOut (ferServed s q b .fetch o 64) q (busyKey q) .fetch a 4).modFerry f fun y =>
      { y with ibuf := Table.put y.ibuf (lineOf a) (a / 64, true, l) }) b 11, .ok ())

/-- The fetch of the instruction at offset `pc` of S0 (R178): only what could stop it counts, since the word comes with the
command (log entry 9). A word of the program store comes through the instruction buffer. -/
def fetchCheck (s : State) (b : BerthNo) (f : FerryNo) (asSup : Bool) (pc : W32) : State × FRes Unit :=
  match segCheck (s.ctx b) 0 (pc.setWidth 64) 4 .x with
  | .error e => (s, .exc e)
  | .ok a =>
    if 0x20000000 ≤ a ∧ a < 0x21000000 then
      let q := ferAcc s b f asSup
      match gateOnce s q (busyKey q) false .fetch a 4 with
      | (s, some (w, r)) => failRes s b f a 4 (.toll w r)
      | (s, none) => if lineHit s f a then (s, .ok ()) else fillLine s b f q a
    else match ferRead s b f asSup .fetch a 4 with
      | (s, .ok _) => (s, .ok ())
      | (s, .exc e) => (s, .exc e)
      | (s, .wait) => (s, .wait)

end Sys2Proof.Machine
end

