-- ==== Sys2Proof/Machine/Ports.lean ====
section
/-!
DEFINITION. The data ports in reset (R410, R416, R423), what an access meets on its way (R323, R340), the background tests of
the Pontoon and the control stores (R294, R328), and Ferries that go aground and are refloated (R249, R280).
-/
namespace Sys2Proof.Machine

/-! ### Ports (R410, R416, R423) -/

/-- LANDING_PORT_RESET: `mid` says that an inbound frame was in progress; it is discarded whole, as are frames that wait behind READY. -/
def execLandingPortReset (slip : Bool) (port : BitVec 2) (mid : Bool) (s : State) : Host.Outcome State Fault Refusal :=
  let p := port.toNat
  let t := if slip then s.ports.slipRst else s.ports.landRst
  if flagAt t p then .next s
  else
    let s := { s with
      ports := if slip then { s.ports with slipRst := Table.put t p true } else { s.ports with landRst := Table.put t p true } }
    let k := if slip then 4 + p else p
    let cut := mid || laneHeld s k
    let s := dropLane s k
    .next (if cut && s.portsUp then raise s (if slip then 1360 else 1359) p else s)

/-- LANDING_PORT_RESET_RELEASE: an abandoned outbound frame is still the first of its queue. -/
def execLandingPortResetRelease (slip : Bool) (port : BitVec 2) (s : State) : Host.Outcome State Fault Refusal :=
  let p := port.toNat
  .next { s with
    ports := if slip then { s.ports with slipRst := Table.del s.ports.slipRst p }
      else { s.ports with landRst := Table.del s.ports.landRst p } }

/-- STAGING_PORT_RESET: the beats of unfinished reads that are missing count as failed with RERR 0b10 (R416). -/
def execStagingPortReset (port : PortCut) (s : State) : Host.Outcome State Fault Refusal :=
  let p := port.port.toNat
  let cut := port.cut
  if 12 ≤ p || flagAt s.ports.stgRst p then .next s
  else
    let r := if cut = 0 then s.ports.stgRerr
      else Table.put s.ports.stgRerr p (Table.get [] s.ports.stgRerr p ++ List.replicate cut 2)
    .next { s with ports := { s.ports with stgRst := Table.put s.ports.stgRst p true, stgRerr := r } }

/-- Writes that no longer wait for a port are issued again, in their order (R416). -/
def reissueWrites (s : State) : State :=
  let waits := fun (w : PendWrite) => (portsOf s w.addr w.data.length).any fun p => flagAt s.ports.stgRst p
  (s.ports.stgWrites.filter fun w => !waits w).foldl (fun s w => rawWrite s w.addr w.data)
    { s with ports := { s.ports with stgWrites := s.ports.stgWrites.filter waits } }

/-- STAGING_PORT_RESET_RELEASE. -/
def execStagingPortResetRelease (port : BitVec 4) (s : State) : Host.Outcome State Fault Refusal :=
  .next (reissueWrites { s with ports := { s.ports with stgRst := Table.del s.ports.stgRst port.toNat } })

/-- The offset of the host's take that stands next in the queue: it has been asked for and has not transferred. -/
def takeAsked (s : State) : Option Nat :=
  match s.pending.head? with
  | some .evtFifoTake => some 0x2000
  | some .clampHead0Take => some 0x3000
  | some .drbgRnd => some 0x400020
  | some (.rcCounterTake (.take o)) => some (o % 0x1000000 / 8 * 8)
  | some (.stgAllocTake n) => some (0x701000 + n.val * 0x20)
  | _ => none

/-- CONTROL_PORT_RESET (R423): an edge of CP_RST_N. At its fall CP_ERR is driven low, and a take that has not transferred is abandoned: its
side effect happens once or not at all, a free choice, and its data is lost. While CP_RST_N is low, it rises (log entry 97). -/
def execControlPortReset (s : State) : Host.Outcome State Fault Refusal :=
  if s.ports.cpRst then .next { s with ports := { s.ports with cpRst := false } }
  else
    let s := match takeAsked s with
      | none => s
      | some o =>
        if s.hostUp then
          if s.freeBit then (regTake s.drawn o).1 else s.drawn
        else s
    .next { s with ports := { s.ports with cpRst := true, cpErr := false } }

/-! ### Accesses that meet, and staging beats -/

/-- The key of a master in the table of BUSY answers, and its Span if it has one. -/
def masterKey : MasterNo → Nat × Option SpanNo
  | .ferry f => (f.val, some (ferrySpan f))
  | .engine sp e => (256 + 8 * sp.val + engineIdx e + 1, some sp)
  | .landing sp => (256 + 8 * sp.val + 6, some sp)
  | .viaduct => (viaBusyKey, none)
  | .gangway => (512, none)

/-- For whom a meeting is counted: a Ferry's in the world and at the level of its Berth, a unit's in those of the job under way. -/
def masterWho (s : State) : MasterNo → Who
  | .ferry f => (match (s.ferry f).berth with
    | some b => { north := (s.ctx b).north, sup := (s.ctx b).sup, master := 0 }
    | none => { north := false, sup := true, master := 0 })
  | .engine sp e =>
    let u := (s.span sp).unit e
    (match u.jobs.find? fun j => u.current.any fun c => c.2 == j.seq with
    | some j => { north := j.north, sup := j.sup, master := engineIdx e + 1 }
    | none => { north := false, sup := true, master := engineIdx e + 1 })
  | .landing _ => { north := false, sup := true, master := 6 }
  | .viaduct => { north := false, sup := true, master := 6 }
  | .gangway => { north := false, sup := true, master := 7 }

/-- Does a master use port A of the banks (R320)? -/
def onPortA : MasterNo → Bool
  | .ferry _ => true
  | .engine _ e => e != .tender
  | .gangway => true
  | .landing _ => false
  | .viaduct => false

/-- Does an access of master `m` receive BUSY from the access it meets (R322)? Of two writes port B's does; of a read and a write the
later does, and of two requests in one arbitration port B's is the later. -/
def meetsBusy (m : MasterNo) (x : Meeting) : Bool :=
  if x.write && x.other then !onPortA m
  else if x.write || x.other then
    match x.first with
    | some own => !own
    | none => !onPortA m
  else false

/-- ACCESS_RETRY (R323): an attempt of the access under way of a master, which meets another access or none. Four attempts that
received BUSY make the access fail. A Gangway access is not retried; the other side of the write that it met is kept for the data it
returns (R324). -/
def execAccessRetry (m : MasterNo) (meet : Option Meeting) (s : State) : Host.Outcome State Fault Refusal :=
  let (k, sp) := masterKey m
  let n := Table.get 0 s.ports.busy k
  let count := fun (bit : Nat) (s : State) => match sp with
    | some i => countSpan s i 3 bit (masterWho s m) none 1
    | none => s
  let s := if 1 ≤ n then count 3 s else s
  match meet.filter (meetsBusy m) with
  | some x =>
    .next (count 2 { s with ports := { s.ports with
      busy := Table.put s.ports.busy k (min 4 (n + 1)), gwMet := if m = .gangway then x.bytes else s.ports.gwMet } })
  | none => .next { s with ports := { s.ports with busy := Table.del s.ports.busy k } }

/-- STAGING_READ_BEAT (R340, R413): a beat that answers the read of a tag, or with none a read beat whose RTAG names no unfinished
read. The status waits for the read that takes the beat; a failed one is counted when its read reports it, and a read of a Pilot
landing reports at once. A port in reset takes no beat (R403). -/
def execStagingReadBeat (port : BitVec 4) (rerr : BitVec 2) (answers : BeatFor) (s : State) : Host.Outcome State Fault Refusal :=
  let p := port.toNat
  let failed := match answers with
    | .stray => true
    | .landing _ => 2 ≤ rerr.toNat
    | .read _ => false
  if 12 ≤ p || flagAt s.ports.stgRst p || !s.portsUp then .next s
  else if failed then .next (raise (bumpErr s (errKey 0x1000 p 1) 32) 1357 p)
  else
    let s := if rerr = 1 then bumpErr s (errKey 0x1000 p 0) 32 else s
    .next { s with ports := { s.ports with stgRerr := Table.put s.ports.stgRerr p (Table.get [] s.ports.stgRerr p ++ [rerr.toNat]) } }

/-! ### Background tests (R294, R328) -/

/-- Do the background tests run: the core is under power, and not in an emulated sleep? -/
def testsRun (s : State) : Bool := s.portsUp && s.power.emul == 0

/-- The Span's background test as a reader of its Pontoon. -/
def testAcc (sp : SpanNo) : Acc := { sp := sp, master := 6, north := false, sup := true, ferry := 0, berth := 0 }

/-- A storage error at place `p` of Pontoon word `w`, given by block address divided by 64: the bit flips, and a second wrong bit makes
the word uncorrectable (R321). -/
def strikeWord (s : State) (w p : Nat) : State :=
  if s.poison.contains w then s
  else match Table.find s.soft w with
    | none => { s with soft := Table.put s.soft w p }
    | some q =>
      if q = p then { s with soft := Table.del s.soft w }
      else { s with soft := Table.del s.soft w, poison := s.poison ++ [w] }

/-- Every uncorrectable word of a row that the test copies is reported (R321, R328). -/
def reportRow (s : State) (sp : SpanNo) (a : Nat) : State :=
  ((List.range 16).filter fun k => s.poison.contains (a / 64 + k)).foldl (fun s k =>
    raise (notePoison s (testAcc sp) (a + 64 * k)) 1356 sp.val) s

/-- PONTOON_TEST_ROW (R328): the row's time comes, at the pace; storage errors that have struck meanwhile are in the words; the row is
copied with its single-bit errors corrected, tested, and restored or remapped. A word of the row held by LOCK is waited for
(R325). -/
def execPontoonTestRow (sp : SpanNo) (res : RowTest) (s : State) : Host.Outcome State Fault Refusal :=
  let pace := fld (s.hreg (spanOff sp 0x900)) 31 0
  if testsRun s && (s.span sp).pon.shadow.isNone && pace != 0 then
    let s := passUntil (s.span sp).pon.since pace s
    let s := res.hits.foldl (fun s h => strikeWord s (pontoonBase sp / 64 + h.1 % 131072) h.2) s
    let t := (s.span sp).pon
    let row := t.next
    let a := pontoonBase sp + row * 1024
    if heldByOther s none a 1024 then .next s
    else
      let s := reportRow (correctSoft s (testAcc sp) false a 1024) sp a
      let t' := { t with next := (row + 1) % 8192, since := s.time.ticks }
      let put := fun (s : State) (t : PonTest) => s.modSpan sp fun x => { x with pon := t }
      if !res.fail then .next (put s t')
      else if t.spares.length < 64 then .next (raise (put s { t' with spares := t.spares ++ [row] }) 1354 sp.val)
      else .next (raise (put s { t' with shadow := some row }) 1355 sp.val)
  else .next s

/-- A control store of `words` words after storage errors: places 0 to 144 of a word (R261). -/
def strikeStore (c : CStore) (words : Nat) (hits : List (Nat × Nat)) : CStore :=
  hits.foldl (fun c h =>
    let w := h.1 % words
    let l := toggle (Table.get [] c.flips w) (h.2 % 145)
    { c with flips := if l.isEmpty then Table.del c.flips w else Table.put c.flips w l }) c

/-- The wrong bits of a word of a store set to `l`. -/
def CStore.setFlips (c : CStore) (w : Nat) (l : List Nat) : CStore :=
  { c with flips := if l.isEmpty then Table.del c.flips w else Table.put c.flips w l }

/-- The row that a store's test comes to, restored with single-bit errors corrected and uncorrectable words marked; and the number of
words corrected (R279, R294). -/
def restoreRow (c : CStore) : CStore × Nat :=
  ((List.range 64).filterMap fun k => (Table.find c.flips (c.next * 64 + k)).map fun l => (c.next * 64 + k, l)).foldl (fun r e =>
    match eccRead e.2 with
    | .good => r
    | .parity => (r.1.setFlips e.1 (toggle e.2 0), r.2)
    | .single p => (r.1.setFlips e.1 (toggle e.2 p), r.2 + 1)
    | .bad => ({ r.1 with poison := if r.1.poison.contains e.1 then r.1.poison else r.1.poison ++ [e.1] }, r.2)) (c, 0)

/-- A control store of `rows` rows after one row of its test at tick `now` (R294), and the number of words corrected. -/
def cstoreRow (c : CStore) (rows : Nat) (res : RowTest) (now : Nat) : CStore × Nat :=
  let (c, n) := restoreRow (strikeStore c (64 * rows) res.hits)
  let c' := { c with next := (c.next + 1) % rows, since := now }
  if !res.fail then (c', n)
  else if c.spares.length < 2 then ({ c' with spares := c.spares ++ [c.next] }, n)
  else ({ c' with shadow := some c.next }, n)

/-- Was a row remapped by this test? -/
def remapped (a b : CStore) : Bool := a.spares.length < b.spares.length

/-- Is word `w` of a copy unreadable: marked poisoned, or uncorrectable (R261, R279)? -/
def CStore.unreadable (c : CStore) (w : Nat) : Bool := c.poison.contains w || decide (eccRead (Table.get [] c.flips w) = .bad)

/-- A copy with word `w` rewritten from the other copy. -/
def CStore.rewritten (c : CStore) (w : Nat) : CStore :=
  { c with flips := Table.del c.flips w, poison := c.poison.filter (· != w) }

/-- The Pilot of Span `i` reads word `w` of its store (R279): a single-bit error is corrected and counted; a word unreadable in one copy
is read from the other and the bad copy rewritten; unreadable in both, it stops the Pilot. -/
def pilotReads (s : State) (i : SpanNo) (w : Nat) : State :=
  let x := s.span i
  let corrected := fun (c : CStore) (s : State) => match eccRead (Table.get [] c.flips w) with
    | .single _ => s.modSpan i fun x => { x with csErr := BitVec.ofNat 32 (satAdd 32 x.csErr.toNat 1) }
    | _ => s
  match x.cs0.unreadable w, x.cs1.unreadable w with
  | true, true => if x.pilotFault then s else raise (s.modSpan i fun x => { x with pilotFault := true }) 1353 i.val
  | true, false => corrected x.cs1 (bumpErr (s.setSpan i { x with cs0 := x.cs0.rewritten w }) (errKey 0 i.val 3) 32)
  | false, true => corrected x.cs0 (bumpErr (s.setSpan i { x with cs1 := x.cs1.rewritten w }) (errKey 0 i.val 3) 32)
  | false, false => s

/-- The words of a Pilot's store that a copy cannot read. -/
def unreadables (x : Span) : List Nat :=
  (x.cs0.poison ++ x.cs1.poison ++ (x.cs0.flips ++ x.cs1.flips).map (·.1)).eraseDups.filter fun w =>
    x.cs0.unreadable w || x.cs1.unreadable w

/-- Does a refloat run in the block? Then no control store is tested (R294). -/
def refloating (s : State) : Bool := s.ferries.any fun y => y.2.refloat

/-- CSTORE_TEST_ROW (R279, R294): of a Ferry's store, or of a copy of a Pilot's, at the pace of 40,000 ticks a row. Whether the Pilot
has read a word that a copy cannot give is a free choice at each row of its test (log entry 94). -/
def execCstoreTestRow (e : EngineNo) (copy : Bool) (res : RowTest) (s : State) : Host.Outcome State Fault Refusal :=
  if !testsRun s || s.ashore || refloating s then .next s
  else match e with
    | .ferry f =>
      let y := s.ferry f
      if y.cs.shadow.isSome then .next s
      else
        let s := passUntil y.cs.since 40000 s
        let y := s.ferry f
        let (c, n) := cstoreRow y.cs 64 res s.time.ticks
        let s := s.setFerry f { y with cs := c, csErr := BitVec.ofNat 32 (satAdd 32 y.csErr.toNat n) }
        .next (if remapped y.cs c then raise s (1024 + f.val) 4 else s)
    | .pilot i =>
      let old := if copy then (s.span i).cs1 else (s.span i).cs0
      if old.shadow.isSome then .next s
      else
        let s := passUntil old.since 40000 s
        let x := s.span i
        let (c, n) := cstoreRow old 32 res s.time.ticks
        let x := { x with csErr := BitVec.ofNat 32 (satAdd 32 x.csErr.toNat n) }
        let s := s.setSpan i (if copy then { x with cs1 := c } else { x with cs0 := c })
        let s := if remapped old c then raise s 1354 i.val else s
        .next ((unreadables (s.span i)).foldl (fun s w => if s.freeBit then pilotReads s.drawn i w else s.drawn) s)

/-! ### Aground and refloat -/

/-- A refloat fails (R280). -/
def refloatFailed (s : State) (f : FerryNo) : State :=
  raise (s.modFerry f fun y => { y with refloat := false, agr := { y.agr with aground := true, cause := 0x19 } }) (1024 + f.val) 3

/-- The lowest-numbered Ferry of the Span afloat, other than `f`, whose store is copied (R280). -/
def refloatDonor (s : State) (f : FerryNo) : Option FerryNo :=
  (ferriesOf (ferrySpan f)).find? fun g => g != f && !(s.ferry g).agr.aground && !(s.ferry g).refloat

/-- REFLOAT_COMPLETE: `bad` are the rows that failed the test, and `exc` a cause met in bare mode. -/
def execRefloatComplete (f : FerryNo) (bad : List Nat) (exc : Option (BitVec 6)) (s : State) :
    Host.Outcome State Fault Refusal :=
  let y := s.ferry f
  if !y.refloat || !testsRun s || s.tamper.hold then .next s
  else match exc with
    | some c =>
      let s := goAground (s.setFerry f { y with refloat := false }) f c.toNat true
      .next (raise s (1024 + f.val) 3)
    | none =>
      let rows := (bad.map (· % 64)).eraseDups.filter fun r => !y.cs.spares.contains r
      match refloatDonor s f with
      | none => .next (refloatFailed s f)
      | some g =>
        if 2 < y.cs.spares.length + rows.length then .next (refloatFailed s f)
        else
          let s := s.setFerry f { y with
            refloat := false, agr := { y.agr with aground := false }
            halt := if y.halt = .halting then .halted else y.halt
            cs := { y.cs with spares := y.cs.spares ++ rows, shadow := none, poison := [], flips := [] } }
          let s := { s with ldr := { s.ldr with stores :=
            if (Table.has s.ldr.stores g.val) then Table.put s.ldr.stores f.val (Table.get [] s.ldr.stores g.val) else s.ldr.stores } }
          let s := rows.foldl (fun s _ => raise s (1024 + f.val) 4) s
          .next (raise s (1024 + f.val) 2)

end Sys2Proof.Machine
end

