-- ==== Sys2Proof/Machine/Except.lean ====
section
/-!
DEFINITION. Taking an exception, the lifeboat, gates and returns (R238 to R257).
-/
namespace Sys2Proof.Machine

/-! ### The frame (R242) -/

/-- A frame of 128 bytes. -/
def frameBytes (s : State) (c : Ctx) (b : BerthNo) (e : Exc) (marks : Nat) (pc : W32) : List Byte :=
  bytesOfNat 8 pc.toNat ++ bytesOfNat 8 (c.status b).toNat
    ++ [BitVec.ofNat 8 (e.cause % 64), BitVec.ofNat 8 marks, c.predByte, BitVec.ofNat 8 c.flags.byte,
        BitVec.ofNat 8 c.loops.length, 0, 0, 0]
    ++ bytesOfNat 8 e.info.toNat ++ loopBytes c.loops ++ bytesOfNat 8 s.time.count.toNat ++ bytesOfNat 8 e.info2.toNat ++ zeros 32

/-- Marks of an ordinary frame: slack water expired, long instruction in progress. -/
def marksOf (c : Ctx) : Nat := (if c.slackMark then 1 else 0) + (if c.long then 4 else 0)

/-- The world registers of Berth `b`'s current world. -/
def worldRegs (s : State) (b : BerthNo) : WorldRegs := (s.span (berthSpan b)).world (s.ctx b).north

/-- The vector of a cause in the current world (R238). -/
def vectorOf (s : State) (b : BerthNo) (cause : Nat) : W32 := (worldRegs s b).vbar + BitVec.ofNat 32 (cause * 64)

/-- The context as any entry leaves it: level 1, slack water closed, loop stack empty, LOCK hold ended (R182, R244, R256). -/
def Ctx.entered (c : Ctx) (pc : W32) : Ctx :=
  { c with sup := true, slack := false, slackRem := 0, slackMark := false, loops := [], lock := none, long := false, pc := pc }

/-- The push of a frame at offset `o` through S7, as a supervisor's 128-byte store aligned to 64 (R244): it waits, fails
with the cause of the failure, or is made. -/
def pushFrame (s : State) (b : BerthNo) (f : FerryNo) (o : W64) (l : List Byte) : State × FRes Unit :=
  let c := s.ctx b
  if rawAddr c 7 o % 64 ≠ 0 then (s, .exc (misaligned 7 o))
  else match segCheck c 7 o 128 .w with
    | .error e => (s, .exc e)
    | .ok a => if inRegs (ferrySpan f) a || inRegs (ferrySpan f) (a + 64) then (s, .exc (misaligned 7 o)) else ferWrite s b f true a l

/-- The push of a frame at offset `o` and then the fetch at the vector `v` (R239, R244): they wait, fail with a cause and the
offset that failed, or are made. Where the fetch fails, the push is not made (R245). -/
def enterFrame (s : State) (b : BerthNo) (f : FerryNo) (o : W64) (l : List Byte) (v : W32) : State × FRes Unit :=
  match pushFrame s b f o l with
  | (s', .exc x) => (s', .exc { x with info := o })
  | (s', .wait) => (s', .wait)
  | (s', .ok _) =>
    match fetchCheck s' b f true v with
    | (_, .exc x) => ((fetchCheck s b f true v).1, .exc { x with info := v.setWidth 64 })
    | r => r

/-! ### Frame faults (R239, R245, R247, R248) -/

/-- A frame fault: the frame goes to the lifeboat of the current world, or the Ferry goes aground. `addr` is the S7 offset of
the failed push or the offset of the failed vector. `pc` is the frame's PC. -/
def frameFault (s : State) (b : BerthNo) (f : FerryNo) (l : List Byte) (pcause : Nat) (addr : W64) (pc : W32) : State :=
  let c := s.ctx b
  let y := s.ferry f
  let aground := fun (s : State) (pc : W32) => goAground (s.modCtx b fun c => { c with pc := pc }) f 0x1A false
  if (y.lb c.north).occ then aground s pc
  else
    let s := s.setFerry f (y.setLb c.north
      { frame := l, berth := BitVec.ofNat 10 b.val, pcause := BitVec.ofNat 6 pcause, occ := true, addr := addr })
    let v := vectorOf s b 0x13
    let s := s.setCtx b { c.entered v with ie := false }
    match fetchCheck s b f true v with
    | (s, .exc _) => aground s v
    | (s, _) => countEv s b 9

/-! ### Exceptions that are not gates (R244) -/

/-- SMP_PC takes the frame's PC when the sampling interrupt is delivered (R509). -/
def deliverSample (c : Ctx) (cause : Nat) (pc : W32) : Ctx :=
  if c.smp.due && 0x20 < cause && cause < 0x30 && fld (c.intRoute.setWidth 64) 7 4 + 0x20 == cause && c.intPend.getLsbD 1 then
    { c with smp := { c.smp with pc := pc, due := false } }
  else c

/-- The exception entry of Ferry `f`'s base microcode (R259, R286): word 0 and its path, and the call of extension vector 2 with the
cause and the PC of the frame. Answers whether the Ferry is still afloat. -/
def entryRoutine (s : State) (b : BerthNo) (f : FerryNo) (cause : Nat) (pc : W32) : State × Bool :=
  match fetchRoutine s f 0 with
  | (s, true) => (goAground s f 0x19 false, false)
  | (s, false) =>
    let s := callVector s f b 2 (BitVec.ofNat 64 cause) (pc.setWidth 64)
    (s, !(s.ferry f).agr.aground)

/-- The entry itself, from a state in which nothing of the instruction is left (R244). None while the frame push has to wait. -/
def enterExc (s : State) (b : BerthNo) (f : FerryNo) (e : Exc) (pc : W32) : Option State :=
  let c := s.ctx b
  let l := frameBytes s c b e (marksOf c) pc
  let v := vectorOf s b e.cause
  let o := c.g30s - 128
  match enterFrame s b f o l v with
  | (_, .wait) => none
  | (s, .exc x) => some (frameFault s b f l x.cause x.info pc)
  | (s, .ok _) =>
    let c := (s.ctx b).entered v
    let c := { c with g := Table.put c.g 32 o
                      ipl := if 0x20 < e.cause ∧ e.cause < 0x30 then BitVec.ofNat 4 (e.cause - 0x20) else c.ipl }
    some (countEv (s.setCtx b c) b 9)

/-- Berth `b` on Ferry `f` takes exception `e`, with `pc` in the frame. None while the frame push has to wait. -/
def takeExc (s : State) (b : BerthNo) (f : FerryNo) (e : Exc) (pc : W32) : Option State :=
  let c := { deliverSample (s.ctx b).landAll e.cause pc with lock := none, wrote := [] }
  let s := s.setBerth b { s.berth b with ctx := c, wait := .none }
  match entryRoutine s b f e.cause pc with
  | (s, true) => enterExc s b f e pc
  | (s, false) => some s

/-! ### What the boundary offers (R241, R253) -/

/-- What the boundary offers besides the next instruction, in the order of R241: watchdog, gate limit, interrupt. `mask`
leaves interrupts out (R495). -/
def offered (s : State) (b : BerthNo) (mask : Bool) : Option Exc :=
  let c := s.ctx b
  if c.wdogPend then some { cause := 0x0E, info := c.wdogAt, info2 := 0 }
  else match (s.berth b).gate.filter fun g => g.due && !c.slack with
    | some g => some { cause := 0x11, info := g.n.setWidth 64, info2 := BitVec.ofNat 64 g.ticks }
    | none =>
      if !mask && takeable c then some { cause := 0x20 + pendLevel c, info := c.intPend.setWidth 64, info2 := 0 } else none

/-- What taking an offered exception does besides its entry: the watchdog reloads (R257), the gate limit is no longer due. -/
def offerTaken (s : State) (b : BerthNo) (e : Exc) : State :=
  s.modBerth b fun x =>
    if e.cause = 0x0E then { x with ctx := { x.ctx with wdogPend := false, wdogRem := x.ctx.wdogLim } }
    else if e.cause = 0x11 then { x with gate := x.gate.map fun g => { g with due := false } }
    else x

/-- Is an instruction of Berth `b` under way on Ferry `f` and not committed: it waits, or an access of it does? -/
def routineOpen (s : State) (b : BerthNo) (f : FerryNo) : Bool :=
  decide ((s.berth b).wait ≠ .none) || (s.ports.outst.any fun x => x.key == f.val) || Table.has s.ports.busy f.val

/-- The routine of an instruction that is not committed is abandoned (R278): what it waits for is forgotten, and event 3 signalled. -/
def abandonRoutine (s : State) (b : BerthNo) (f : FerryNo) : State :=
  if routineOpen s b f then
    countEv ((forgetAccess (abandonWait s b) f.val).modFerry f fun y => { y with micro := Micro.reset }) b 3
  else s

/-- The offered exception is taken at the boundary before the instruction at the PC, whose routine, if it is under way, is
abandoned. -/
def takeOffered (s : State) (b : BerthNo) (f : FerryNo) (e : Exc) : Option State :=
  takeExc (offerTaken (abandonRoutine s b f) b e) b f e (s.ctx b).pc

/-! ### Gates (R251, R252) -/

/-- Is a gate profile valid (R252)? -/
def profileValid (w : WorldRegs) : Bool := w.gateSp != 0 && (Table.get Seg.zero w.gateSegs 0).x

/-- The scrubbed context of the callee (R251 steps 3 and 4). -/
def gateCtx (c : Ctx) (w : WorldRegs) : Ctx :=
  { c with
    g := (c.g.filter fun e => 1 ≤ e.1 && e.1 ≤ 7) ++ [(32, w.gateSp.setWidth 64)]
    p := 0, flags := Flags.reset, loops := [], segs := w.gateSegs, segSrc := []
    north := !c.north, gate := true, sup := true, ipl := 0, ie := false, dzt := false, lock := none, wrote := [], long := false }

/-- TRAP n, n = 224 to 255, whose PC is `pc`: an exception in the caller's world, or the gate. None while the push of the
gate frame has to wait. -/
def gateCall (s : State) (b : BerthNo) (f : FerryNo) (n : BitVec 8) : Option State × Option Exc :=
  let c := (s.ctx b).landAll
  let w := (s.span (berthSpan b)).world (!c.north)
  let refuse := fun (d : Nat) => (none, some { cause := 0x0F, info := n.setWidth 64, info2 := BitVec.ofNat 64 d : Exc })
  if c.gate then refuse 2
  else if !w.gateEn.getLsbD (n.toNat - 224) then refuse 1
  else if !profileValid w then refuse 3
  else
    let frame := w.gateSp.setWidth 64 - 128
    let save : GateSave :=
      { caller := { c with pc := c.pc + 4, lock := none, wrote := [] }, n := n, frame := frame, ticks := 0, due := false, raised := false }
    let k := gateCtx c w
    let s := (s.setBerth b { s.berth b with ctx := k, gate := some save }).modFerry f fun y => { y with localMem := [] }
    let e : Exc := { cause := 0x31, info := n.setWidth 64, info2 := at' b.val 9 0 ||| atB c.north 16 }
    let s := callVector s f b 2 0x31 0
    if (s.ferry f).agr.aground then (some s, none)
    else
      let l := frameBytes s k b e 2 0
      let v := vectorOf s b 0x31
      match enterFrame s b f frame l v with
      | (_, .wait) => (none, none)
      | (s, .exc x) => (some (countEv (frameFault s b f l x.cause x.info 0) b 10), none)
      | (s, .ok _) => (some (countEv (s.modCtx b fun c => { c with g := Table.put c.g 32 frame, pc := v }) b 10), none)

/-- The gate return (R251 step 8): everything of the save area but G1 to G7; the slack-water window and what the save area
does not hold stay. -/
def gateReturn (s : State) (b : BerthNo) (f : FerryNo) (g : GateSave) : State :=
  let c := (s.ctx b).landAll
  let k := g.caller
  let c := { c with
    g := (c.g.filter fun e => 1 ≤ e.1 && e.1 ≤ 7) ++ (k.g.filter fun e => 8 ≤ e.1)
    p := k.p, flags := k.flags, loops := k.loops, segs := k.segs, segSrc := k.segSrc
    north := k.north, gate := false, sup := k.sup, ipl := k.ipl, ie := k.ie, dzt := k.dzt, pc := k.pc, wrote := [], long := false }
  countEv ((s.setBerth b { s.berth b with ctx := c, gate := none }).modFerry f fun y => { y with localMem := [] }) b 10

/-! ### RETX (R246) -/

/-- The checks of R246 on a frame: the detail of the first that fails. -/
def frameBad (c : Ctx) (b : BerthNo) (l : List Byte) : Option Nat :=
  let st := BitVec.ofNat 64 (fieldAt l 8 8)
  if fld st 31 29 ≠ fld (c.status b) 31 29 then some 1
  else if 4 < fieldAt l 20 1 then some 2
  else if fieldAt l 0 4 % 4 ≠ 0 then some 3
  else none

/-- The context that RETX restores from a frame (R246). -/
def Ctx.returned (c : Ctx) (l : List Byte) : Ctx :=
  let st := BitVec.ofNat 64 (fieldAt l 8 8)
  { c with
    pc := BitVec.ofNat 32 (fieldAt l 0 4), p := BitVec.ofNat 8 (fieldAt l 18 1), flags := Flags.ofByte (fieldAt l 19 1)
    loops := loopsOf (fieldAt l 20 1) ((l.drop 32).take 48)
    g := Table.put c.g (c.key 30) (c.getG 30 + 128)
    sup := tb st 24, ipl := BitVec.ofNat 4 (fld st 23 20), ie := tb st 19, dzt := tb st 18 }

/-- The frame that RETX reads: 128 bytes at G30 through S7. -/
def retxLoad (s : State) (b : BerthNo) (f : FerryNo) : State × FRes (List Byte) := segLoad s b f 7 ((s.ctx b).getG 30) 128 false

end Sys2Proof.Machine
end

