-- ==== Sys2Proof/Machine/Operands.lean ====
section
/-!
DEFINITION. The word and the operands of a Natuta instruction: its encoding (R206, R207), the checks of its decoding (R208
to R210), and the offsets and bit addresses its operands form (R218, R222).
-/
namespace Sys2Proof.Machine

/-- How an instruction stands to an open LOCK hold (R182). -/
inductive LockCls where
  /-- An ALU operation, a compare, predicate logic or NOP: it counts toward the eight instructions. -/
  | alu
  /-- The unlock store. -/
  | unlock
  /-- Any other: the hold ends before it executes. -/
  | other
  deriving DecidableEq, Repr

/-- What the decoder makes of a word (R208 to R210). -/
structure Dec where
  /-- The word. -/
  word : W32
  /-- The major opcode. -/
  major : Nat
  /-- The guard. -/
  g : Guard
  /-- The bit of FEAT4 that its function needs. -/
  group : Option Nat := none
  /-- A reserved value stands in an enumerated field: cause 0x01. -/
  enumBad : Bool := false
  /-- A reserved or unused field is not zero, or a pairing rule is broken: cause 0x02. -/
  fieldBad : Bool := false
  /-- It runs in the North bank only. -/
  north : Bool := false
  /-- It requires supervisor level. -/
  priv : Bool := false
  /-- Its place in a LOCK hold. -/
  cls : LockCls := .other

/-- A fault of decoding: its info is the word (R209). -/
def decExc (d : Dec) (cause : Nat) : Exc := { cause := cause, info := d.word.setWidth 64, info2 := 0 }

/-- The first check of R209 that fails, for a context. -/
def decodeFault (s : State) (c : Ctx) (d : Dec) : Option Exc :=
  if d.enumBad then some (decExc d 0x01)
  else if !tb (featReg s 0) d.major || d.group.any (fun k => !tb (featReg s 4) k) then some (decExc d 0x05)
  else if d.fieldBad then some (decExc d 0x02)
  else if d.north && !c.north then some (decExc d 0x04)
  else if d.priv && !c.sup then some (decExc d 0x03)
  else none

/-! ### Words (R207) -/

/-- Guard and major opcode of a word. -/
def headBits (g : Guard) (major : Nat) : Nat := g.gp.toNat * 2 ^ 29 + (if g.gn then 2 ^ 28 else 0) + major * 2 ^ 22

/-- A flag as a number. -/
def bit (b : Bool) : Nat := if b then 1 else 0

/-- Layout A. -/
def wordA (o : LA) (major fn : Nat) : W32 :=
  BitVec.ofNat 32 (headBits o.g major + o.rd.toNat * 2 ^ 17 + o.ra.toNat * 2 ^ 12 + o.rb.toNat * 2 ^ 7 + bit o.f * 2 ^ 6 + fn)

/-- Layout A.p. -/
def wordAp (o : LAp) (major : Nat) : W32 :=
  BitVec.ofNat 32 (headBits o.g major + o.pd.toNat * 2 ^ 19 + o.pe.toNat * 2 ^ 16 + o.ra.toNat * 2 ^ 11 + o.rb.toNat * 2 ^ 6
    + o.cond.toNat)

/-- Layout A.l. -/
def wordAl (o : LAl) (major fn : Nat) : W32 :=
  BitVec.ofNat 32 (headBits o.g major + o.pd.toNat * 2 ^ 19 + o.pe.toNat * 2 ^ 16 + o.pa.toNat * 2 ^ 13 + bit o.na * 2 ^ 12
    + o.pb.toNat * 2 ^ 9 + bit o.nb * 2 ^ 8 + o.res.toNat * 2 ^ 6 + fn)

/-- Layout I. -/
def wordI (o : LI) (major : Nat) : W32 :=
  BitVec.ofNat 32 (headBits o.g major + o.rd.toNat * 2 ^ 17 + o.ra.toNat * 2 ^ 12 + bit o.f * 2 ^ 11 + o.imm.toNat)

/-- Layout I.h. -/
def wordIh (o : LIh) (major fn : Nat) : W32 :=
  BitVec.ofNat 32 (headBits o.g major + o.rd.toNat * 2 ^ 17 + o.ra.toNat * 2 ^ 12 + bit o.f * 2 ^ 11 + fn * 2 ^ 8
    + o.res.toNat * 2 ^ 6 + o.sh.toNat)

/-- Layout I.p. -/
def wordIp (o : LIp) (major : Nat) : W32 :=
  BitVec.ofNat 32 (headBits o.g major + o.pd.toNat * 2 ^ 19 + o.pe.toNat * 2 ^ 16 + o.ra.toNat * 2 ^ 11
    + o.cond.toNat * 2 ^ 7 + o.imm.toNat)

/-- Layout I.s. -/
def wordIs (o : LIs) (major : Nat) (dir : Bool) : W32 :=
  BitVec.ofNat 32 (headBits o.g major + o.r.toNat * 2 ^ 17 + o.res.toNat * 2 ^ 13 + bit dir * 2 ^ 12 + o.num.toNat)

/-- Layout M. -/
def wordM (o : LM) (major fn : Nat) : W32 :=
  BitVec.ofNat 32 (headBits o.g major + o.rd.toNat * 2 ^ 17 + o.ra.toNat * 2 ^ 12 + o.sa.toNat * 2 ^ 9 + fn * 2 ^ 6
    + o.disp.toNat)

/-- Layout M.l. -/
def wordMl (o : LMl) (major fn : Nat) : W32 :=
  BitVec.ofNat 32 (headBits o.g major + o.rd.toNat * 2 ^ 17 + o.ra.toNat * 2 ^ 12 + o.sa.toNat * 2 ^ 9 + fn * 2 ^ 6
    + o.sb.toNat * 2 ^ 3 + o.res.toNat)

/-- Layout B. -/
def wordB (o : LB) (major : Nat) : W32 := BitVec.ofNat 32 (headBits o.g major + o.disp.toNat)

/-- Layout B.l. -/
def wordBl (o : LBl) (major : Nat) : W32 :=
  BitVec.ofNat 32 (headBits o.g major + o.ra.toNat * 2 ^ 17 + o.res.toNat * 2 ^ 12 + o.e.toNat)

/-- Layout U. -/
def wordU (o : LU) (major : Nat) : W32 :=
  BitVec.ofNat 32 (headBits o.g major + o.rd.toNat * 2 ^ 17 + bit o.k * 2 ^ 16 + o.imm.toNat)

/-- Layout S. -/
def wordS (o : LS) (fn : Nat) : W32 :=
  BitVec.ofNat 32 (headBits o.g 0 + o.ra.toNat * 2 ^ 17 + o.pd.toNat * 2 ^ 14 + o.imm.toNat * 2 ^ 6 + fn)

/-- Layout S.b. -/
def wordSb (o : LSb) (fn : Nat) : W32 :=
  BitVec.ofNat 32 (headBits o.g 0x10 + o.p.toNat * 2 ^ 19 + o.ra.toNat * 2 ^ 14 + o.off.toNat * 2 ^ 3 + fn)

/-! ### The function slots (R210 to R234) -/

/-- Is the function slot of a word assigned? Enumerated fields besides it are left to its instruction. -/
def slotAssigned (w : W32) : Bool :=
  let m := w.toNat / 2 ^ 22 % 64
  let f6 := w.toNat % 64
  let f3 := w.toNat / 64 % 8
  match m with
  | 0x00 => f6 ≤ 0x0C
  | 0x01 => f6 ≤ 4 || (8 ≤ f6 && f6 ≤ 0x0C) || (0x10 ≤ f6 && f6 ≤ 0x13) || (0x18 ≤ f6 && f6 ≤ 0x1A)
      || (0x20 ≤ f6 && f6 ≤ 0x23) || (0x28 ≤ f6 && f6 ≤ 0x2B) || (0x30 ≤ f6 && f6 ≤ 0x32)
  | 0x05 => w.toNat / 256 % 8 ≤ 3
  | 0x0A => f6 ≤ 3
  | 0x0C => f3 ≤ 6
  | 0x0D => f3 ≤ 4
  | 0x0E => f3 % 4 ≤ 2
  | 0x0F => f3 % 4 ≤ 2
  | 0x10 => w.toNat % 8 ≤ 6
  | 0x16 => f6 ≤ 2
  | 0x18 => f6 ≤ 3
  | 0x1C => f3 ≤ 1
  | 0x20 => f3 ≤ 1
  | 0x21 => f3 ≤ 1
  | 0x22 => f3 ≤ 1
  | 0x23 => f3 ≤ 1
  | 0x24 => f6 ≤ 7
  | 0x25 => f6 ≤ 8
  | 0x26 => f6 = 0
  | 0x28 => f6 ≤ 2
  | 0x2C => f6 ≤ 5
  | m => [0x02, 0x03, 0x04, 0x06, 0x07, 0x08, 0x09, 0x14, 0x15, 0x17, 0x19].contains m

/-- The function slot of a word (R207, R210): 0 for a major without one. -/
def slotOf (w : W32) : Nat :=
  let m := w.toNat / 2 ^ 22 % 64
  if [0x00, 0x01, 0x0A, 0x16, 0x18, 0x24, 0x25, 0x28, 0x2C].contains m then w.toNat % 64
  else if m = 0x05 then w.toNat / 256 % 8
  else if [0x0C, 0x0D, 0x0E, 0x0F, 0x1C, 0x20, 0x21, 0x22, 0x23].contains m then w.toNat / 64 % 8
  else if m = 0x10 then w.toNat % 8
  else 0

/-- The word at which Ferry `f`'s routine for an instruction begins: base(major) + fn (R259, R273). -/
def entryOf (s : State) (f : FerryNo) (d : Dec) : Nat := fieldAt (Table.get [] s.ldr.stores f.val) (2 * d.major) 2 % 4096 + slotOf d.word

/-- Is a word in the slot of NOP (R211)? -/
def isNop (w : W32) : Bool := w.toNat / 2 ^ 22 % 64 == 0 && w.toNat % 64 == 0

/-- The guard of a word (R206). -/
def guardOf (w : W32) : Guard := { gp := w.extractLsb' 29 3, gn := w.getLsbD 28 }

/-! ### Offsets and addresses -/

/-- Effective offset of layout M with access size `z` (R218). -/
def offsetM (o : LM) (c : Ctx) (z : Nat) : W64 := c.getG o.ra.toNat + (o.disp.signExtend 64) * BitVec.ofNat 64 z

/-- Bit address of layout S.b (R222). -/
def addrSb (o : LSb) (c : Ctx) : Nat := (c.getG o.ra.toNat + o.off.setWidth 64).toNat % 2 ^ 18

/-- Bit address of WAIT and WAITT (R212). -/
def addrS (o : LS) (c : Ctx) : Nat := (c.getG o.ra.toNat).toNat % 2 ^ 18

/-- Target of BR and CALL (R223). -/
def targetB (o : LB) (c : Ctx) : W64 := c.pc.setWidth 64 + (o.disp.signExtend 64) * 4

/-- The end instruction of a LOOP (R225). -/
def stopBl (o : LBl) (c : Ctx) : W32 := c.pc + 4 * (BitVec.ofNat 32 (o.e.toNat + 1))

end Sys2Proof.Machine
end

