-- ==== Sys2Proof/Machine/Flags.lean ====
section
/-!
DEFINITION. Results and FLAGS of the arithmetic, logic and shift instructions (R172, R173, R195 to R197, R213), and the
conditions of the compares (R216).
-/
namespace Sys2Proof.Machine

/-- A result with the FLAGS that the instruction writes when its f bit is set. -/
abbrev Alu := W64 × Flags

/-- FLAGS with z and n from a result (R195). -/
def Flags.zn (x : Flags) (r : W64) : Flags := { x with z := r == 0, n := r.msb }

/-- The three-operand sum a + b + c of ADD, ADC, SUB and SBC, with carry and signed overflow (R195, R213). -/
def addc (x : Flags) (a b : W64) (c : Bool) : Alu :=
  let n := a.toNat + b.toNat + bit c
  let r := BitVec.ofNat 64 n
  (r, { x.zn r with c := decide (2 ^ 64 ≤ n), v := a.msb == b.msb && r.msb != a.msb })

/-- ADD. -/
def aluAdd (x : Flags) (a b : W64) : Alu := addc x a b false
/-- SUB: a + not b + 1. -/
def aluSub (x : Flags) (a b : W64) : Alu := addc x a (~~~b) true
/-- NEG: 0 − a (R196). -/
def aluNeg (x : Flags) (a _ : W64) : Alu := aluSub x 0 a
/-- ADC. -/
def aluAdc (x : Flags) (a b : W64) : Alu := addc x a b x.c
/-- SBC: a + not b + c. -/
def aluSbc (x : Flags) (a b : W64) : Alu := addc x a (~~~b) x.c

/-- A result that sets z and n only (R195). -/
def aluZn (x : Flags) (r : W64) : Alu := (r, x.zn r)

/-- AND. -/
def aluAnd (x : Flags) (a b : W64) : Alu := aluZn x (a &&& b)
/-- OR. -/
def aluOr (x : Flags) (a b : W64) : Alu := aluZn x (a ||| b)
/-- XOR. -/
def aluXor (x : Flags) (a b : W64) : Alu := aluZn x (a ^^^ b)
/-- ANDN. -/
def aluAndn (x : Flags) (a b : W64) : Alu := aluZn x (a &&& ~~~b)
/-- NOR. -/
def aluNor (x : Flags) (a b : W64) : Alu := aluZn x (~~~(a ||| b))

/-- Is a shift amount 1 to 63, so that a bit is shifted out into c (R197)? -/
def shiftsOut (n : W64) : Bool := n != 0 && decide (n.toNat < 64)

/-- SHL (R197). -/
def aluShl (x : Flags) (a n : W64) : Alu :=
  let r := if n.toNat < 64 then a <<< n.toNat else 0
  (r, { x.zn r with c := shiftsOut n && a.getLsbD (64 - n.toNat) })

/-- SHR (R197). -/
def aluShr (x : Flags) (a n : W64) : Alu :=
  let r := if n.toNat < 64 then a >>> n.toNat else 0
  (r, { x.zn r with c := shiftsOut n && a.getLsbD (n.toNat - 1) })

/-- SAR (R197): by 64 or more, 64 copies of bit 63. -/
def aluSar (x : Flags) (a n : W64) : Alu :=
  let r := a.sshiftRight (min 63 n.toNat)
  let r := if n.toNat < 64 then r else if a.msb then BitVec.allOnes 64 else 0
  (r, { x.zn r with c := shiftsOut n && a.getLsbD (n.toNat - 1) })

/-- ROR (R197): the amount modulo 64; c stays. -/
def aluRor (x : Flags) (a n : W64) : Alu :=
  let k := n.toNat % 64
  aluZn x ((a >>> k) ||| (a <<< (64 - k)))

/-- Does an integer fit in 64 bits of two's complement? -/
def fits64 (i : Int) : Bool := decide (-(2 ^ 63) ≤ i) && decide (i < 2 ^ 63)

/-- MUL: v when the signed product does not fit (R195). -/
def aluMul (x : Flags) (a b : W64) : Alu :=
  let r := a * b
  (r, { x.zn r with v := !fits64 (a.toInt * b.toInt) })

/-- MULH. -/
def aluMulh (x : Flags) (a b : W64) : Alu := aluZn x (BitVec.ofInt 64 (a.toInt * b.toInt / 2 ^ 64))
/-- MULHU. -/
def aluMulhu (x : Flags) (a b : W64) : Alu := aluZn x (BitVec.ofNat 64 (a.toNat * b.toNat / 2 ^ 64))

/-- The one signed division whose quotient does not fit (R196). -/
def divOver (a b : W64) : Bool := a == 0x8000000000000000 && b == BitVec.allOnes 64

/-- A division's result and FLAGS: v as given, and by zero the sticky dz besides (R172, R196). -/
def divFlags (x : Flags) (b r : W64) (v : Bool) : Flags := { x.zn r with v := v, dz := x.dz || b == 0 }

/-- DIV (R196). -/
def aluDiv (x : Flags) (a b : W64) : Alu :=
  let r := if b = 0 then BitVec.allOnes 64 else BitVec.ofInt 64 (a.toInt.tdiv b.toInt)
  (r, divFlags x b r (divOver a b))

/-- DIVU (R196): v stays. -/
def aluDivu (x : Flags) (a b : W64) : Alu :=
  let r := if b = 0 then BitVec.allOnes 64 else BitVec.ofNat 64 (a.toNat / b.toNat)
  (r, divFlags x b r x.v)

/-- REM (R196): the remainder takes the sign of the dividend. -/
def aluRem (x : Flags) (a b : W64) : Alu :=
  let r := if b = 0 then a else BitVec.ofInt 64 (a.toInt.tmod b.toInt)
  (r, divFlags x b r (divOver a b))

/-- REMU (R196): v stays. -/
def aluRemu (x : Flags) (a b : W64) : Alu :=
  let r := if b = 0 then a else BitVec.ofNat 64 (a.toNat % b.toNat)
  (r, divFlags x b r x.v)

/-- MIN. -/
def aluMin (x : Flags) (a b : W64) : Alu := aluZn x (if a.toInt ≤ b.toInt then a else b)
/-- MAX. -/
def aluMax (x : Flags) (a b : W64) : Alu := aluZn x (if a.toInt ≤ b.toInt then b else a)
/-- MINU. -/
def aluMinu (x : Flags) (a b : W64) : Alu := aluZn x (if a.toNat ≤ b.toNat then a else b)
/-- MAXU. -/
def aluMaxu (x : Flags) (a b : W64) : Alu := aluZn x (if a.toNat ≤ b.toNat then b else a)

/-- Leading zero bits of a word, 64 for zero. -/
def leadingZeros (a : W64) : Nat := if a = 0 then 64 else 63 - Nat.log2 a.toNat
/-- One bits of a word. -/
def oneBits (a : W64) : Nat := ((List.range 64).filter fun k => a.getLsbD k).length
/-- The bytes of a word in reverse order. -/
def swapBytes (a : W64) : W64 := BitVec.ofNat 64 (natOfBytesBE (bytesOfNat 8 a.toNat))

/-- CLZ. -/
def aluClz (x : Flags) (a _ : W64) : Alu := aluZn x (BitVec.ofNat 64 (leadingZeros a))
/-- POPC. -/
def aluPopc (x : Flags) (a _ : W64) : Alu := aluZn x (BitVec.ofNat 64 (oneBits a))
/-- BSWAP. -/
def aluBswap (x : Flags) (a _ : W64) : Alu := aluZn x (swapBytes a)

/-- The FLAGS after an instruction that changes c, v, z and n only when its f bit is set, and dz in any case (R173). -/
def Flags.after (x y : Flags) (f : Bool) : Flags := if f then y else { x with dz := y.dz }

/-- Is condition `k` of a compare true (R216)? Codes above 10 are reserved. -/
def condTrue (k : Nat) (a b : W64) : Bool :=
  match k with
  | 0 => a == b
  | 1 => a != b
  | 2 => decide (a.toInt < b.toInt)
  | 3 => decide (b.toInt ≤ a.toInt)
  | 4 => decide (a.toNat < b.toNat)
  | 5 => decide (b.toNat ≤ a.toNat)
  | 6 => decide (b.toInt < a.toInt)
  | 7 => decide (a.toInt ≤ b.toInt)
  | 8 => decide (b.toNat < a.toNat)
  | 9 => decide (a.toNat ≤ b.toNat)
  | _ => (a &&& b) != 0

end Sys2Proof.Machine
end

