-- ==== Sys2Proof/Machine/Natuta.lean ====
section
/-!
DEFINITION. One dispatch of a Ferry (R174, R182, R187, R188, R208, R209, R241, R255, R273, R488): what comes before the
instruction, the instruction, and what follows it. Every Natuta row of the table is one call of `natuta` with the word it
stands for and the effect of its function.
-/
namespace Sys2Proof.Machine

/-- What follows the effect of an instruction. -/
inductive After where
  /-- It retires, and execution goes on after it (R186). -/
  | next
  /-- It retires; the effect has set the PC and the loop stack. -/
  | done
  /-- It raises an exception, with this PC in the frame (R243). -/
  | exc (e : Exc) (pc : W32)
  /-- It has not been made: it waits, and runs again at a later dispatch. -/
  | again
  /-- A granule of a long instruction is complete and more are to come (R191, R273). -/
  | granule
  /-- The Berth waits, off its Ferry if it may leave it (R248, R296). -/
  | wait (w : Wait)
  /-- The instruction holds its Ferry (R232). -/
  | hold (w : Wait)
  /-- The Berth gives up its Ferry and stays ready. -/
  | yield
  /-- The Berth becomes idle. -/
  | halt
  /-- TRAP n of a gate (R251). -/
  | gate (n : BitVec 8)
  /-- RETX at the gate frame (R251 step 8). -/
  | gateBack (g : GateSave)
  /-- A control-store word of its routine is uncorrectable: its Ferry goes aground (R279). -/
  | aground

/-- The effect of an instruction whose guard is true, on the Berth that its Ferry holds. The first argument asks a long
instruction for one granule only. -/
abbrev Body := Bool → State → BerthNo → State × After

/-! ### Before the instruction -/

/-- Does Ferry `f` dispatch for Berth `b`? It is not halted or aground, the engines run, and no instruction waits on it. A
Ferry goes on toward Holding while slack water or a LOCK hold is open (R444). -/
def dispatches (s : State) (f : FerryNo) (b : BerthNo) : Bool :=
  let y := s.ferry f
  let x := s.berth b
  x.st == .running && x.wait == .none && y.halt != .halted && !y.agr.aground && !y.refloat
    && !s.ashore && !s.tamper.hold && s.power.st == .underWay
    && (s.power.target.isNone || x.ctx.slack || x.ctx.lock.isSome)

/-- Does run control stop this Ferry's Berth (R489, R494): the North bank only where it is open to debug? -/
def haltsBerth (s : State) (b : BerthNo) : Bool := s.openDebug || !(s.ctx b).north

/-- The run state of Ferry `f` (R495): bare mode lasts no longer than the command that runs in it. -/
def runState (y : Ferry) : Nat :=
  if y.refloat then 4
  else if y.agr.aground then 3
  else match y.halt with
    | .run => 0
    | .halting => 1
    | .halted => 2

/-- The result of RUNSTAT for Ferry `f` (R495). -/
def runstat (s : State) (f : FerryNo) : W64 :=
  let y := s.ferry f
  let tail := at' y.hcause.toNat 19 16 ||| at' (runState y) 3 0
  match y.berth with
  | none => tail
  | some b =>
    let c := s.ctx b
    at' (if haltsBerth s b then c.pc.toNat else 0) 63 32 ||| at' b.val 31 22 ||| atB c.north 21 ||| atB true 20 ||| tail

/-- A STEP is acknowledged; a debugger no longer attached gets DETACHED (R428, R495). -/
def stepAck (s : State) (f : FerryNo) : State := if s.gw.attached then gwAck s 0 (runstat s f) else gwAck s 6 0

/-- Ferry `f` is halted, with every load complete. A STEP under way is done (R495). -/
def haltNow (s : State) (f : FerryNo) : State :=
  let stepping := (s.ferry f).step
  let s := s.modFerry f fun y => { y with halt := .halted, step := false, stepMask := false }
  let s := match (s.ferry f).berth with
    | some b => s.modCtx b Ctx.landAll
    | none => s
  if stepping then stepAck s f else s

/-- A PARK, STOP or switch request that is not postponed takes effect at a dispatch (R297, R303). -/
def switchOut (s : State) (b : BerthNo) : Option State :=
  let x := s.berth b
  if postponed s b then none
  else match x.cmd with
    | some dst => some ((leaveFerry s b dst .none).modBerth b fun x => { x with cmd := none })
    | none => if x.switchReq then some (countSpan (leaveReady s b) (berthSpan b) 4 1
        { north := x.ctx.north, sup := x.ctx.sup, master := 6 } none 1) else none

/-- Does the breakpoint of Ferry `f` match the instruction at the PC of Berth `b` (R494)? -/
def breaks (s : State) (f : FerryNo) (b : BerthNo) : Bool :=
  let v := s.hreg (0x5F1000 + 8 * f.val)
  tb v 31 && fld v 63 32 == (s.ctx b).pc.toNat && !(s.ferry f).skipBrk && (s.ferry f).halt == .run && haltsBerth s b

/-! ### LOCK and late loads -/

/-- The context at the start of an instruction of a class: a hold that it does not suffer ends (R182). -/
def Ctx.lockBefore (c : Ctx) (k : LockCls) : Ctx :=
  match k with
  | .other => { c with lock := none }
  | _ => c

/-- The context after an instruction of a class retires: the hold counts it, and ends after the eighth or the unlock store. -/
def Ctx.lockAfter (c : Ctx) (k : LockCls) : Ctx :=
  match k with
  | .other => c
  | .unlock => { c with lock := none }
  | .alu => { c with lock := (c.lock.map fun l => { l with count := l.count + 1 }).filter fun l => l.count < 8 }

/-- The loads of the instruction before land (R188). Where the instruction just made writes or loads the same register, the
register holds either value: a free choice. -/
def landOld (b : BerthNo) (s : State) : List (Nat × W64) → State
  | [] => s
  | (k, v) :: t =>
    let c := s.ctx b
    if c.wrote.contains k then
      landOld b ((if s.freeBit then s.setCtx b { c with g := Table.put c.g k v } else s).drawn) t
    else
      let c' := { c with g := Table.put c.g k v }
      if c.late.any fun e => e.1 == k then
        let c' := if s.freeBit then { c' with late := c'.late.filter fun e => e.1 != k } else c'
        landOld b (s.setCtx b c').drawn t
      else landOld b (s.setCtx b c') t

/-- The older loads of a context land, and its list of written registers is emptied. -/
def settle (s : State) (b : BerthNo) (old : List (Nat × W64)) : State :=
  (landOld b s old).modCtx b fun c => { c with wrote := [] }

/-! ### After the instruction -/

/-- The step of a STEP command is over: its Ferry halts again with cause 7 (R495). -/
def stepEnd (s : State) (f : FerryNo) (step : Bool) : State :=
  if step && !(s.ferry f).agr.aground then
    let s := (haltNow s f).modFerry f fun y => { y with hcause := 7 }
    stepAck s f
  else s

/-- A retired instruction: its count, its place in a LOCK hold, and no long instruction in progress. -/
def retire (s : State) (b : BerthNo) (f : FerryNo) (k : LockCls) (ev : Nat) : State :=
  (countEv (s.modCtx b fun c => { c.lockAfter k with long := false }) b ev).modFerry f fun y => { y with lockWait := false }

/-- The Berth waits: it leaves its Ferry, unless the lifeboat set of its world is occupied (R248). -/
def startWait (s : State) (b : BerthNo) (f : FerryNo) (w : Wait) : State :=
  if ((s.ferry f).lb (s.ctx b).north).occ then s.modBerth b fun x => { x with wait := w }
  else leaveFerry s b .waiting w

/-- What follows the effect, and whether the dispatch is over. `old` are the loads of the instruction before, and `s0` is the
state before the dispatch, to which an exception whose frame push has to wait goes back. -/
def finish (s0 s : State) (b : BerthNo) (f : FerryNo) (k : LockCls) (old : List (Nat × W64)) : After → State × Bool
  | .next => (retire ((settle s b old).modCtx b Ctx.advance) b f k 1, true)
  | .done => (retire (settle s b old) b f k 1, true)
  | .exc e pc =>
    match takeExc ((settle s b old).modFerry f fun y => { y with lockWait := false }) b f e pc with
    | some s => (s, true)
    | none => (s0, false)
  | .again => (s.modCtx b fun c => { c with late := old, wrote := [] }, false)
  | .granule => ((settle s b old).modCtx b fun c => { c with long := true }, true)
  | .wait w => (ckptStep (startWait (settle s b old) b f w) b, true)
  | .hold w => ((settle s b old).modBerth b fun x => { x with wait := w }, true)
  | .yield =>
    let s := retire ((settle s b old).modCtx b Ctx.advance) b f k 1
    (if ((s.ferry f).lb (s.ctx b).north).occ then s else leaveReady s b, true)
  | .halt =>
    let s := retire ((settle s b old).modCtx b Ctx.advance) b f k 1
    (leaveFerry (raiseBerth s b 1) b .idle .none, true)
  | .gate n =>
    let s := settle s b old
    match gateCall s b f n with
    | (some s, _) => (retire s b f k 1, true)
    | (none, some e) =>
      (match takeExc s b f e (s.ctx b).pc with
       | some s => (s, true)
       | none => (s0, false))
    | (none, none) => (s0, false)
  | .gateBack g => (retire (gateReturn (settle s b old) b f g) b f k 1, true)
  | .aground =>
    let s := settle s b old
    (if (s.ferry f).agr.aground then s else goAground s f 0x19 false, true)

/-- Is it an exception or gate of the instruction, which comes before those that the boundary offers (R241)? -/
def After.first : After → Bool
  | .exc _ _ => true
  | .gate _ => true
  | _ => false

/-- The instruction itself: fetch, decoding, guard and effect. The last part tells an effect from a false guard. -/
def attempt (s : State) (f : FerryNo) (b : BerthNo) (d : Dec) (body : Body) (single : Bool) : State × After × Bool :=
  let c := s.ctx b
  match fetchCheck s b f false c.pc with
  | (s, .exc e) => (s, .exc e c.pc, true)
  | (s, .wait) => (s, .again, true)
  | (s, .ok _) =>
    match decodeFault s c d with
    | some e => (s, .exc e c.pc, true)
    | none =>
      let s := s.modCtx b fun c => c.lockBefore d.cls
      if c.guard d.g then
        match fetchRoutine s f (entryOf s f d) with
        | (s, true) => (s, .aground, true)
        | (s, false) =>
          let r := body single s b
          (r.1, r.2, true)
      else (s, .next, false)

/-- The instruction with the exceptions that its boundary offers in `off`, and whether the dispatch is over. -/
def execute (s0 : State) (f : FerryNo) (b : BerthNo) (d : Dec) (body : Body) (single : Bool) (off : Option Exc) : State × Bool :=
  let c := s0.ctx b
  let (s, a, full) := attempt (s0.setCtx b { c with late := [], wrote := [] }) f b d body single
  match off with
  | some e =>
    if a.first then finish s0 s b f d.cls c.late a
    else match takeOffered s0 b f e with
      | some s => (s, true)
      | none => (s0, false)
  | none =>
    if full then finish s0 s b f d.cls c.late a
    else (retire ((settle s b c.late).modCtx b Ctx.advance) b f d.cls 2, true)

/-- Cause 0x10 for a loop depth above 4 that was written to a context (R301). -/
def depthExc : Exc := { cause := 0x10, info := 270, info2 := 2 }

/-- The dispatch once nothing stops it. A dispatch that is not over leaves run control's marks for the next one. -/
def dispatchGo (s : State) (f : FerryNo) (b : BerthNo) (d : Dec) (body : Body) : State :=
  let y := s.ferry f
  let c := s.ctx b
  let s' := s.modFerry f fun y => { y with skipBrk := false, step := false, stepMask := false }
  let r := match c.badDepth with
    | some _ =>
      (match takeExc (s'.modCtx b fun c => { c with badDepth := none, loops := [] }) b f depthExc c.pc with
       | some s => (s, true)
       | none => (s', false))
    | none =>
      let off := offered s' b y.stepMask
      execute s' f b d body (y.step || off.isSome) off
  if r.2 then stepEnd r.1 f y.step
  else r.1.modFerry f fun z => { z with skipBrk := y.skipBrk, step := y.step, stepMask := y.stepMask }

/-- One dispatch of Ferry `f` for the Berth `b` it holds (R273, log entry 10): a Ferry reset, a halt, a
breakpoint (a LOCK hold runs to its end first, R488) come before the instruction, and so does a switch-out where the boundary
offers no exception (R273). -/
def dispatch (s : State) (f : FerryNo) (b : BerthNo) (d : Dec) (body : Body) : State :=
  let y := s.ferry f
  let x := s.berth b
  if y.resetReq && x.ctx.lock.isNone then ferryResetNow s f
  else if y.halt == .halting && x.ctx.lock.isNone && haltsBerth s b then haltNow (abandonRoutine s b f) f
  else
    let hit := breaks s f b
    let s := if hit then trigger s (groupsOf s f) (some f) 3 4 else s
    if hit && x.ctx.lock.isNone then haltNow s f
    else match (if (offered s b y.stepMask).isSome then none else switchOut (abandonRoutine s b f) b) with
      | some s => stepEnd s f y.step
      | none => dispatchGo s f b d body

/-- A Natuta row of the table: Ferry `f` dispatches the instruction. -/
def natuta (f : FerryNo) (d : Dec) (body : Body) (s : State) : State :=
  match (s.ferry f).berth with
  | none => s
  | some b => if dispatches s f b then dispatch s f b d body else s

/-- A Natuta row as the outcome of its command. -/
def row (f : FerryNo) (d : Dec) (body : Body) (s : State) : Host.Outcome State Fault Refusal := .next (natuta f d body s)

end Sys2Proof.Machine
end

