-- ==== Sys2Proof/Machine/Alu.lean ====
section
/-!
DEFINITION. The arithmetic, logic, shift, move, compare and predicate instructions (R213 to R217), majors 0x01 to 0x0A, and NOP.
-/
namespace Sys2Proof.Machine

/-- The decoding of an ALU word, major 0x01 (R213): a unary function requires rb zero. -/
def aluDec (o : LA) (fn : Nat) (group : Option Nat) (unary : Bool) : Dec :=
  { word := wordA o 0x01 fn, major := 0x01, g := o.g, group := group, fieldBad := unary && o.rb != 0, cls := .alu }

/-- G(rd) and FLAGS take a result (R173, R213). -/
def putAlu (s : State) (b : BerthNo) (rd : BitVec 5) (f : Bool) (r : Alu) : State :=
  let c := s.ctx b
  s.setCtx b { c.setG rd.toNat r.1 with flags := c.flags.after r.2 f }

/-- The effect of an ALU function. -/
def aluBody (o : LA) (h : Flags → W64 → W64 → Alu) : Body := fun _ s b =>
  let c := s.ctx b
  (putAlu s b o.rd o.f (h c.flags (c.getG o.ra.toNat) (c.getG o.rb.toNat)), .next)

/-- The effect of a division: by zero with the divide trap enabled, cause 0x0B and nothing written (R196, R213). -/
def divBody (o : LA) (fn : Nat) (h : Flags → W64 → W64 → Alu) : Body := fun single s b =>
  let c := s.ctx b
  if c.getG o.rb.toNat = 0 ∧ c.dzt then
    (s, .exc { cause := 0x0B, info := (wordA o 0x01 fn).setWidth 64, info2 := 0 } c.pc)
  else aluBody o h single s b

/-- An ALU row. -/
def aluRow (f : FerryNo) (o : LA) (fn : Nat) (group : Option Nat) (unary : Bool) (h : Flags → W64 → W64 → Alu) (s : State) :
    Host.Outcome State Fault Refusal :=
  row f (aluDec o fn group unary) (aluBody o h) s

/-- A division row. -/
def divRow (f : FerryNo) (o : LA) (fn : Nat) (h : Flags → W64 → W64 → Alu) (s : State) : Host.Outcome State Fault Refusal :=
  row f (aluDec o fn (some 1) false) (divBody o fn h) s

/-- ADD (R213). -/
def execAdd (f : FerryNo) (o : LA) (s : State) : Host.Outcome State Fault Refusal := aluRow f o 0x00 none false aluAdd s
/-- SUB (R213). -/
def execSub (f : FerryNo) (o : LA) (s : State) : Host.Outcome State Fault Refusal := aluRow f o 0x01 none false aluSub s
/-- NEG (R213). -/
def execNeg (f : FerryNo) (o : LA) (s : State) : Host.Outcome State Fault Refusal := aluRow f o 0x02 none true aluNeg s
/-- ADC (R213). -/
def execAdc (f : FerryNo) (o : LA) (s : State) : Host.Outcome State Fault Refusal := aluRow f o 0x03 none false aluAdc s
/-- SBC (R213). -/
def execSbc (f : FerryNo) (o : LA) (s : State) : Host.Outcome State Fault Refusal := aluRow f o 0x04 none false aluSbc s
/-- AND (R213). -/
def execAndR (f : FerryNo) (o : LA) (s : State) : Host.Outcome State Fault Refusal := aluRow f o 0x08 none false aluAnd s
/-- OR (R213). -/
def execOrR (f : FerryNo) (o : LA) (s : State) : Host.Outcome State Fault Refusal := aluRow f o 0x09 none false aluOr s
/-- XOR (R213). -/
def execXorR (f : FerryNo) (o : LA) (s : State) : Host.Outcome State Fault Refusal := aluRow f o 0x0A none false aluXor s
/-- ANDN (R213). -/
def execAndn (f : FerryNo) (o : LA) (s : State) : Host.Outcome State Fault Refusal := aluRow f o 0x0B none false aluAndn s
/-- NOR (R213). -/
def execNor (f : FerryNo) (o : LA) (s : State) : Host.Outcome State Fault Refusal := aluRow f o 0x0C none false aluNor s
/-- SHL (R213). -/
def execShl (f : FerryNo) (o : LA) (s : State) : Host.Outcome State Fault Refusal := aluRow f o 0x10 none false aluShl s
/-- SHR (R213). -/
def execShr (f : FerryNo) (o : LA) (s : State) : Host.Outcome State Fault Refusal := aluRow f o 0x11 none false aluShr s
/-- SAR (R213). -/
def execSar (f : FerryNo) (o : LA) (s : State) : Host.Outcome State Fault Refusal := aluRow f o 0x12 none false aluSar s
/-- ROR (R213). -/
def execRor (f : FerryNo) (o : LA) (s : State) : Host.Outcome State Fault Refusal := aluRow f o 0x13 none false aluRor s
/-- MUL (R213). -/
def execMul (f : FerryNo) (o : LA) (s : State) : Host.Outcome State Fault Refusal := aluRow f o 0x18 none false aluMul s
/-- MULH (R213). -/
def execMulh (f : FerryNo) (o : LA) (s : State) : Host.Outcome State Fault Refusal := aluRow f o 0x19 (some 0) false aluMulh s
/-- MULHU (R213). -/
def execMulhu (f : FerryNo) (o : LA) (s : State) : Host.Outcome State Fault Refusal := aluRow f o 0x1A (some 0) false aluMulhu s
/-- MIN (R213). -/
def execMin (f : FerryNo) (o : LA) (s : State) : Host.Outcome State Fault Refusal := aluRow f o 0x28 none false aluMin s
/-- MAX (R213). -/
def execMax (f : FerryNo) (o : LA) (s : State) : Host.Outcome State Fault Refusal := aluRow f o 0x29 none false aluMax s
/-- MINU (R213). -/
def execMinu (f : FerryNo) (o : LA) (s : State) : Host.Outcome State Fault Refusal := aluRow f o 0x2A none false aluMinu s
/-- MAXU (R213). -/
def execMaxu (f : FerryNo) (o : LA) (s : State) : Host.Outcome State Fault Refusal := aluRow f o 0x2B none false aluMaxu s
/-- CLZ (R213). -/
def execClz (f : FerryNo) (o : LA) (s : State) : Host.Outcome State Fault Refusal := aluRow f o 0x30 none true aluClz s
/-- POPC (R213). -/
def execPopc (f : FerryNo) (o : LA) (s : State) : Host.Outcome State Fault Refusal := aluRow f o 0x31 none true aluPopc s
/-- BSWAP (R213). -/
def execBswap (f : FerryNo) (o : LA) (s : State) : Host.Outcome State Fault Refusal := aluRow f o 0x32 none true aluBswap s
/-- DIV (R196, R213). -/
def execDiv (f : FerryNo) (o : LA) (s : State) : Host.Outcome State Fault Refusal := divRow f o 0x20 aluDiv s
/-- DIVU (R196, R213). -/
def execDivu (f : FerryNo) (o : LA) (s : State) : Host.Outcome State Fault Refusal := divRow f o 0x21 aluDivu s
/-- REM (R196, R213). -/
def execRem (f : FerryNo) (o : LA) (s : State) : Host.Outcome State Fault Refusal := divRow f o 0x22 aluRem s
/-- REMU (R196, R213). -/
def execRemu (f : FerryNo) (o : LA) (s : State) : Host.Outcome State Fault Refusal := divRow f o 0x23 aluRemu s

/-! ### Immediates (R214, R215) -/

/-- An ALU operation with an immediate, majors 0x02 to 0x04. -/
def immRow (f : FerryNo) (o : LI) (major : Nat) (h : Flags → W64 → W64 → Alu) (imm : W64) (s : State) :
    Host.Outcome State Fault Refusal :=
  row f { word := wordI o major, major := major, g := o.g, cls := .alu }
    (fun _ s b => (putAlu s b o.rd o.f (h (s.ctx b).flags ((s.ctx b).getG o.ra.toNat) imm), .next)) s

/-- A shift by an immediate, major 0x05. -/
def shiftRow (f : FerryNo) (o : LIh) (fn : Nat) (h : Flags → W64 → W64 → Alu) (s : State) : Host.Outcome State Fault Refusal :=
  row f { word := wordIh o 0x05 fn, major := 0x05, g := o.g, fieldBad := o.res != 0, cls := .alu }
    (fun _ s b => (putAlu s b o.rd o.f (h (s.ctx b).flags ((s.ctx b).getG o.ra.toNat) (o.sh.setWidth 64)), .next)) s

/-- A move of a 16-bit quarter, majors 0x06 and 0x07: `h` gives G(rd) from its old value. -/
def movRow (f : FerryNo) (o : LU) (major : Nat) (h : W64 → W64) (s : State) : Host.Outcome State Fault Refusal :=
  row f { word := wordU o major, major := major, g := o.g, cls := .alu }
    (fun _ s b => (s.modCtx b fun c => c.setG o.rd.toNat (h (c.getG o.rd.toNat)), .next)) s

/-- ADDI (R214). -/
def execAddi (f : FerryNo) (o : LI) (s : State) : Host.Outcome State Fault Refusal := immRow f o 0x02 aluAdd (o.imm.signExtend 64) s
/-- ANDI (R214). -/
def execAndi (f : FerryNo) (o : LI) (s : State) : Host.Outcome State Fault Refusal := immRow f o 0x03 aluAnd (o.imm.signExtend 64) s
/-- ORI (R214). -/
def execOri (f : FerryNo) (o : LI) (s : State) : Host.Outcome State Fault Refusal := immRow f o 0x04 aluOr (o.imm.setWidth 64) s
/-- SHLI (R214). -/
def execShli (f : FerryNo) (o : LIh) (s : State) : Host.Outcome State Fault Refusal := shiftRow f o 0 aluShl s
/-- SHRI (R214). -/
def execShri (f : FerryNo) (o : LIh) (s : State) : Host.Outcome State Fault Refusal := shiftRow f o 1 aluShr s
/-- SARI (R214). -/
def execSari (f : FerryNo) (o : LIh) (s : State) : Host.Outcome State Fault Refusal := shiftRow f o 2 aluSar s
/-- RORI (R214). -/
def execRori (f : FerryNo) (o : LIh) (s : State) : Host.Outcome State Fault Refusal := shiftRow f o 3 aluRor s
/-- MOVL (R215). -/
def execMovl (f : FerryNo) (o : LU) (s : State) : Host.Outcome State Fault Refusal :=
  movRow f o 0x06 (fun v => if o.k then setFld v 31 16 o.imm.toNat else o.imm.setWidth 64) s
/-- MOVH (R215). -/
def execMovh (f : FerryNo) (o : LU) (s : State) : Host.Outcome State Fault Refusal :=
  movRow f o 0x07 (fun v => if o.k then setFld v 63 48 o.imm.toNat else setFld v 47 32 o.imm.toNat) s

/-! ### Compares and predicate logic (R216, R217) -/

/-- P(pd) := r, then P(pe) := not r (R175). -/
def Ctx.setPair (c : Ctx) (pd pe : BitVec 3) (r : Bool) : Ctx := (c.setP pd r).setP pe (!r)

/-- CMP (R216). -/
def execCmp (f : FerryNo) (o : LAp) (s : State) : Host.Outcome State Fault Refusal :=
  row f { word := wordAp o 0x08, major := 0x08, g := o.g, enumBad := decide (10 < o.cond.toNat), cls := .alu }
    (fun _ s b => (s.modCtx b fun c =>
      c.setPair o.pd o.pe (condTrue o.cond.toNat (c.getG o.ra.toNat) (c.getG o.rb.toNat)), .next)) s

/-- CMPI (R216). -/
def execCmpi (f : FerryNo) (o : LIp) (s : State) : Host.Outcome State Fault Refusal :=
  row f { word := wordIp o 0x09, major := 0x09, g := o.g, enumBad := decide (9 < o.cond.toNat), cls := .alu }
    (fun _ s b => (s.modCtx b fun c =>
      c.setPair o.pd o.pe (condTrue o.cond.toNat (c.getG o.ra.toNat) (o.imm.signExtend 64)), .next)) s

/-- Predicate logic, major 0x0A. -/
def predRow (f : FerryNo) (o : LAl) (fn : Nat) (bad : Bool) (h : Bool → Bool → Bool) (s : State) : Host.Outcome State Fault Refusal :=
  row f { word := wordAl o 0x0A fn, major := 0x0A, g := o.g, fieldBad := o.res != 0 || bad, cls := .alu }
    (fun _ s b => (s.modCtx b fun c =>
      c.setPair o.pd o.pe (h (c.getP o.pa != o.na) (c.getP o.pb != o.nb)), .next)) s

/-- PAND (R217). -/
def execPand (f : FerryNo) (o : LAl) (s : State) : Host.Outcome State Fault Refusal := predRow f o 0 false (· && ·) s
/-- POR (R217). -/
def execPor (f : FerryNo) (o : LAl) (s : State) : Host.Outcome State Fault Refusal := predRow f o 1 false (· || ·) s
/-- PXOR (R217). -/
def execPxor (f : FerryNo) (o : LAl) (s : State) : Host.Outcome State Fault Refusal := predRow f o 2 false (· != ·) s
/-- PMOV (R217). -/
def execPmov (f : FerryNo) (o : LAl) (s : State) : Host.Outcome State Fault Refusal := predRow f o 3 (o.pb != 0 || o.nb) (fun x _ => x) s

/-! ### NOP (R206, R211) -/

/-- NOP: the command brings its word. A word in the slot of NOP is a NOP, with cause 0x02 where a field is not zero; a word in
no assigned slot is an illegal instruction; a word in another row's slot is that row's command, and not this one. -/
def execNop (f : FerryNo) (w : W32) (s : State) : Host.Outcome State Fault Refusal :=
  let d : Dec := { word := w, major := w.toNat / 2 ^ 22 % 64, g := guardOf w, cls := .alu }
  if isNop w then row f { d with fieldBad := w.toNat % 2 ^ 22 != 0 } (fun _ s _ => (s, .next)) s
  else if slotAssigned w then .fault .wordOfAnotherRow
  else row f { d with enumBad := true } (fun _ s _ => (s, .next)) s

end Sys2Proof.Machine
end

