-- ==== Sys2Proof/Machine/Control.lean ====
section
/-!
DEFINITION. B-space instructions, control transfer and loops (R184 to R187, R194, R222 to R225), majors 0x10 and 0x14 to 0x17.
-/
namespace Sys2Proof.Machine

/-! ### B-space (R184, R185, R222) -/

/-- The decoding of a B-space word; `bad` tells a field that is not as its function needs it. -/
def bitDec (o : LSb) (fn : Nat) (bad : Bool) : Dec := { word := wordSb o fn, major := 0x10, g := o.g, fieldBad := bad }

/-- The bit of Berth `b`'s world and Span. -/
def bitAt (s : State) (b : BerthNo) (a : Nat) : Bool := s.bit (berthSpan b) (s.ctx b).north a

/-- Writes that bit. -/
def putBit (s : State) (b : BerthNo) (a : Nat) (v : Bool) : State := s.setBit (berthSpan b) (s.ctx b).north a v

/-- A B-space row: `h` gives the new bit from the old one and P(p), and P(p) receives the old bit where `dest` holds. -/
def bitRow (f : FerryNo) (o : LSb) (fn : Nat) (pUsed dest : Bool) (h : Bool → Bool → Bool) (s : State) : Host.Outcome State Fault Refusal :=
  row f (bitDec o fn (!pUsed && o.p != 0))
    (fun _ s b =>
      let c := s.ctx b
      let a := addrSb o c
      let old := bitAt s b a
      let s := putBit s b a (h old (c.getP o.p))
      (if dest then s.modCtx b fun c => c.setP o.p old else s, .next)) s

/-- BSET. -/
def execBset (f : FerryNo) (o : LSb) (s : State) : Host.Outcome State Fault Refusal := bitRow f o 0 false false (fun _ _ => true) s
/-- BCLR. -/
def execBclr (f : FerryNo) (o : LSb) (s : State) : Host.Outcome State Fault Refusal := bitRow f o 1 false false (fun _ _ => false) s
/-- BINV. -/
def execBinv (f : FerryNo) (o : LSb) (s : State) : Host.Outcome State Fault Refusal := bitRow f o 2 false false (fun old _ => !old) s
/-- BTST. -/
def execBtst (f : FerryNo) (o : LSb) (s : State) : Host.Outcome State Fault Refusal := bitRow f o 3 true true (fun old _ => old) s
/-- BMOV. -/
def execBmov (f : FerryNo) (o : LSb) (s : State) : Host.Outcome State Fault Refusal := bitRow f o 4 true false (fun _ p => p) s
/-- BTAS: a reserved bit reads 0 and is not set. -/
def execBtas (f : FerryNo) (o : LSb) (s : State) : Host.Outcome State Fault Refusal := bitRow f o 5 true true (fun _ _ => true) s

/-- The end of a BSCAN (R194, R222): position, remaining count and result. -/
def scanEnd (c : Ctx) (o : LSb) (g n : W64) (p : Bool) : Ctx :=
  ((c.setG o.ra.toNat g).setG (o.ra.toNat + 1) n).setP o.p p

/-- The first set bit of `n` bits from address `a`. -/
def scanBits (s : State) (b : BerthNo) (a n : Nat) : Option Nat :=
  ((s.span (berthSpan b)).bits (s.ctx b).north).find? fun k => a ≤ k && k < a + n && !bitReserved k

/-- BSCAN in granules of 512 bits (R191, R194, R222): `k` granules at most. -/
def scanRun (o : LSb) (b : BerthNo) (single : Bool) : Nat → State → State × After
  | 0, s => (s, .next)
  | k + 1, s =>
    let c := s.ctx b
    let a := (c.getG o.ra.toNat).toNat % 2 ^ 18
    let n := (c.getG (o.ra.toNat + 1)).toNat
    match scanBits s b a (min n 512) with
    | some j => (s.modCtx b fun c => scanEnd c o (BitVec.ofNat 64 j) (BitVec.ofNat 64 (n - (j - a))) true, .next)
    | none =>
      if n ≤ 512 ∨ 2 ^ 18 ≤ a + 512 then (s.modCtx b fun c => scanEnd c o (BitVec.allOnes 64) 0 false, .next)
      else
        let s := s.modCtx b fun c =>
          (c.setG o.ra.toNat (BitVec.ofNat 64 (a + 512))).setG (o.ra.toNat + 1) (BitVec.ofNat 64 (n - 512))
        if single then (s, .granule) else scanRun o b single k s

/-- BSCAN: ra even and not zero, and off11 zero. -/
def execBscan (f : FerryNo) (o : LSb) (s : State) : Host.Outcome State Fault Refusal :=
  row f { bitDec o 6 (o.ra.toNat % 2 != 0 || o.ra == 0 || o.off != 0) with group := some 9 }
    (fun single s b => scanRun o b single 513 s) s

/-! ### Control transfer (R187, R223, R224) -/

/-- The fault of a target (R224). -/
def targetBad (c : Ctx) (t : W64) : Option Exc :=
  if t.toNat % 4 ≠ 0 then some { cause := 0x08, info := t, info2 := 0 }
  else if (c.seg 0).limit.toNat < t.toNat then some { cause := 0x06, info := t, info2 := 0 }
  else none

/-- Is an address in a level's range? -/
def Loop.holds (l : Loop) (a : W32) : Bool := decide (l.start ≤ a) && decide (a ≤ l.stop)

/-- The loop stack after a taken branch at `pc` to `t` (R187). -/
def popLoops (pc t : W32) : List Loop → List Loop
  | [] => []
  | l :: r => if l.holds pc && !l.holds t then popLoops pc t r else l :: r

/-- A transfer to `t`: a branch, jump or return pops levels, and a call writes G31. -/
def transfer (call : Bool) (t : W64) (s : State) (b : BerthNo) : State × After :=
  let c := s.ctx b
  match targetBad c t with
  | some e => (s, .exc e c.pc)
  | none =>
    let pc := t.setWidth 32
    let c := if call then c.setG 31 ((c.pc + 4).setWidth 64) else { c with loops := popLoops c.pc pc c.loops }
    (countEv (s.setCtx b { c with pc := pc }) b 4, .done)

/-- BR. -/
def execBr (f : FerryNo) (o : LB) (s : State) : Host.Outcome State Fault Refusal :=
  row f { word := wordB o 0x14, major := 0x14, g := o.g } (fun _ s b => transfer false (targetB o (s.ctx b)) s b) s
/-- CALL. -/
def execCall (f : FerryNo) (o : LB) (s : State) : Host.Outcome State Fault Refusal :=
  row f { word := wordB o 0x15, major := 0x15, g := o.g } (fun _ s b => transfer true (targetB o (s.ctx b)) s b) s

/-- The decoding of major 0x16. -/
def jumpDec (o : LA) (fn : Nat) (raUsed : Bool) : Dec :=
  { word := wordA o 0x16 fn, major := 0x16, g := o.g
    fieldBad := o.rd != 0 || o.rb != 0 || o.f || (!raUsed && o.ra != 0) }

/-- JR. -/
def execJr (f : FerryNo) (o : LA) (s : State) : Host.Outcome State Fault Refusal :=
  row f (jumpDec o 0 true) (fun _ s b => transfer false ((s.ctx b).getG o.ra.toNat) s b) s
/-- RET. -/
def execRet (f : FerryNo) (o : LA) (s : State) : Host.Outcome State Fault Refusal :=
  row f (jumpDec o 1 false) (fun _ s b => transfer false ((s.ctx b).getG 31) s b) s
/-- CALLR: the target is read before G31 is written. -/
def execCallr (f : FerryNo) (o : LA) (s : State) : Host.Outcome State Fault Refusal :=
  row f (jumpDec o 2 true) (fun _ s b => transfer true ((s.ctx b).getG o.ra.toNat) s b) s

/-! ### LOOP (R186, R225) -/

/-- The effect of a LOOP that ends at `stop` with count `n`. -/
def loopBody (word : W32) (n stop : W32) (s : State) (b : BerthNo) : State × After :=
  let c := s.ctx b
  if n = 0 then
    let r := loopEnd stop c.loops
    (s.setCtx b { c with loops := r.1, pc := r.2.getD (stop + 4) }, .done)
  else if 4 ≤ c.loops.length then (s, .exc { cause := 0x0D, info := word.setWidth 64, info2 := 0 } c.pc)
  else (s.setCtx b { c with loops := { start := c.pc + 4, stop := stop, count := n } :: c.loops, pc := c.pc + 4 }, .done)

/-- LOOP. -/
def execLoop (f : FerryNo) (o : LBl) (s : State) : Host.Outcome State Fault Refusal :=
  row f { word := wordBl o 0x17, major := 0x17, g := o.g, fieldBad := o.res != 0 }
    (fun _ s b => loopBody (wordBl o 0x17) (((s.ctx b).getG o.ra.toNat).setWidth 32) (stopBl o (s.ctx b)) s b) s

end Sys2Proof.Machine
end

