-- ==== Sys2Proof/Machine/Sched.lean ====
section
/-!
DEFINITION. What happens at the Berths and Ferries between instructions: interrupts taken (R253), what is counted in ticks running
out (R252, R254, R256, R257, R303), waits that end (R212, R296), barriers (R29, R394, R471), placement and switch-out (R302 to
R304), and halts (R488).
-/
namespace Sys2Proof.Machine

/-! ### Boundaries -/

/-- Can a wait on a Ferry or off it be abandoned (R212, R228, R255, R278)? KEY and PK complete first; RND does too, except for a
halt or a switch (`halt`, R488). -/
def abandonable (halt : Bool) : Wait → Bool
  | .key _ => false
  | .rnd _ _ => halt
  | _ => true

/-- Does Ferry `f` stand at a boundary at which its Berth `b` can take an exception or be switched out? -/
def atBoundary (s : State) (f : FerryNo) (b : BerthNo) (switch : Bool) : Bool :=
  let y := s.ferry f
  let x := s.berth b
  dispatches (s.modBerth b fun x => { x with wait := .none }) f b && abandonable switch x.wait && !y.resetReq
    && !(y.halt == .halting && x.ctx.lock.isNone && haltsBerth s b)

/-- The exception that the boundary of Ferry `f` offers is taken. -/
def takeAtBoundary (s : State) (f : FerryNo) : State :=
  let y := s.ferry f
  match y.berth with
  | none => s
  | some b =>
    if !atBoundary s f b false then s
    else match offered s b y.stepMask with
      | none => s
      | some e =>
        match takeOffered (s.modFerry f fun y => { y with skipBrk := false, step := false, stepMask := false }) b f e with
        | some t => stepEnd t f y.step
        | none => s

/-- INTERRUPT_TAKEN. -/
def execInterruptTaken (f : FerryNo) (s : State) : Host.Outcome State Fault Refusal := .next (takeAtBoundary s f)

/-! ### Ticks that run out (log entry 12) -/

/-- SLACK_LIMIT_EXPIRY. -/
def execSlackLimitExpiry (b : BerthNo) (s : State) : Host.Outcome State Fault Refusal :=
  .next (if (s.ctx b).slack then passTicks (max 1 (s.ctx b).slackRem) s else s)

/-- BERTH_WATCHDOG_EXPIRY: the exception waits for the Berth's next boundary. -/
def execBerthWatchdogExpiry (b : BerthNo) (s : State) : Host.Outcome State Fault Refusal :=
  let c := s.ctx b
  .next (if c.wdogLim ≠ 0 ∧ !c.wdogPend then passTicks (max 1 c.wdogRem.toNat) s else s)

/-- GATE_LIMIT. -/
def execGateLimit (b : BerthNo) (s : State) : Host.Outcome State Fault Refusal :=
  match (s.berth b).gate with
  | some g => .next (if g.raised then s else passTicks (max 1 (gateLimit s b - g.ticks)) s)
  | none => .next s

/-- TIMER_CMP_REACHED. -/
def execTimerCmpReached (b : BerthNo) (s : State) : Host.Outcome State Fault Refusal :=
  let c := s.ctx b
  .next (if c.timerArmed ∧ c.timerCmp ≠ 0 then
      if c.timerCmp.toNat ≤ s.time.count.toNat then s.modCtx b (timerAt s.time.count)
      else passTicks (c.timerCmp.toNat - s.time.count.toNat) s
    else s)

/-- WAITT_DEADLINE: the bit decides the predicate, should it be set by then (R212). -/
def execWaittDeadline (b : BerthNo) (s : State) : Host.Outcome State Fault Refusal :=
  match (s.berth b).wait with
  | .bitT a d pd =>
    let s := passTicks (d.toNat - s.time.count.toNat) s
    .next (if d.toNat ≤ s.time.count.toNat then
        finishWait s b fun c => c.setP pd (s.bit (berthSpan b) c.north a.toNat)
      else s)
  | _ => .next s

/-! ### Waits -/

/-- A waiting Berth with a takeable interrupt becomes ready, its wait abandoned (R212, R254). -/
def wakeForInterrupt (s : State) (b : BerthNo) : State :=
  let x := s.berth b
  if x.st == .waiting && takeable x.ctx && abandonable false x.wait then
    enqueue ((abandonWait s b).modBerth b fun x => { x with wait := .none }) b
  else s

/-- TFENCE of Berth `b` retires once no older access is outstanding (R354). -/
def retireFence (s : State) (b : BerthNo) : State := countEv (finishWait s b id) b 1

/-- BERTH_WAKE: what Berth `b` waits for has come about, or it has a takeable interrupt. A POST runs again. -/
def execBerthWake (b : BerthNo) (s : State) : Host.Outcome State Fault Refusal :=
  let x := s.berth b
  let set := fun (a : BitVec 18) => s.bit (berthSpan b) x.ctx.north a.toNat
  match x.wait with
  | .unit _ a => .next (if set a then finishWait s b id else wakeForInterrupt s b)
  | .bit a => .next (if set a then finishWait s b id else wakeForInterrupt s b)
  | .bitT a _ pd => .next (if set a then finishWait s b (Ctx.setP · pd true) else wakeForInterrupt s b)
  | .ckpt _ _ _ =>
    let s := ckptStep s b
    .next (wakeForInterrupt s b)
  | .key (.done outs) => .next (finishWait s b fun c => outs.foldl (fun c e => c.setG e.1 e.2) c)
  | .fence e => .next (if olderAccess s (berthSpan b) e then s else retireFence s b)
  | .post =>
    let s := s.modBerth b fun x => { x with wait := .none }
    .next (if x.st == .waiting then enqueue s b else s)
  | _ => .next (wakeForInterrupt s b)

/-- BARRIER_RELEASE: every member has arrived; `peer` says that the twin's members have, where the barrier includes them. -/
def execBarrierRelease (g : BitVec 4) (peer : Bool) (s : State) : Host.Outcome State Fault Refusal :=
  match Table.find s.barriers g.toNat with
  | none => .next s
  | some x =>
    .next (if x.members.all (fun b => x.arrived.contains b) && (!x.twin || peer) then
        countBlock (releaseBarrier s g.toNat true) 7 0 1
      else s)

/-! ### Placement, quantum and switch-out (R302 to R304) -/

/-- Ready Berths of Span `i` with a priority below `p` in number, or at most `p`. -/
def readyUpTo (s : State) (i : SpanNo) (n : Nat) : List BerthNo := (List.range n).flatMap (readyQ s i)

/-- Berths of Span `i` that run on a Ferry from which the Pilot may pre-empt them (R490). -/
def runningOf (s : State) (i : SpanNo) : List BerthNo :=
  (ferriesOf i).filterMap fun f => if (s.ferry f).halt == .halted then none else (s.ferry f).berth

/-- The Berth that a more urgent one displaces (R303): of the lowest priority, and among equals the longest on its Ferry. -/
def victim (s : State) (l : List BerthNo) : Option BerthNo :=
  l.foldl (fun m b => match m with
    | none => some b
    | some a =>
      if berthPrio s a < berthPrio s b ∨ (berthPrio s a = berthPrio s b ∧ (s.berth b).heldSince < (s.berth a).heldSince) then some b
      else some a) none

/-- With no Ferry free, the Pilot requests the switch-out of a victim for each more urgent Berth that is ready (R303). -/
def preempt (s : State) (i : SpanNo) : State :=
  let run := runningOf s i
  let asked := run.filter fun b => (s.berth b).switchReq
  match victim s (run.filter fun b => !(s.berth b).switchReq) with
  | none => s
  | some v =>
    if asked.length < (readyUpTo s i (berthPrio s v)).length then s.modBerth v fun x => { x with switchReq := true } else s

/-- BERTH_DISPATCH. -/
def execBerthDispatch (sp : SpanNo) (s : State) : Host.Outcome State Fault Refusal :=
  .next (if !enginesRun s || (s.span sp).pilotFault then s
    else if (ferriesOf sp).any (ferryFree s) then pilotPlace s sp
    else preempt s sp)

/-- PILOT_QUANTUM. -/
def quantumOf (s : State) (i : SpanNo) : Nat := fld (s.hreg (spanOff i 0x800)) 31 0

/-- QUANTUM_EXPIRY: with a Berth of the same or a higher priority ready a switch-out is requested, else the quantum starts
afresh. -/
def execQuantumExpiry (f : FerryNo) (s : State) : Host.Outcome State Fault Refusal :=
  match (s.ferry f).berth with
  | none => .next s
  | some b =>
    let i := ferrySpan f
    let s := passTicks (quantumOf s i - (s.berth b).quantum) s
    .next (if (s.berth b).quantum < quantumOf s i || (s.span i).pilotFault then s
      else if (readyUpTo s i (berthPrio s b + 1)).isEmpty then s.modBerth b fun x => { x with quantum := 0 }
      else s.modBerth b fun x => { x with switchReq := true })

/-- BERTH_SWITCH_OUT: a PARK, STOP or switch request takes effect at the dispatch of Ferry `f`, if it is not postponed and no
exception comes first (R273, R297). -/
def execBerthSwitchOut (f : FerryNo) (s : State) : Host.Outcome State Fault Refusal :=
  match (s.ferry f).berth with
  | none => .next s
  | some b =>
    .next (if atBoundary s f b true && (offered s b (s.ferry f).stepMask).isNone then
        (match switchOut (abandonRoutine s b f) b with
         | some t => stepEnd t f (s.ferry f).step
         | none => s)
      else s)

/-! ### Halts -/

/-- FERRY_HALTED (R488, R489): at its stop point Ferry `f` is halted. What waits on it uncommitted is abandoned; a LOCK hold and a
KEY or PK operation complete first, and the North bank is not stopped where it is closed to debug. -/
def execFerryHalted (f : FerryNo) (s : State) : Host.Outcome State Fault Refusal :=
  let y := s.ferry f
  if y.halt != .halting || y.agr.aground || y.refloat then .next s
  else match y.berth with
    | none => .next (haltNow s f)
    | some b =>
      let x := s.berth b
      .next (if x.ctx.lock.isNone && haltsBerth s b && abandonable true x.wait then
          haltNow ((abandonRoutine s b f).modBerth b fun x => { x with wait := .none }) f
        else s)

end Sys2Proof.Machine
end

