-- ==== Sys2Proof/Machine/Gangway.lean ====
section
/-!
DEFINITION. The Gangway: its memory commands (R424 to R428, R484 to R487, R492), run control (R488 to R496), attach and detach
(R428, R497), the cross-trigger input (R429, R493), and the counters that overflow by work the commands do not show (R502).
-/
namespace Sys2Proof.Machine

/-! ### Answers -/

/-- Status TOLLGATE. -/
def gwToll (s : State) : State := gwAck s 4 0

/-- A command that completes while no debugger is attached gets DETACHED and does nothing (R427, R428). While a command waits no other is
offered (R425). -/
def gwDo (s : State) (h : State → State) : State :=
  hostDo s fun s => if laneHeld s 9 then s else if s.gw.attached then h s else gwAck s 6 0

/-! ### What a memory command does -/

/-- The kinds of memory command (R426). -/
inductive GwKind where
  /-- Read, peek. -/
  | peek
  /-- Read, take. -/
  | take
  /-- Write of a value. -/
  | write (v : W64)
  deriving DecidableEq, Repr

/-- Is it a write? -/
def GwKind.isWrite : GwKind → Bool
  | .write _ => true
  | _ => false

/-- A register at window offset `o`, which exists, by its command. -/
def gwReg (s : State) (k : GwKind) (o : Nat) : State :=
  match k with
  | .peek => gwAck s 0 (regPeek s o)
  | .take => let r := regTake s o; gwAck r.1 0 r.2.1
  | .write v => gwDone (regWrite s .gangway o v 0xFF).1

/-- Is window offset `o` in a North Tollgate page (R487)? -/
def northPage (o : Nat) : Bool := 0x200000 ≤ o && o < 0x210000 && 0x800 ≤ o % 0x1000

/-- The window view (R487). -/
def gwWindow (s : State) (k : GwKind) (a : Nat) : State :=
  let o := a - 0x50000000
  match k with
  | .write v => gwRegWrite s o v 0xFF
  | _ =>
    if !s.openDebug && northPage o then gwDenied s a
    else if regExists o then gwReg s k o
    else gwToll (clampLog s 1 6 (fidReg o 0) 0 0)

/-- GW_FSEL.engine. -/
def gwEngine (s : State) : Nat := fld (s.hreg 0x5F0010) 8 0

/-- The Berth of the selected Ferry, if that is halted and the Berth's world is `north` (R486). -/
def gwHaltedBerth (s : State) (north : Bool) : Option (FerryNo × BerthNo) :=
  if 256 ≤ gwEngine s then none
  else
    let f := ferryOf (gwEngine s)
    match (s.ferry f).berth with
    | none => none
    | some b => if (s.ferry f).halt = .halted ∧ !(s.ferry f).agr.aground ∧ (s.ctx b).north = north then some (f, b) else none

/-- Local data of the selected Ferry (R486, R492). -/
def gwLocal (s : State) (north : Bool) (k : GwKind) (a : Nat) : State :=
  match gwHaltedBerth s north with
  | none => gwToll s
  | some (f, b) =>
    if (s.ctx b).custody then gwDenied s a
    else match k with
      | .write v => gwDone (s.modFerry f fun y => { y with localMem := memWrite y.localMem a (bytesOfNat 8 v.toNat) })
      | _ => gwAck s 0 (BitVec.ofNat 64 (natOfBytes (memRead (s.ferry f).localMem a 8)))

/-- Eight bytes of Ferry `f`'s instruction buffer, at offset `o` of its 16 KiB: what the line there last held, and zero in a line that has
held nothing (log entry 93). -/
def bufferBytes (s : State) (f : FerryNo) (o : Nat) : List Byte :=
  match Table.find (s.ferry f).ibuf (o / 64) with
  | some (_, _, l) => padTo 8 ((l.drop (o % 64)).take 8)
  | none => zeros 8

/-- The instruction buffer of the selected Ferry (R17, R486). -/
def gwBuffer (s : State) (north : Bool) (k : GwKind) (a : Nat) : State :=
  match gwHaltedBerth s north with
  | none => gwToll s
  | some (f, b) =>
    if k.isWrite then gwToll s
    else if (s.ctx b).custody then gwDenied s a
    else gwAck s 0 (BitVec.ofNat 64 (natOfBytes (bufferBytes s f (a - 0x10000))))

/-- The control store of the selected engine (R260, R486). A store that is not loaded is clear (R293). -/
def gwStore (s : State) (k : GwKind) (a : Nat) : State :=
  let e := gwEngine s
  let w := (a - 0x20000) / 0x20
  if !s.openDebug then gwDenied s a
  else if k.isWrite || (256 ≤ e && 2048 ≤ w) then gwToll s
  else
    let m := (storeWords e (Table.get [] s.ldr.stores e)).getD w 0
    gwAck s 0 (BitVec.ofNat 64 (natOfBytes (((bytesOfNat 18 m ++ zeros 14).drop (a % 0x20)).take 8)))

/-- The Span whose Tollgate judges an address (R487): staging memory, and what belongs to no Span, is Span 0's. -/
def gwSpan (a : Nat) : SpanNo :=
  if inAnyPontoon a then spanOf ((a - 0x10000000) / 0x800000)
  else if 0x20000000 ≤ a && a < 0x21000000 then spanOf ((a - 0x20000000) / 0x100000)
  else if inBerthStore a then berthSpan (berthOf ((a - 0x30000000) / 0x400))
  else if 0x40000000 ≤ a && a < 0x50000000 then spanOf ((a - 0x40000000) / 0x1000000)
  else 0

/-- The Gangway as a master (R341). -/
def gwAcc (north : Bool) (a : Nat) : Acc :=
  { sp := gwSpan a, master := 7, north := north, sup := true, ferry := 0, berth := 0 }

/-- The bytes of a Gangway read that met a write: each is that of the old word or of the new one (R322, R324). Memory holds one of them, and
the other is what the meeting brought; a byte is chosen by a free bit. -/
def metBytes (s : State) (a : Nat) : List Byte :=
  let met := bytesOfNat 8 s.ports.gwMet.toNat
  (rawRead s a 8).zipIdx.map fun e => if s.freeWord.getLsbD e.2 then met.getD e.2 0 else e.1

/-- A Gangway access has met BUSY: its mark is taken. -/
def gwMeets (s : State) (a : Nat) : Bool := inAnyPontoon a && Table.get 0 s.ports.busy 512 != 0

/-- A read behind the Tollgate. One that meets BUSY returns its data with the collision flag (R324); of an uncorrectable word the data is
free; a word held by LOCK and a staging port in reset are waited for (R416, R425). -/
def gwMemRead (s : State) (q : Acc) (a : Nat) : Applied :=
  if heldByOther s none a 8 then .waits (staysOut s q 512 .read a 8)
  else if gwMeets s a then
    let v := BitVec.ofNat 64 (natOfBytes (metBytes s a))
    .done (gwAck (served s.drawn q 512 .read a 8) 1 v)
  else match readFault s q 512 none a 8 with
    | (s, none) => .done (gwAck (served s q 512 .read a 8) 0 (BitVec.ofNat 64 (natOfBytes (rawRead s a 8))))
    | (s, some .wait) => .waits (staysOut s q 512 .read a 8)
    | (s, some _) => .done (gwAck (countAccess (endsOut s.drawn q 512 .read a 8) q false a 8) 2 s.freeWord)

/-- A write behind the Tollgate: one that meets BUSY is dropped (R324), and the data shown with it is free. -/
def gwMemWrite (s : State) (q : Acc) (a : Nat) (v : W64) : Applied :=
  if heldByOther s none a 8 then .waits (staysOut s q 512 .write a 8)
  else if gwMeets s a then
    .done (gwAck (endsOut { s with ports := { s.ports with busy := Table.del s.ports.busy 512 } } q 512 .write a 8).drawn 1 s.freeWord)
  else .done (gwDone (served (landAs s q (checkedEpoch s q 512 .write a 8) a (bytesOfNat 8 v.toNat)) q 512 .write a 8))

/-- Every other address: judged by a Tollgate (R346, R487), and a marked Berth's context is denied (R492). -/
def gwJudged (s : State) (north : Bool) (k : GwKind) (a : Nat) : Applied :=
  let q := gwAcc north a
  match gateOnce s q 512 false (if k.isWrite then .write else .read) a 8 with
  | (s, some _) => .done (gwToll s)
  | (s, none) =>
    if inBerthStore a then
      let b := berthOf ((a - 0x30000000) / 0x400)
      .done (if (shownCtx s b).custody || (s.ctx b).custody then gwDenied s a
        else match k with
          | .write v => gwDone (writeCtx s b 1 (a % 0x400) (bytesOfNat 8 v.toNat))
          | _ => gwAck s 0 (BitVec.ofNat 64 (natOfBytes (readCtx s b (a % 0x400) 8))))
    else if inRegs q.sp a then
      match fwOffset q.sp (a - regBase q.sp) with
      | some o => .done (gwReg s k o)
      | none => .done (gwToll s)
    else match k with
      | .write v => gwMemWrite s q a v
      | _ => gwMemRead s q a

/-- What a memory command naming a world comes to, at an address of which bits [2:0] are ignored (R424, R426, R485). -/
def gwMemNow (s : State) (north : Bool) (k : GwKind) (addr : W48) : Applied :=
  let a := addr.toNat / 8 * 8
  if north && !s.openDebug then .done (gwDenied s a)
  else if a < 0x8000 then .done (gwLocal s north k a)
  else if 0x10000 ≤ a && a < 0x14000 then .done (gwBuffer s north k a)
  else if 0x20000 ≤ a && a < 0x40000 then .done (gwStore s k a)
  else if 0x50000000 ≤ a && a < 0x51000000 then .done (gwWindow s k a)
  else gwJudged s north k a

/-- A memory command that has waited: a take of memory acts as a peek (R426). -/
def GwKind.held : Option W64 → GwKind
  | some v => .write v
  | none => .peek

/-- The value of a write. -/
def GwKind.value : GwKind → Option W64
  | .write v => some v
  | _ => none

/-- A memory command: on a word held by LOCK it waits, without a time limit (R425). -/
def gwMem (north : Bool) (k : GwKind) (addr : W48) (s : State) : State :=
  gwDo s fun s => takeOrHold s (.gw north addr k.value) fun s => gwMemNow s north k addr

/-- GW_NONE. -/
def execGwNone (s : State) : Host.Outcome State Fault Refusal := .next (gwDo s gwDone)
/-- GW_READ_SOUTH_PEEK. -/
def execGwReadSouthPeek (addr : W48) (s : State) : Host.Outcome State Fault Refusal := .next (gwMem false .peek addr s)
/-- GW_READ_SOUTH_TAKE. -/
def execGwReadSouthTake (addr : W48) (s : State) : Host.Outcome State Fault Refusal := .next (gwMem false .take addr s)
/-- GW_WRITE_SOUTH. -/
def execGwWriteSouth (addr : W48) (value : W64) (s : State) : Host.Outcome State Fault Refusal :=
  .next (gwMem false (.write value) addr s)
/-- GW_READ_NORTH_PEEK. -/
def execGwReadNorthPeek (addr : W48) (s : State) : Host.Outcome State Fault Refusal := .next (gwMem true .peek addr s)
/-- GW_READ_NORTH_TAKE. -/
def execGwReadNorthTake (addr : W48) (s : State) : Host.Outcome State Fault Refusal := .next (gwMem true .take addr s)
/-- GW_WRITE_NORTH. -/
def execGwWriteNorth (addr : W48) (value : W64) (s : State) : Host.Outcome State Fault Refusal :=
  .next (gwMem true (.write value) addr s)
/-- GW_RESERVED_COMMAND: 0x4, or 0xC to 0xF; no other code spells this command. -/
def execGwReservedCommand (code : BitVec 4) (s : State) : Host.Outcome State Fault Refusal :=
  .next (if code = 4 ∨ 0xC ≤ code.toNat then gwDo s fun s => gwAck s 5 0 else s)

/-! ### Run control (R495) -/

/-- The targets of an argument: none when a reserved bit is set, or a kind or number lies outside the table. `all` accepts all
three kinds, and not one Ferry only. -/
def gwTargets (s : State) (arg : W64) (all : Bool) : Option (List FerryNo) :=
  if fld arg 63 17 ≠ 0 ∨ fld arg 15 10 ≠ 0 then none
  else match fld arg 9 8 with
    | 0 => some [ferryOf (fld arg 7 0)]
    | 1 => if all && fld arg 7 0 ≤ 7 then some (xtMembers s [fld arg 7 0]) else none
    | 2 => if all then some allFerries else none
    | _ => none

/-- How many of the Ferries are in a run state. -/
def countRun (s : State) (l : List FerryNo) (h : Nat → Bool) : W64 :=
  BitVec.ofNat 64 (l.filter fun f => h (runState (s.ferry f))).length

/-- GW_HALT: kind group triggers that group, and the others halt their targets with cause 1. -/
def execGwHalt (arg : W64) (s : State) : Host.Outcome State Fault Refusal :=
  .next (gwDo s fun s => match gwTargets s arg true with
    | none => gwAck s 5 0
    | some l =>
      if fld arg 9 8 = 1 then
        let g := fld arg 7 0
        let n := if tb (xtCtl s g) 0 then countRun s l (· == 0) else 0
        gwAck (trigger s [g] none 1 1) 0 n
      else gwAck (l.foldl (fun s f => haltFerry s f 1) s) 0 (countRun s l (· == 0)))

/-- WDOG_GRACE. -/
def wdogGrace (s : State) : Nat := fld (s.hreg 0x5F0018) 31 0

/-- A Ferry that is halted or halting is released (R491, R494, R495, R498): its Berth's context is loaded again. -/
def release (s : State) (f : FerryNo) : State :=
  let y := s.ferry f
  let s := s.setFerry f { y with halt := .run, hcause := 0, skipBrk := true }
  match y.berth with
  | none => s
  | some b =>
    let s := if y.halt = .halted then judgeSegs s b else s
    s.modCtx b fun c => { c with wdogRem := BitVec.ofNat 32 (max c.wdogRem.toNat (wdogGrace s)) }

/-- Is a Ferry in a run state that a release ends? -/
def releasable (n : Nat) : Bool := n == 1 || n == 2

/-- GW_RESUME: without effect while the tamper hold is set (R496). -/
def execGwResume (arg : W64) (s : State) : Host.Outcome State Fault Refusal :=
  .next (gwDo s fun s => match gwTargets s arg true with
    | none => gwAck s 5 0
    | some l =>
      if s.tamper.hold then gwAck s 0 0
      else
        let s' := (l.filter fun f => releasable (runState (s.ferry f))).foldl release s
        gwAck s' 0 (countRun s l releasable))

/-- GW_STEP: a halted Ferry that holds a Berth dispatches once, by the row of its next instruction, and halts again, when the
command is acknowledged. Any other is left as it is. -/
def execGwStep (arg : W64) (s : State) : Host.Outcome State Fault Refusal :=
  .next (gwDo s fun s => match gwTargets s arg false with
    | none => gwAck s 5 0
    | some l =>
      l.foldl (fun s f =>
        if runState (s.ferry f) = 2 ∧ (s.ferry f).berth.isSome ∧ !s.tamper.hold then
          (release s f).modFerry f fun y => { y with step := true, stepMask := tb arg 16 }
        else gwAck s 0 (runstat s f)) s)

/-- GW_RUNSTAT. -/
def execGwRunstat (arg : W64) (s : State) : Host.Outcome State Fault Refusal :=
  .next (gwDo s fun s => match gwTargets s arg false with
    | none => gwAck s 5 0
    | some l => l.foldl (fun s f => gwAck s 0 (runstat s f)) s)

/-! ### Attach, detach and the halt input -/

/-- GW_ATTACH: GW_ATTACH_ACK rises, and GW_CTL.freeze_wd becomes 1 (R428, R497). -/
def execGwAttach (s : State) : Host.Outcome State Fault Refusal :=
  .next (hostDo s fun s =>
    if s.gw.attached then s
    else
      let s := { s with gw := { s.gw with attached := true } }
      raiseAny (s.setHreg 0x5F0000 (s.hreg 0x5F0000 ||| atB true 0)) 1366)

/-- An emulated state becomes real (R497): the block drives the lines that R445 step 3 onward or R447 gives. -/
def endEmulation (s : State) : State :=
  match s.power.emul.toNat with
  | 3 => startLines { s with power := { s.power with emul := 0, target := some .moored } }
      [(3, false), (1, false), (0, false)] .moored
  | 4 => startLines { s with power := { s.power with emul := 0, target := some .laidUp } }
      [(3, false), (1, false), (0, false), (2, false)] .laidUp
  | _ => s

/-- A command on memory that waits when GW_ATTACH_ACK falls (R428): after a fall of GW_RST_N it completes in the core without an answer,
and after one of GW_ATTACH with DETACHED. Which of them has fallen is free (log entry 97). -/
def gwCutOff (s : State) : State :=
  if !laneHeld s 9 then s
  else if s.freeBit then
    let u := s.drawn
    { u with ports := { u.ports with held := u.ports.held.map fun h => match h with
        | .gw north a v => .gwCut north a v
        | h => h } }
  else s.drawn

/-- GW_DETACH: GW_ATTACH_ACK falls (R428). -/
def execGwDetach (s : State) : Host.Outcome State Fault Refusal :=
  .next (if s.gw.attached then endEmulation (raiseAny { gwCutOff s with gw := { s.gw with attached := false } } 1366) else s)

/-- GW_HALT_IN: a rising edge triggers every group with in = 1, with cause 2 (R429, R493). -/
def execGwHaltIn (s : State) : Host.Outcome State Fault Refusal :=
  .next (hostDo s fun s => trigger s ((List.range 8).filter fun g => tb (xtCtl s g) 1) none 2 2)

/-! ### Counters that overflow (R501, R502) -/

/-- The value register of a Span or block counter, and the code of its overflow event. -/
def counterAt : CounterNo → Nat × Nat
  | .block k => (0x500008 + 16 * k.val, k.val)
  | .span i k => (0x510008 + i.val * 0x100 + 16 * k.val, 0x10 + i.val)

/-- BLOCK_COUNTER_OVERFLOW: a counter that counts advances by `n` events at one instant and wraps. -/
def execBlockCounterOverflow (c : CounterNo) (n : Nat) (s : State) : Host.Outcome State Fault Refusal :=
  let (o, code) := counterAt c
  let cfg := s.hreg (o - 8)
  if tb cfg 63 && fld cfg 11 0 != 0 && !frozenBy s cfg && decide (2 ^ 48 ≤ (Table.get 0 s.cnts o).toNat + n) then
    let s := (addCnt s o n).1
    let s := if tb cfg 61 then raise s 1368 code else s
    .next (if tb cfg 60 then trigger s [fld cfg 58 56] none 5 5 else s)
  else .next s

end Sys2Proof.Machine
end

