-- ==== Sys2Proof/Machine/Mem.lean ====
section
/-!
DEFINITION. Loads, stores, wide moves, atomics and the long resumable instructions (R180 to R182, R188, R191 to R193, R218 to
R221), majors 0x0C to 0x0F.
-/
namespace Sys2Proof.Machine

/-- A load result on its way to G(r): a load to G0 is discarded (R188, R219). -/
def Ctx.load (c : Ctx) (r : Nat) (v : W64) : Ctx := if r = 0 then c else { c with late := c.late ++ [(c.key r, v)] }

/-- What follows an access: its value where it is made. -/
def accessed {α : Type} (s : State) (b : BerthNo) (r : FRes α) (h : State → α → State × After) : State × After :=
  match r with
  | .ok a => h s a
  | .exc e => (s, .exc e (s.ctx b).pc)
  | .wait => (s, .again)

/-! ### Ordinary loads and stores (R219) -/

/-- A value read from memory, sign-extended or not. -/
def loadValue (z : Nat) (sx : Bool) (l : List Byte) : W64 := if sx then sext (8 * z) (natOfBytes l) else BitVec.ofNat 64 (natOfBytes l)

/-- A load of `z` bytes. -/
def loadBody (f : FerryNo) (o : LM) (z : Nat) (sx : Bool) : Body := fun _ s b =>
  let (s, r) := segLoad s b f o.sa.toNat (offsetM o (s.ctx b) z) z true
  accessed s b r fun s l => (countEv (s.modCtx b fun c => c.load o.rd.toNat (loadValue z sx l)) b 6, .next)

/-- A store of `z` bytes. -/
def storeBody (f : FerryNo) (o : LM) (z : Nat) : Body := fun _ s b =>
  let c := s.ctx b
  let (s, r) := segStore s b f o.sa.toNat (offsetM o c z) (bytesOfNat z (c.getG o.rd.toNat).toNat) true
  accessed s b r fun s _ => (countEv s b 7, .next)

/-- A load row. -/
def loadRow (f : FerryNo) (o : LM) (fn z : Nat) (sx : Bool) (s : State) : Host.Outcome State Fault Refusal :=
  row f { word := wordM o 0x0C fn, major := 0x0C, g := o.g } (loadBody f o z sx) s

/-- A store row. -/
def storeRow (f : FerryNo) (o : LM) (fn z : Nat) (s : State) : Host.Outcome State Fault Refusal :=
  row f { word := wordM o 0x0D fn, major := 0x0D, g := o.g } (storeBody f o z) s

/-- LD.B (R219). -/
def execLdB (f : FerryNo) (o : LM) (s : State) : Host.Outcome State Fault Refusal := loadRow f o 0 1 false s
/-- LD.H (R219). -/
def execLdH (f : FerryNo) (o : LM) (s : State) : Host.Outcome State Fault Refusal := loadRow f o 1 2 false s
/-- LD.W (R219). -/
def execLdW (f : FerryNo) (o : LM) (s : State) : Host.Outcome State Fault Refusal := loadRow f o 2 4 false s
/-- LD.D (R219). -/
def execLdD (f : FerryNo) (o : LM) (s : State) : Host.Outcome State Fault Refusal := loadRow f o 3 8 false s
/-- LD.BS (R219). -/
def execLdBs (f : FerryNo) (o : LM) (s : State) : Host.Outcome State Fault Refusal := loadRow f o 4 1 true s
/-- LD.HS (R219). -/
def execLdHs (f : FerryNo) (o : LM) (s : State) : Host.Outcome State Fault Refusal := loadRow f o 5 2 true s
/-- LD.WS (R219). -/
def execLdWs (f : FerryNo) (o : LM) (s : State) : Host.Outcome State Fault Refusal := loadRow f o 6 4 true s
/-- ST.B (R219). -/
def execStB (f : FerryNo) (o : LM) (s : State) : Host.Outcome State Fault Refusal := storeRow f o 0 1 s
/-- ST.H (R219). -/
def execStH (f : FerryNo) (o : LM) (s : State) : Host.Outcome State Fault Refusal := storeRow f o 1 2 s
/-- ST.W (R219). -/
def execStW (f : FerryNo) (o : LM) (s : State) : Host.Outcome State Fault Refusal := storeRow f o 2 4 s
/-- ST.D (R219). -/
def execStD (f : FerryNo) (o : LM) (s : State) : Host.Outcome State Fault Refusal := storeRow f o 3 8 s
/-- ST.DU (R182, R219): the store completes before the hold ends. -/
def execStDu (f : FerryNo) (o : LM) (s : State) : Host.Outcome State Fault Refusal :=
  row f { word := wordM o 0x0D 4, major := 0x0D, g := o.g, group := some 3, cls := .unlock } (storeBody f o 8) s

/-! ### Wide moves (R220) -/

/-- A wide load of `n` registers: G0 discards its part. -/
def wideLoadBody (f : FerryNo) (o : LM) (n : Nat) : Body := fun _ s b =>
  let c := s.ctx b
  let off := offsetM o c (8 * n)
  if rawAddr c o.sa.toNat off % (8 * n) ≠ 0 then (s, .exc (misaligned o.sa.toNat off) c.pc)
  else
    let (s, r) := segLoad s b f o.sa.toNat off (8 * n) false
    accessed s b r fun s l => (countEv (s.modCtx b fun c =>
      (List.range n).foldl (fun c j => c.load (o.rd.toNat + j) (BitVec.ofNat 64 (fieldAt l (8 * j) 8))) c) b 6, .next)

/-- A wide store of `n` registers. -/
def wideStoreBody (f : FerryNo) (o : LM) (n : Nat) : Body := fun _ s b =>
  let c := s.ctx b
  let off := offsetM o c (8 * n)
  if rawAddr c o.sa.toNat off % (8 * n) ≠ 0 then (s, .exc (misaligned o.sa.toNat off) c.pc)
  else
    let l := (List.range n).flatMap fun j => bytesOfNat 8 (c.getG (o.rd.toNat + j)).toNat
    let (s, r) := segStore s b f o.sa.toNat off l false
    accessed s b r fun s _ => (countEv s b 7, .next)

/-- The decoding of a wide move: rd is a multiple of the number of registers. -/
def wideDec (o : LM) (fn n : Nat) : Dec :=
  { word := wordM o 0x0E fn, major := 0x0E, g := o.g, group := some 2, fieldBad := o.rd.toNat % n != 0 }

/-- LDW.16. -/
def execLdw16 (f : FerryNo) (o : LM) (s : State) : Host.Outcome State Fault Refusal := row f (wideDec o 0 2) (wideLoadBody f o 2) s
/-- LDW.32. -/
def execLdw32 (f : FerryNo) (o : LM) (s : State) : Host.Outcome State Fault Refusal := row f (wideDec o 1 4) (wideLoadBody f o 4) s
/-- LDW.64. -/
def execLdw64 (f : FerryNo) (o : LM) (s : State) : Host.Outcome State Fault Refusal := row f (wideDec o 2 8) (wideLoadBody f o 8) s
/-- STW.16. -/
def execStw16 (f : FerryNo) (o : LM) (s : State) : Host.Outcome State Fault Refusal := row f (wideDec o 4 2) (wideStoreBody f o 2) s
/-- STW.32. -/
def execStw32 (f : FerryNo) (o : LM) (s : State) : Host.Outcome State Fault Refusal := row f (wideDec o 5 4) (wideStoreBody f o 4) s
/-- STW.64. -/
def execStw64 (f : FerryNo) (o : LM) (s : State) : Host.Outcome State Fault Refusal := row f (wideDec o 6 8) (wideStoreBody f o 8) s

/-! ### Atomics (R181, R182, R221) -/

/-- LOCK: loads the word, and the hold on its 64-byte Pontoon word begins. -/
def execLock (f : FerryNo) (o : LM) (s : State) : Host.Outcome State Fault Refusal :=
  row f { word := wordM o 0x0F 0, major := 0x0F, g := o.g, group := some 3 }
    (fun _ s b =>
      let (s, r) := atomLoad s b f o.sa.toNat (offsetM o (s.ctx b) 8) .r true
      accessed s b r fun s e => (countEv (s.modCtx b fun c =>
        { c.setG o.rd.toNat e.2 with lock := some { word := e.1 / 64, count := 0 } }) b 8, .next)) s

/-- SWAP. -/
def execSwap (f : FerryNo) (o : LM) (s : State) : Host.Outcome State Fault Refusal :=
  row f { word := wordM o 0x0F 1, major := 0x0F, g := o.g, group := some 4 }
    (fun _ s b =>
      let c := s.ctx b
      let (s, r) := atomLoad s b f o.sa.toNat (offsetM o c 8) .rw false
      accessed s b r fun s e =>
        (countEv ((atomStore s b f e.1 (c.getG o.rd.toNat)).modCtx b fun c => c.setG o.rd.toNat e.2) b 8, .next)) s

/-- CAS: rd is even; memory is written on a match only, and the old value returned in any case. -/
def execCas (f : FerryNo) (o : LM) (s : State) : Host.Outcome State Fault Refusal :=
  row f { word := wordM o 0x0F 2, major := 0x0F, g := o.g, group := some 5, fieldBad := o.rd.toNat % 2 != 0 }
    (fun _ s b =>
      let c := s.ctx b
      let (s, r) := atomLoad s b f o.sa.toNat (offsetM o c 8) .rw false
      accessed s b r fun s e =>
        let s := if e.2 = c.getG o.rd.toNat then atomStore s b f e.1 (c.getG (o.rd.toNat + 1)) else s
        (countEv (s.modCtx b fun c => c.setG o.rd.toNat e.2) b 8, .next)) s

/-! ### Long resumable instructions (R191 to R193, R221; log entry 11) -/

/-- The outcome of one granule. -/
inductive Granule where
  /-- It is complete, and more are to come: bytes moved so far. -/
  | more (moved : Nat)
  /-- The instruction is complete. -/
  | last
  /-- It has not begun: an exception. -/
  | exc (e : Exc)
  /-- It has not begun: it waits. -/
  | wait

/-- Runs granules, at most `n` of them, until the instruction is complete or a granule does not begin. `begun` says that one
is complete. -/
def runGranules (h : Nat → State → State × Granule) (b : BerthNo) (single : Bool) : Nat → Nat → Bool → State → State × After
  | 0, _, _, s => (s, .next)
  | n + 1, moved, begun, s =>
    match h moved s with
    | (s, .last) => (s, .next)
    | (s, .exc e) => (if begun then s.modCtx b fun c => { c with long := true } else s, .exc e (s.ctx b).pc)
    | (s, .wait) => (s, if begun then .granule else .again)
    | (s, .more moved) => if single then (s, .granule) else runGranules h b single n moved true s

/-- Most bytes that one execution of MOVB or FILL moves (R192). -/
def longLimit : Nat := 65536

/-- Bytes of the granule at offset `o` with `n` bytes to go: up to the next multiple of 64. -/
def granuleSize (o : W64) (n : Nat) : Nat := min n (64 - o.toNat % 64)

/-- Progress of a long instruction: the offsets advance, then the count falls (R191, R221). -/
def Ctx.progress (c : Ctx) (rd : Nat) (src : Option Nat) (k : Nat) : Ctx :=
  let v := BitVec.ofNat 64 k
  let d := c.setG rd (c.getG rd + v)
  let d := match src with
    | some ra => d.setG ra (c.getG ra + v)
    | none => d
  d.setG (rd + 1) (c.getG (rd + 1) - v)

/-- What a granule leaves to do: `left` bytes of the count after it, and the limit of one execution. -/
def granuleNext (left moved : Nat) : Granule := if left = 0 ∨ longLimit ≤ moved then .last else .more moved

/-- A granule of MOVB: it is read wholly before it is written. -/
def movbGranule (f : FerryNo) (o : LMl) (b : BerthNo) (moved : Nat) (s : State) : State × Granule :=
  let c := s.ctx b
  let dst := c.getG o.rd.toNat
  let src := c.getG o.ra.toNat
  let n := (c.getG (o.rd.toNat + 1)).toNat
  if n = 0 then (s, .last)
  else
    let k := granuleSize dst (min n (longLimit - moved))
    match segLoad s b f o.sb.toNat src k false with
    | (s, .exc e) => (s, .exc e)
    | (s, .wait) => (s, .wait)
    | (s, .ok l) =>
      match segStore s b f o.sa.toNat dst l false with
      | (s, .exc e) => (s, .exc e)
      | (s, .wait) => (s, .wait)
      | (s, .ok _) => (s.modCtx b fun c => c.progress o.rd.toNat (some o.ra.toNat) k, granuleNext (n - k) (moved + k))

/-- A granule of FILL: the byte at offset o receives byte (o mod 8) of the pattern. -/
def fillGranule (f : FerryNo) (o : LMl) (b : BerthNo) (moved : Nat) (s : State) : State × Granule :=
  let c := s.ctx b
  let dst := c.getG o.rd.toNat
  let n := (c.getG (o.rd.toNat + 1)).toNat
  if n = 0 then (s, .last)
  else
    let k := granuleSize dst (min n (longLimit - moved))
    let pat := bytesOfNat 8 (c.getG o.ra.toNat).toNat
    let l := (List.range k).map fun j => pat.getD ((dst.toNat + j) % 8) 0
    match segStore s b f o.sa.toNat dst l false with
    | (s, .exc e) => (s, .exc e)
    | (s, .wait) => (s, .wait)
    | (s, .ok _) => (s.modCtx b fun c => c.progress o.rd.toNat none k, granuleNext (n - k) (moved + k))

/-- A granule of CRC64: offset, count and accumulator advance (R193). -/
def crcGranule (f : FerryNo) (o : LMl) (b : BerthNo) (moved : Nat) (s : State) : State × Granule :=
  let c := s.ctx b
  let src := c.getG o.rd.toNat
  let n := (c.getG (o.rd.toNat + 1)).toNat
  let acc := c.getG o.ra.toNat
  if n = 0 then (s, .last)
  else
    let k := granuleSize src n
    match segLoad s b f o.sa.toNat src k false with
    | (s, .exc e) => (s, .exc e)
    | (s, .wait) => (s, .wait)
    | (s, .ok l) =>
      (s.modCtx b fun c => (c.progress o.rd.toNat none k).setG o.ra.toNat (crc64 acc l),
        if n = k then .last else .more moved)

/-- The decoding of a long instruction: rd even and not zero. -/
def longDec (o : LMl) (fn group : Nat) (sbUsed : Bool) : Dec :=
  { word := wordMl o 0x0F fn, major := 0x0F, g := o.g, group := some group
    fieldBad := o.rd.toNat % 2 != 0 || o.rd == 0 || o.res != 0 || (!sbUsed && o.sb != 0) }

/-- MOVB. -/
def execMovb (f : FerryNo) (o : LMl) (s : State) : Host.Outcome State Fault Refusal :=
  row f (longDec o 4 6 true) (fun single s b => runGranules (movbGranule f o b) b single (longLimit + 1) 0 false s) s
/-- FILL. -/
def execFill (f : FerryNo) (o : LMl) (s : State) : Host.Outcome State Fault Refusal :=
  row f (longDec o 5 7 false) (fun single s b => runGranules (fillGranule f o b) b single (longLimit + 1) 0 false s) s
/-- CRC64. -/
def execCrc64 (f : FerryNo) (o : LMl) (s : State) : Host.Outcome State Fault Refusal :=
  row f (longDec o 6 8 false)
    (fun single s b => runGranules (crcGranule f o b) b single (((s.ctx b).getG (o.rd.toNat + 1)).toNat + 1) 0 false s) s

end Sys2Proof.Machine
end

