-- ==== Sys2Proof/Machine/Sysreg.lean ====
section
/-!
DEFINITION. Segment moves (R176, R179, R226), major 0x18, and the system registers with their moves (R227, R237, R238, R248,
R249, R252, R254, R256 to R258, R511), major 0x19.
-/
namespace Sys2Proof.Machine

/-! ### Segment moves (R226) -/

/-- The decoding of a segment move: `bad` tells an unused field that is not zero. -/
def segDec (o : LA) (fn : Nat) (bad : Bool) : Dec :=
  { word := wordA o 0x18 fn, major := 0x18, g := o.g, fieldBad := bad || o.f || decide (8 ≤ o.rb.toNat), priv := true }

/-- A segment with its attribute register written for a world (R179): an attribute that names the other world grants
nothing. The flag tells a substitution. -/
def Seg.judged (x : Seg) (north : Bool) (v : W64) : Seg × Bool :=
  let y := x.withAttr v
  if y.north = north then (y, false) else ({ y with north := north, x := false, w := false, r := false }, true)

/-- MTSB. -/
def execMtsb (f : FerryNo) (o : LA) (s : State) : Host.Outcome State Fault Refusal :=
  row f (segDec o 0 (o.rd != 0))
    (fun _ s b => (s.modCtx b fun c =>
      c.setSeg o.rb.toNat { c.seg o.rb.toNat with base := (c.getG o.ra.toNat).setWidth 48 }, .next)) s

/-- A write of `v` to the attribute register of Sn, with R179 applied. -/
def writeSegAttr (s : State) (b : BerthNo) (n : Nat) (v : W64) : State :=
  let c := s.ctx b
  let r := (c.seg n).judged c.north v
  let s := s.setCtx b (c.setSeg n r.1)
  if r.2 then clampLog s (srcCode (fwSrc s b)) 3 (fidSeg false n b.val) v 0 else s

/-- MTSA. -/
def execMtsa (f : FerryNo) (o : LA) (s : State) : Host.Outcome State Fault Refusal :=
  row f (segDec o 1 (o.rd != 0)) (fun _ s b => (writeSegAttr s b o.rb.toNat ((s.ctx b).getG o.ra.toNat), .next)) s

/-- MFSB. -/
def execMfsb (f : FerryNo) (o : LA) (s : State) : Host.Outcome State Fault Refusal :=
  row f (segDec o 2 (o.ra != 0))
    (fun _ s b => (s.modCtx b fun c => c.setG o.rd.toNat ((c.seg o.rb.toNat).base.setWidth 64), .next)) s

/-- MFSA. -/
def execMfsa (f : FerryNo) (o : LA) (s : State) : Host.Outcome State Fault Refusal :=
  row f (segDec o 3 (o.ra != 0))
    (fun _ s b => (s.modCtx b fun c => c.setG o.rd.toNat (c.seg o.rb.toNat).attr, .next)) s

/-! ### System registers (R227, R258, R511) -/

/-- Is a system-register number assigned? -/
def sysAssigned (n : Nat) : Bool :=
  n ≤ 8 || (0x10 ≤ n && n ≤ 0x21) || (0x30 ≤ n && n ≤ 0x41) || (0x60 ≤ n && n ≤ 0x62) || (0x80 ≤ n && n ≤ 0x82)
    || (0x100 ≤ n && n ≤ 0x108) || n == 0x110 || (0x200 ≤ n && n ≤ 0x210) || (0x218 ≤ n && n ≤ 0x21A)

/-- Is a system register North-only (R258)? -/
def sysNorth (n : Nat) : Bool := (0x60 ≤ n && n ≤ 0x62) || n == 0x82

/-- The Ferry that FERRY_SEL of a Span selects. -/
def selFerry (s : State) (i : SpanNo) : FerryNo := ferryOf (16 * i.val + (s.span i).ferrySel.toNat % 16)

/-- SMP_INFO (R511). -/
def Sample.info (x : Sample) : W64 := atB x.valid 63 ||| at' x.cls.toNat 15 12 ||| atB x.addrF 11 ||| at' x.counter.toNat 2 0

/-- LB_CTL (R248). -/
def Lifeboat.ctl (x : Lifeboat) : W64 := at' x.berth.toNat 41 32 ||| at' x.pcause.toNat 13 8 ||| atB x.occ 0

/-- The value of system register `n` for Berth `b` on Ferry `f`. A register that a write triggers reads zero (R10). -/
def sysRead (s : State) (b : BerthNo) (f : FerryNo) (n : Nat) : W64 :=
  let c := s.ctx b
  let w := worldRegs s b
  let lb := (s.ferry f).lb c.north
  let i := berthSpan b
  if n = 0 then c.status b
  else if n = 1 then w.vbar.setWidth 64
  else if n = 2 then c.intPend.setWidth 64
  else if n = 3 then c.intRoute.setWidth 64
  else if n = 5 then c.timerCmp
  else if n = 6 then w.gateEn.setWidth 64
  else if n = 7 then w.gateSp.setWidth 64
  else if n = 8 then w.gateLim.setWidth 64
  else if 0x10 ≤ n ∧ n ≤ 0x17 then (Table.get Seg.zero w.gateSegs (n - 0x10)).base.setWidth 64
  else if 0x18 ≤ n ∧ n ≤ 0x1F then (Table.get Seg.zero w.gateSegs (n - 0x18)).attr
  else if n = 0x20 then w.slackLim.setWidth 64
  else if n = 0x21 then w.slackStat.setWidth 64
  else if 0x30 ≤ n ∧ n ≤ 0x3F then BitVec.ofNat 64 (fieldAt lb.frame (8 * (n - 0x30)) 8)
  else if n = 0x40 then lb.ctl
  else if n = 0x41 then lb.addr
  else if n = 0x60 then (s.span i).ferrySel.setWidth 64
  else if n = 0x61 then (s.ferry (selFerry s i)).agr.word
  else if n = 0x80 then c.wdogLim.setWidth 64
  else if 0x100 ≤ n ∧ n ≤ 0x108 then featReg s (n - 0x100)
  else if n = 0x110 then c.bcval
  else if 0x200 ≤ n ∧ n ≤ 0x207 then Table.get 0 c.cntCfg (n - 0x200)
  else if 0x208 ≤ n ∧ n ≤ 0x20F then (Table.get 0 c.cntVal (n - 0x208)).setWidth 64
  else if n = 0x210 then tickOf s f
  else if n = 0x218 then c.smp.info
  else if n = 0x219 then c.smp.pc.setWidth 64
  else if n = 0x21A then c.smp.addr.setWidth 64
  else 0

/-- Judges the fields of a system register or counter configuration (R474). The spec gives a substitution there no field id:
its entry holds a free one (log entry 3). -/
def judgeSys (s : State) (b : BerthNo) (old v : W64) (fs : List FieldSpec) : State × W64 :=
  fs.foldl (fun (acc : State × W64) f =>
    let w := fld v f.hi f.lo
    let (a, k) := f.judge acc.2 w
    let r := setFld acc.2 f.hi f.lo a
    match k with
    | none => (acc.1, r)
    | some k =>
      (clampLog acc.1.drawn (srcCode (fwSrc acc.1 b)) k (acc.1.freeWord.setWidth 32) (BitVec.ofNat 64 w) (BitVec.ofNat 64 a), r))
    (s, old)

/-- The registers of the current world changed. -/
def modWorldRegs (s : State) (b : BerthNo) (h : WorldRegs → WorldRegs) : State :=
  let north := (s.ctx b).north
  s.modSpan (berthSpan b) fun x => x.modWorld north h

/-- The watchdog of a context reloads (R257, R498). -/
def Ctx.kicked (c : Ctx) : Ctx := { c with wdogRem := c.wdogLim }

/-- A write of a counter's configuration (R502, R508, R511). -/
def writeCntCfg (s : State) (b : BerthNo) (k : Nat) (v : W64) : State :=
  let r := judgeSys s b (Table.get 0 (s.ctx b).cntCfg k) v (cntFields v 0xFF ferryClasses)
  r.1.modCtx b fun c => { c with cntCfg := Table.put c.cntCfg k r.2 }

/-- A write of a counter (R508, R511). -/
def writeCnt (s : State) (b : BerthNo) (k : Nat) (v : W64) : State :=
  s.modCtx b fun c => { c with cntVal := Table.put c.cntVal k (v.setWidth 48) }

/-- A write of a gate profile's attribute register (R252): R179 applies with the world that owns the profile. -/
def writeGateAttr (s : State) (b : BerthNo) (k : Nat) (v : W64) : State :=
  let r := (Table.get Seg.zero (worldRegs s b).gateSegs k).judged (s.ctx b).north v
  let s := modWorldRegs s b fun w => { w with gateSegs := Table.put w.gateSegs k r.1 }
  if r.2 then clampLog s (srcCode (fwSrc s b)) 3 (fidSeg true k b.val) v 0 else s

/-- A write of `v` to system register `n` by Berth `b` on Ferry `f`. A read-only register ignores it (R198, R227). -/
def sysWrite (s : State) (b : BerthNo) (f : FerryNo) (n : Nat) (v : W64) : State :=
  let i := berthSpan b
  if n = 0 then s.modCtx b fun c => { c with ipl := BitVec.ofNat 4 (fld v 23 20), ie := tb v 19, dzt := tb v 18 }
  else if n = 1 then modWorldRegs s b fun w => { w with vbar := (v &&& ones 31 12).setWidth 32 }
  else if n = 2 then s.modCtx b fun c => { c with intPend := c.intPend &&& ~~~(v.setWidth 6) }
  else if n = 3 then s.modCtx b fun c => { c with intRoute := v.setWidth 24 }
  else if n = 4 then s.modCtx b fun c => { c with intPend := c.intPend ||| 8 }
  else if n = 5 then s.modCtx b fun c => timerAt s.time.count { c with timerCmp := v, timerArmed := true }
  else if n = 6 then modWorldRegs s b fun w => { w with gateEn := v.setWidth 32 }
  else if n = 7 then modWorldRegs s b fun w => { w with gateSp := (v &&& ones 31 6).setWidth 32 }
  else if n = 8 then
    let r := judgeSys s b 0 v [numField 31 0 1000 4000000]
    modWorldRegs r.1 b fun w => { w with gateLim := r.2.setWidth 32 }
  else if 0x10 ≤ n ∧ n ≤ 0x17 then modWorldRegs s b fun w =>
    { w with gateSegs := Table.put w.gateSegs (n - 0x10) { Table.get Seg.zero w.gateSegs (n - 0x10) with base := v.setWidth 48 } }
  else if 0x18 ≤ n ∧ n ≤ 0x1F then writeGateAttr s b (n - 0x18) v
  else if n = 0x20 then
    let r := judgeSys s b 0 v [numField 13 0 0 8192]
    modWorldRegs r.1 b fun w => { w with slackLim := r.2.setWidth 14 }
  else if n = 0x21 then modWorldRegs s b fun w => { w with slackStat := 0 }
  else if n = 0x40 then
    if tb v 0 then s.modFerry f fun y => y.setLb (s.ctx b).north { y.lb (s.ctx b).north with occ := false } else s
  else if n = 0x60 then s.modSpan i fun x => { x with ferrySel := v.setWidth 8 }
  else if n = 0x62 then if tb v 0 then startRefloat s (selFerry s i) else s
  else if n = 0x80 then s.modCtx b fun c => Ctx.kicked { c with wdogLim := v.setWidth 32 }
  else if n = 0x81 then s.modCtx b Ctx.kicked
  else if n = 0x82 then kickBlock s
  else if 0x200 ≤ n ∧ n ≤ 0x207 then writeCntCfg s b (n - 0x200) v
  else if 0x208 ≤ n ∧ n ≤ 0x20F then writeCnt s b (n - 0x208) v
  else if n = 0x218 then
    if tb v 63 then s.modCtx b fun c => { c with smp := { c.smp with valid := false } } else s
  else s

/-- The decoding of a system-register move (R227). -/
def sysDec (g : Guard) (word : W32) (num : Nat) (res : BitVec 4) : Dec :=
  { word := word, major := 0x19, g := g, enumBad := !sysAssigned num, fieldBad := res != 0, north := sysNorth num, priv := true }

/-- A write of a system register. -/
def mtsrRow (f : FerryNo) (o : LIs) (s : State) : Host.Outcome State Fault Refusal :=
  row f (sysDec o.g (wordIs o 0x19 true) o.num.toNat o.res)
    (fun _ s b => (sysWrite s b f o.num.toNat ((s.ctx b).getG o.r.toNat), .next)) s

/-- MFSR. -/
def execMfsr (f : FerryNo) (o : LIs) (s : State) : Host.Outcome State Fault Refusal :=
  row f (sysDec o.g (wordIs o 0x19 false) o.num.toNat o.res)
    (fun _ s b => (s.modCtx b fun c => c.setG o.r.toNat (sysRead s b f o.num.toNat), .next)) s

/-- MTSR. -/
def execMtsr (f : FerryNo) (o : LIs) (s : State) : Host.Outcome State Fault Refusal := mtsrRow f o s

/-- The operands of a row that fixes its register. -/
def sysRow (o : LIk) (num : BitVec 12) : LIs := { g := o.g, r := o.r, res := o.res, num := num }

/-- INT_SOFT (R254). -/
def execIntSoft (f : FerryNo) (o : LIk) (s : State) : Host.Outcome State Fault Refusal := mtsrRow f (sysRow o 0x004) s
/-- WDOG_KICK (R257). -/
def execWdogKick (f : FerryNo) (o : LIk) (s : State) : Host.Outcome State Fault Refusal := mtsrRow f (sysRow o 0x081) s
/-- BWDOG_KICK (R257, R499). -/
def execBwdogKick (f : FerryNo) (o : LIk) (s : State) : Host.Outcome State Fault Refusal := mtsrRow f (sysRow o 0x082) s
/-- FERRY_CTL (R249). -/
def execFerryCtl (f : FerryNo) (o : LIk) (s : State) : Host.Outcome State Fault Refusal := mtsrRow f (sysRow o 0x062) s

end Sys2Proof.Machine
end

