-- ==== Sys2Proof/Machine/Issue.lean ====
section
/-!
DEFINITION. Instructions that give work to others: unit and Tender jobs (R79, R228), KEY, PK and RND (R229 to R232), BERTH (R233,
R312) and CNT (R234, R500 to R511).
-/
namespace Sys2Proof.Machine

/-! ### Issue (R183, R228) -/

/-- Has Berth `b` a store that not every agent can observe yet (R183)? Only a staging write that its port has not accepted
outlasts a command. -/
def fenceOpen (s : State) (b : BerthNo) : Bool := s.ports.stgWrites.any fun w => w.berth == b.val

/-- The descriptor of an issue, by the checks of R228: its 64 bytes. -/
def readDesc (s : State) (b : BerthNo) (f : FerryNo) (o : LM) : State × FRes (List Byte) :=
  let c := s.ctx b
  let n := o.sa.toNat
  let off := offsetM o c 64
  if rawAddr c n off % 64 ≠ 0 then (s, .exc (misaligned n off))
  else match segCheck c n off 64 .r with
    | .error e => (s, .exc e)
    | .ok a =>
      if !inPontoon (berthSpan b) a then
        (s, .exc { cause := 0x07, info := BitVec.ofNat 64 a, info2 := BitVec.ofNat 64 n })
      else if fenceOpen s b then (s, .wait)
      else ferRead s b f false .read a 64

/-- The geometries that a Truss job binds at acceptance (R52, R71 step 2): an absent one is empty. -/
def boundGeos (s : State) (b : BerthNo) (e : Engine) (l : List Byte) : List (List Byte) :=
  match e with
  | .truss => [60, 62].map fun k => Table.get [] (s.span (berthSpan b)).geos (fieldAt l k 2)
  | _ => []

/-- The block address of the descriptor of an issue: UDA (R268, R271). -/
def descAddr (s : State) (b : BerthNo) (o : LM) : Nat := rawAddr (s.ctx b) o.sa.toNat (offsetM o (s.ctx b) 64)

/-- issue and issue.W: once it is accepted extension vector 3 is called (R286), and acceptance waits while four jobs of the Berth are open (R79). -/
def issueBody (f : FerryNo) (o : LM) (e : Engine) (w : Bool) : Body := fun _ s b =>
  let u := descAddr s b o % 2 ^ 32
  let (s, r) := readDesc s b f o
  accessed s b r fun s l =>
    if 4 ≤ openJobs ((s.span (berthSpan b)).unit e) b then (s, .again)
    else
      let s := countEv (acceptJob s e b l (boundGeos s b e l)) b 5
      let s := s.modCtx b fun c => c.setG o.rd.toNat ((acceptedCount s e b).setWidth 64)
      let a := fieldAt l 28 4 / 2 * 2 % 2 ^ 18
      let s := callVector s f b 3 (BitVec.ofNat 64 (engineIdx e + 1)) (BitVec.ofNat 64 u)
      if (s.ferry f).agr.aground then (s, .aground)
      else if w then
        let s := s.modCtx b Ctx.advance
        (s, if s.bit (berthSpan b) (s.ctx b).north a then .done else .wait (.unit e (BitVec.ofNat 18 a)))
      else (s, .next)

/-- An issue row. -/
def issueRow (f : FerryNo) (o : LM) (major : Nat) (e : Engine) (w : Bool) (s : State) : Host.Outcome State Fault Refusal :=
  row f { word := wordM o major (bit w), major := major, g := o.g } (issueBody f o e w) s

/-- TRUSS. -/
def execTruss (f : FerryNo) (o : LM) (s : State) : Host.Outcome State Fault Refusal := issueRow f o 0x20 .truss false s
/-- TRUSS.W. -/
def execTrussW (f : FerryNo) (o : LM) (s : State) : Host.Outcome State Fault Refusal := issueRow f o 0x20 .truss true s
/-- SEAL. -/
def execSealU (f : FerryNo) (o : LM) (s : State) : Host.Outcome State Fault Refusal := issueRow f o 0x21 .sealU false s
/-- SEAL.W. -/
def execSealUW (f : FerryNo) (o : LM) (s : State) : Host.Outcome State Fault Refusal := issueRow f o 0x21 .sealU true s
/-- CMPR. -/
def execCmpr (f : FerryNo) (o : LM) (s : State) : Host.Outcome State Fault Refusal := issueRow f o 0x22 .cmpr false s
/-- CMPR.W. -/
def execCmprW (f : FerryNo) (o : LM) (s : State) : Host.Outcome State Fault Refusal := issueRow f o 0x22 .cmpr true s
/-- HASH. -/
def execHash (f : FerryNo) (o : LM) (s : State) : Host.Outcome State Fault Refusal := issueRow f o 0x23 .hash false s
/-- HASH.W. -/
def execHashW (f : FerryNo) (o : LM) (s : State) : Host.Outcome State Fault Refusal := issueRow f o 0x23 .hash true s
/-- XFER. -/
def execXfer (f : FerryNo) (o : LM) (s : State) : Host.Outcome State Fault Refusal := issueRow f o 0x1C .tender false s
/-- XFER.W. -/
def execXferW (f : FerryNo) (o : LM) (s : State) : Host.Outcome State Fault Refusal := issueRow f o 0x1C .tender true s

/-! ### KEY and PK (R229 to R231) -/

/-- A KEY or PK operation: the Berth waits until it completes. -/
def keyBody (pk : Bool) (fn : Nat) : Body := fun _ s b =>
  let r := keyOpRun (if pk then pkJoin s b else s) b pk fn
  (countBlock r.1 6 (if pk then 3 else 2) 1, .wait (.key r.2))

/-- A KEY or PK row: rd, ra, rb and f are zero. -/
def keyRow (f : FerryNo) (o : LA) (pk : Bool) (fn : Nat) (s : State) : Host.Outcome State Fault Refusal :=
  row f { word := wordA o (if pk then 0x25 else 0x24) fn, major := if pk then 0x25 else 0x24, g := o.g
          fieldBad := o.rd != 0 || o.ra != 0 || o.rb != 0 || o.f, north := true, priv := true } (keyBody pk fn) s

/-- KEY.INFO. -/
def execKeyInfo (f : FerryNo) (o : LA) (s : State) : Host.Outcome State Fault Refusal := keyRow f o false 0 s
/-- KEY.IMPORT. -/
def execKeyImport (f : FerryNo) (o : LA) (s : State) : Host.Outcome State Fault Refusal := keyRow f o false 1 s
/-- KEY.EXPORT. -/
def execKeyExport (f : FerryNo) (o : LA) (s : State) : Host.Outcome State Fault Refusal := keyRow f o false 2 s
/-- KEY.GEN. -/
def execKeyGen (f : FerryNo) (o : LA) (s : State) : Host.Outcome State Fault Refusal := keyRow f o false 3 s
/-- KEY.ERASE. -/
def execKeyErase (f : FerryNo) (o : LA) (s : State) : Host.Outcome State Fault Refusal := keyRow f o false 4 s
/-- KEY.ISSUE. -/
def execKeyIssue (f : FerryNo) (o : LA) (s : State) : Host.Outcome State Fault Refusal := keyRow f o false 5 s
/-- KEY.REVOKE. -/
def execKeyRevoke (f : FerryNo) (o : LA) (s : State) : Host.Outcome State Fault Refusal := keyRow f o false 6 s
/-- KEY.QUERY. -/
def execKeyQuery (f : FerryNo) (o : LA) (s : State) : Host.Outcome State Fault Refusal := keyRow f o false 7 s
/-- PK.PUBKEY. -/
def execPkPubkey (f : FerryNo) (o : LA) (s : State) : Host.Outcome State Fault Refusal := keyRow f o true 0 s
/-- PK.RECEIPT. -/
def execPkReceipt (f : FerryNo) (o : LA) (s : State) : Host.Outcome State Fault Refusal := keyRow f o true 1 s
/-- PK.SHRED. -/
def execPkShred (f : FerryNo) (o : LA) (s : State) : Host.Outcome State Fault Refusal := keyRow f o true 2 s
/-- PK.VERIFY.MLDSA. -/
def execPkVerifyMldsa (f : FerryNo) (o : LA) (s : State) : Host.Outcome State Fault Refusal := keyRow f o true 3 s
/-- PK.VERIFY.ECDSA. -/
def execPkVerifyEcdsa (f : FerryNo) (o : LA) (s : State) : Host.Outcome State Fault Refusal := keyRow f o true 4 s
/-- PK.KEM.GEN. -/
def execPkKemGen (f : FerryNo) (o : LA) (s : State) : Host.Outcome State Fault Refusal := keyRow f o true 5 s
/-- PK.KEM.ENC. -/
def execPkKemEnc (f : FerryNo) (o : LA) (s : State) : Host.Outcome State Fault Refusal := keyRow f o true 6 s
/-- PK.KEM.DEC. -/
def execPkKemDec (f : FerryNo) (o : LA) (s : State) : Host.Outcome State Fault Refusal := keyRow f o true 7 s
/-- PK.ECDH. -/
def execPkEcdh (f : FerryNo) (o : LA) (s : State) : Host.Outcome State Fault Refusal := keyRow f o true 8 s

/-! ### RND (R232) -/

/-- RND: 64 random bits to G(rd) and a status to G(rb); with rd = rb the status stays. It holds its Ferry while the DRBG has to
be waited for. -/
def execRnd (f : FerryNo) (o : LA) (s : State) : Host.Outcome State Fault Refusal :=
  row f { word := wordA o 0x26 0, major := 0x26, g := o.g, fieldBad := o.ra != 0 || o.f }
    (fun _ s b =>
      match draws s b [8] with
      | (s, .ok l) => (s.modCtx b (rndOk o.rd o.rb (l.headD [])), .next)
      | (s, .fail e) => (s.modCtx b fun c => (c.setG o.rd.toNat 0).setG o.rb.toNat (BitVec.ofNat 64 e), .next)
      | (s, .wait) => (s, .hold (.rnd o.rd o.rb))) s

/-! ### BERTH (R233) -/

/-- The decoding of major 0x28. -/
def berthDec (o : LA) (fn : Nat) (bad : Bool) : Dec :=
  { word := wordA o 0x28 fn, major := 0x28, g := o.g, fieldBad := bad || o.f }

/-- YIELD. -/
def execYield (f : FerryNo) (o : LA) (s : State) : Host.Outcome State Fault Refusal :=
  row f (berthDec o 0 (o.rd != 0 || o.ra != 0 || o.rb != 0)) (fun _ s _ => (s, .yield)) s

/-- The signal of Berth `b` to Berth `v` of its Span, with its status: the Berth named is of the other world when its home world is not the
sender's current one (log entry 15). -/
def signalTo (s : State) (b : BerthNo) (v : W64) : State × W64 :=
  let j := v.toNat
  let t := spanBerth (berthSpan b) ⟨j % 64, by omega⟩
  if 63 < j then (s, 1)
  else if (s.ctx t).home != (s.ctx b).north then (s, 2)
  else (signal s t, 0)

/-- SIGNAL. -/
def execSignal (f : FerryNo) (o : LA) (s : State) : Host.Outcome State Fault Refusal :=
  row f (berthDec o 1 (o.rb != 0))
    (fun _ s b =>
      let r := signalTo s b ((s.ctx b).getG o.ra.toNat)
      (r.1.modCtx b fun c => c.setG o.rd.toNat r.2, .next)) s

/-- The status of a POST with operands `a` and `v`, none when its frame can be sent (R233). -/
def postStatus (b : BerthNo) (a v : W64) : Option Nat :=
  if !([2, 3, 4].contains (fld v 3 0)) then some 1
  else if a.toNat % 64 ≠ 0 ∨ !inPontoon (berthSpan b) a.toNat then some 2
  else if 65472 < fld v 63 32 then some 3
  else if fld v 31 6 ≠ 0 then some 4
  else if pontoonBase (berthSpan b) + 0x800000 < a.toNat + 64 + fld v 63 32 then some 2
  else none

/-- Posts the frame that `a` and `v` describe: header bytes and payload are read as loads. -/
def postFrame (s : State) (b : BerthNo) (f : FerryNo) (a v : W64) : State × FRes Unit :=
  match ferRead s b f false .read a.toNat (64 + fld v 63 32) with
  | (s, .ok l) =>
    let x : OutFrame :=
      { beats := landFrame (fld v 3 0) (fld v 5 4) (l.take 64) (l.drop 64), kind := fld v 3 0, dest := b.val,
        job := none, span := (berthSpan b).val }
    (queueFrame s false (fld v 5 4) x, .ok ())
  | (s, .exc e) => (s, .exc e)
  | (s, .wait) => (s, .wait)

/-- POST: `room` tells whether the Span's outbound buffer has room for the frame. -/
def execPost (f : FerryNo) (o : LA) (room : Bool) (s : State) : Host.Outcome State Fault Refusal :=
  row f (berthDec o 2 false)
    (fun _ s b =>
      let c := s.ctx b
      let a := c.getG o.ra.toNat
      let v := c.getG o.rb.toNat
      match postStatus b a v with
      | some e => (s.modCtx b fun c => c.setG o.rd.toNat (BitVec.ofNat 64 e), .next)
      | none =>
        if !room then (s, .wait .post)
        else
          let (s, r) := postFrame s b f a v
          accessed s b r fun s _ => (s.modCtx b fun c => c.setG o.rd.toNat 0, .next)) s

/-! ### CNT (R234) -/

/-- The counter or group that rb names. -/
def cntNo (o : LA) : Nat := o.rb.toNat % 16

/-- The decoding of major 0x2C: counters up to `top` are assigned. -/
def cntDec (o : LA) (fn top : Nat) (bad priv : Bool) : Dec :=
  { word := wordA o 0x2C fn, major := 0x2C, g := o.g, enumBad := decide (top < cntNo o)
    fieldBad := bad || o.f || decide (16 ≤ o.rb.toNat), priv := priv }

/-- The value of counter `k`: counter 8 is TICK. -/
def readCnt (s : State) (b : BerthNo) (f : FerryNo) (k : Nat) : W64 :=
  if k = 8 then tickOf s f else (Table.get 0 (s.ctx b).cntVal k).setWidth 64

/-- CRD. -/
def execCrd (f : FerryNo) (o : LA) (s : State) : Host.Outcome State Fault Refusal :=
  row f (cntDec o 0 8 (o.ra != 0) false)
    (fun _ s b =>
      (s.modCtx b fun c => c.setG o.rd.toNat (readCnt s b f (cntNo o)), .next)) s

/-- CWR. -/
def execCwr (f : FerryNo) (o : LA) (s : State) : Host.Outcome State Fault Refusal :=
  row f (cntDec o 1 7 (o.rd != 0) true) (fun _ s b => (writeCnt s b (cntNo o) ((s.ctx b).getG o.ra.toNat), .next)) s

/-- CFGR. -/
def execCfgr (f : FerryNo) (o : LA) (s : State) : Host.Outcome State Fault Refusal :=
  row f (cntDec o 2 7 (o.ra != 0) true)
    (fun _ s b => (s.modCtx b fun c => c.setG o.rd.toNat (Table.get 0 c.cntCfg (cntNo o)), .next)) s

/-- CFGW. -/
def execCfgw (f : FerryNo) (o : LA) (s : State) : Host.Outcome State Fault Refusal :=
  row f (cntDec o 3 7 (o.rd != 0) true) (fun _ s b => (writeCntCfg s b (cntNo o) ((s.ctx b).getG o.ra.toNat), .next)) s

/-- Sets or clears the freeze bit of a group (R510). -/
def freezeGroup (s : State) (g : Nat) (v : Bool) : State :=
  s.setHreg 0x5F0030 (setFld (s.hreg 0x5F0030) g g (if v then 1 else 0))

/-- FREEZE. -/
def execFreeze (f : FerryNo) (o : LA) (s : State) : Host.Outcome State Fault Refusal :=
  row f (cntDec o 4 15 (o.rd != 0 || o.ra != 0) true) (fun _ s _ => (countBlock (freezeGroup s (cntNo o) true) 7 2 1, .next)) s

/-- THAW. -/
def execThaw (f : FerryNo) (o : LA) (s : State) : Host.Outcome State Fault Refusal :=
  row f (cntDec o 5 15 (o.rd != 0 || o.ra != 0) true) (fun _ s _ => (freezeGroup s (cntNo o) false, .next)) s

end Sys2Proof.Machine
end

