-- ==== Sys2Proof/Machine/Landing.lean ====
section
/-!
DEFINITION. Inbound frames: Landing frames and their records, credit (R306 to R311), image bytes by DMA (R289), and Slipway
frames (R313 to R315, R409).
-/
namespace Sys2Proof.Machine

/-- Do the Pilots take frames: the core is under power, no sleep is emulated and there is no tamper hold? -/
def landingRuns (s : State) : Bool := s.portsUp && s.power.emul == 0 && !s.tamper.hold

/-- The access identity of a landing for Berth `b`: a ring write or a write in a session window, by the Pilot (R341). -/
def landAcc (s : State) (b : BerthNo) : Acc :=
  { sp := berthSpan b, master := 6, north := (s.ctx b).home, sup := true, ferry := 0, berth := b.val }

/-- A credit unit. -/
def unitSize : Nat := 65536

/-- BTE_RING.q as it bounds the ring (R300, R476). -/
def ringQ (s : State) (b : BerthNo) : Nat := ringSize s b / unitSize - 1

/-- Start of Berth `b`'s ring. -/
def ringBase (s : State) (b : BerthNo) : Nat :=
  pontoonBase (berthSpan b) + 0x600000 + unitSize * fld (s.hreg (bteOff b 8)) 4 0

/-- Notes a discarded frame for Berth `b` (R307): drops, the counter and the event. -/
def dropFrame (s : State) (b : BerthNo) (src port : Nat) : State :=
  let s := s.modBerth b fun x => { x with drops := BitVec.ofNat 16 (satAdd 16 x.drops.toNat 1) }
  raise (countSpan s (berthSpan b) 4 5 (landAcc s b).who none 1) src port

/-- Discards a Landing frame (R307). The log entry names KIND, for which pad is applied; why a frame of an accepted kind is
discarded has no entry kind of its own, and its kind is free (log entry 3). -/
def discardLanding (s : State) (b : BerthNo) (port kind : Nat) : State :=
  let s := if kind = 1 ∨ kind = 2 then
      clampLog s.drawn 6 (1 + s.freeWord.toNat % 6) (fidFrame 6 4 port b.val) (BitVec.ofNat 64 kind) 0
    else clampLog s 6 2 (fidFrame 6 4 port b.val) (BitVec.ofNat 64 kind) 0
  dropFrame s b 1359 port

/-! ### Records (R308) -/

/-- Writes made as a landing: none when one of them is refused or fails, and whether it waits. -/
def landWrites (s : State) (q : Acc) : List (Nat × List Byte) → State × Option AccFail
  | [] => (s, none)
  | (a, l) :: t =>
    match physWrite s q false a l with
    | (s, .error e) => (s, some e)
    | (s, .ok _) => landWrites s q t

/-- The first of a list of writes that the Tollgate refuses. -/
def landGate (s : State) (q : Acc) : List (Nat × List Byte) → State × Bool
  | [] => (s, true)
  | (a, l) :: t =>
    match gateOnce s q (busyKey q) false .write a l.length with
    | (s, some _) => (s, false)
    | (s, none) => landGate s q t

/-- Writes that wait keep the verdict they have (R353). -/
def landStay (s : State) (q : Acc) (ws : List (Nat × List Byte)) : State :=
  ws.foldl (fun s w => staysOut s q (busyKey q) .write w.1 w.2.length) s

/-- How the filing of a record ends. -/
inductive Filed where
  /-- In the ring. -/
  | ok
  /-- Refused: the frame is discarded whole (R323, R356). -/
  | refused
  /-- The words are held. -/
  | wait

/-- Files a record of `l` bytes, header beat first, for which `space` bytes are reserved; the content of a pad record beyond
its length and kind is free. -/
def fileRecord (s : State) (b : BerthNo) (l : List Byte) (space : Nat) : State × Filed :=
  let n := ringSize s b
  let p := (s.berth b).prod
  let pad := if n < p + space then n - p else 0
  let base := ringBase s b
  let start := if pad = 0 then p else 0
  let padRec := bytesOfNat 4 (pad - 64) ++ [0] ++ freeBytes s.free (pad - 5)
  let q := landAcc s b
  let ws := (if pad = 0 then [] else [(base + p, padRec)]) ++ [(base + start, l)]
  let s := if pad = 0 then s else s.drawn
  match landGate s q ws with
  | (s, false) => (s, .refused)
  | (s, true) =>
    match landWrites s q ws with
    | (_, some .wait) => (landStay s q ws, .wait)
    | (s, some _) => (s, .refused)
    | (s, none) =>
      let s := s.modBerth b fun x =>
        { x with prod := (start + l.length) % n, received := x.received + pad + l.length }
      (signal s b, .ok)

/-! ### Landing frames (R306 to R309) -/

/-- A whole number of beats, at least the header beat. -/
def wholeBeats (l : List Byte) : List Byte := padTo (64 * max 1 (ceilDiv l.length 64)) l

/-- An accepted frame within its credit is filed (R306, R308): the header's length is clamped, and reduced to the bytes
received. -/
def fileLanding (s : State) (port : Nat) (b : BerthNo) (kind : Nat) (l : List Byte) : Applied :=
  let n := fieldAt l 0 4
  let log := fun (s : State) (w a : Nat) =>
    if w = a then s else clampLog s 6 1 (fidFrame 6 0 port b.val) (BitVec.ofNat 64 w) (BitVec.ofNat 64 a)
  let m := min 65472 n
  let got := min m (l.length - 64)
  let s' := log (log s n m) m got
  let rec' := bytesOfNat 4 got ++ [BitVec.ofNat 8 kind, BitVec.ofNat 8 port, 0, 0] ++ (l.take 64).drop 8
    ++ (l.drop 64).take (64 * ceilDiv got 64)
  match fileRecord s' b rec' (64 + 64 * ceilDiv m 64) with
  | (s, .wait) => .waits s
  | (s, .refused) => .done (discardLanding s b port kind)
  | (s, .ok) =>
    let s := countSpan s (berthSpan b) 4 3 (landAcc s b).who none 1
    .done (if kind = 1 then s.modCtx b fun c => { c with intPend := c.intPend ||| 4 } else s)

/-- Image bytes by DMA (R289): a data frame for Berth 1,023 on port 0 while a DMA load receives, consumed in port order (log entry 92).
Every other frame is discarded while the block is Ashore. -/
def loaderFrame (s : State) (port : Nat) (b : BerthNo) (kind : Nat) (l : List Byte) : State :=
  if port = 0 ∧ b.val = 1023 ∧ kind = 2 ∧ s.ldr.state = 1 ∧ s.ldr.dma then
    let n := min (min 65472 (fieldAt l 0 4)) (l.length - 64)
    ldrDeliver s ((l.drop 64).take n)
  else s

/-- An inbound Landing frame whose turn it is. -/
def landingNow (s : State) (port : Nat) (b : BerthNo) (kind : Nat) (beats : List Byte) : Applied :=
  let l := wholeBeats beats
  let s' := countBlock s 1 port (l.length / 64)
  if s.ashore then .done (loaderFrame s' port b kind l)
  else if !(kind == 1 || kind == 2) || (s.span (berthSpan b)).pilotFault || ringQ s b == 0 then .done (discardLanding s' b port kind)
  else if (s.berth b).granted < (s.berth b).received + l.length then .done (raiseBerth (discardLanding s' b port kind) b 3)
  else fileLanding s' port b kind l

/-- An inbound Landing frame: while it cannot be filed, its port holds READY low (R19, R408). -/
def landingIn (s : State) (port : Nat) (b : BerthNo) (kind : Nat) (beats : List Byte) : State :=
  if !landingRuns s || flagAt s.ports.landRst port then s
  else takeOrHold s (.landing port b kind beats) fun s => landingNow s port b kind beats

/-- LANDING_COMMAND_FRAME. -/
def execLandingCommandFrame (port : BitVec 2) (b : BerthNo) (beats : List Byte) (s : State) : Host.Outcome State Fault Refusal :=
  .next (landingIn s port.toNat b 1 beats)
/-- LANDING_DATA_FRAME. -/
def execLandingDataFrame (port : BitVec 2) (b : BerthNo) (beats : List Byte) (s : State) : Host.Outcome State Fault Refusal :=
  .next (landingIn s port.toNat b 2 beats)
/-- LANDING_FRAME_DISCARDED: a frame of a kind that is not accepted. -/
def execLandingFrameDiscarded (port : BitVec 2) (b : BerthNo) (kind : BitVec 4) (beats : List Byte) (s : State) :
    Host.Outcome State Fault Refusal :=
  .next (if kind = 1 ∨ kind = 2 then s else landingIn s port.toNat b kind.toNat beats)
/-- LOADER_DMA_FRAME: a frame that arrives while the block is Ashore. -/
def execLoaderDmaFrame (port : BitVec 2) (b : BerthNo) (kind : BitVec 4) (beats : List Byte) (s : State) :
    Host.Outcome State Fault Refusal :=
  .next (if s.ashore then landingIn s port.toNat b kind.toNat beats else s)

/-! ### Credit (R310, R311) -/

/-- The units that the Pilot would grant Berth `b` (R310), before the pool is asked. Slipway records count as received without credit, so
that a difference of the totals may be negative. -/
def grantWant (s : State) (b : BerthNo) : Nat :=
  let x := s.berth b
  let q := ringQ s b
  let c := s.hreg (bteOff b 0x10)
  let hi := min (fld c 20 16) q
  let lo := min (fld c 12 8) hi
  let ahead : Int := x.granted - x.received
  let heldBytes : Int := x.granted - x.consumed
  if x.st = .idle ∨ x.st = .parked ∨ ((lo * unitSize : Nat) : Int) ≤ ahead then 0
  else (min ((((q * unitSize : Nat) : Int) - heldBytes) / 65536) ((((hi * unitSize : Nat) : Int) - ahead) / 65536)).toNat

/-- Does the pool allow Berth `b` its grant (R310)? -/
def grantAble (s : State) (b : BerthNo) : Bool :=
  let i := berthSpan b
  let n := grantWant s b
  let free := poolFree s i
  let resv := min (fld (s.hreg (spanOff i 0x808)) 12 8) (fld (s.hreg (spanOff i 0x808)) 5 0)
  1 ≤ n && n ≤ free && (heldUnits s b == 0 || resv + n ≤ free)

/-- The Berth of Span `i` that is served next: of those that hold no units the next in turn, else any. -/
def grantNext (s : State) (i : SpanNo) : Option BerthNo :=
  ((robin (s.span i).lastGrant).map fun k => berthOf (64 * i.val + k)).find? fun b => grantAble s b && heldUnits s b == 0

/-- CREDIT_GRANT (R310, R311). -/
def execCreditGrant (b : BerthNo) (s : State) : Host.Outcome State Fault Refusal :=
  let i := berthSpan b
  let turn := match grantNext s i with
    | some n => n == b
    | none => true
  if !landingRuns s || s.ashore || (s.span i).pilotFault || !grantAble s b || !turn then .next s
  else
    let n := grantWant s b
    let port := fld (s.hreg (bteOff b 0)) 23 22
    let first := heldUnits s b == 0
    let s := s.modBerth b fun x => { x with granted := x.granted + n * unitSize, grants := x.grants + BitVec.ofNat 32 n }
    let s := if first then s.modSpan i fun x => { x with lastGrant := b.val % 64 } else s
    let buf := zeros 16 ++ bytesOfNat 8 (s.berth b).granted ++ bytesOfNat 2 n
    let x : OutFrame := { beats := landFrame 5 port buf [], kind := 5, dest := b.val, job := none, span := i.val }
    .next (countSpan (queueFrame s false port x) i 4 6 (landAcc s b).who none 1)

/-! ### Slipway frames (R313 to R315, R409) -/

/-- The beats of a Slipway frame, port header beat included. -/
def slipBeatCount (frame : List Byte) : Nat := 1 + ceilDiv frame.length 64

/-- May a transport frame be received (R314)? -/
def slipReceivable (proto : Nat) (l : List Byte) : Bool :=
  let ty := fieldAt l 0 1
  if proto = 1 then [0x01, 0x05, 0x07].contains ty && l.length % 4 == 0 && 28 ≤ l.length && l.length ≤ 1048
  else (proto == 2 || proto == 3) && [0x34, 0x39, 0x41, 0x46, 0x5F, 0xA1].contains ty && l.length % 4 == 0 && 4 ≤ l.length
    && l.length ≤ 8196

/-- Is session `n` one that names a frame's place (R315)? -/
def sessionOk (s : State) (n port : Nat) : Bool :=
  let c := s.hreg (0x108000 + 0x20 * n)
  tb c 63 && fld c 41 40 != 0 && fld c 43 42 == port

/-- A Slipway frame is discarded (R314). -/
def discardSlip (s : State) (port : Nat) : State := raise s 1360 port

/-- A Slipway frame for a Berth with q = 0 is discarded as R308 and R307 say: logged and counted. The log entry names KIND, and its kind is
free, as for a Landing frame. -/
def discardSlipRing (s : State) (port n : Nat) (b : BerthNo) : State :=
  dropFrame (clampLog s.drawn 6 (1 + s.freeWord.toNat % 6) (fidFrame 7 4 port n) 1 0) b 1360 port

/-- The data bytes of a data frame (R315). -/
def slipPayload (proto : Nat) (l : List Byte) : Option (List Byte) :=
  if proto = 1 then if fieldAt l 0 1 = 0x01 then some (l.drop 24) else none
  else if fieldAt l 0 1 = 0x46 then some (l.drop 4) else none

/-- Files a Slipway frame as a record (R315): while the ring lacks room, the port holds READY low. -/
def fileSlip (s : State) (port n proto : Nat) (b : BerthNo) (l : List Byte) : Applied :=
  let rec' := bytesOfNat 4 l.length ++ [1, BitVec.ofNat 8 (0x80 + port)] ++ bytesOfNat 2 n ++ zeros 8
    ++ [BitVec.ofNat 8 proto] ++ zeros 47 ++ padTo (64 * ceilDiv l.length 64) l
  let x := s.berth b
  let size := ringSize s b
  let pad := if size < x.prod + rec'.length then size - x.prod else 0
  let s' := countBlock s 2 port (slipBeatCount l)
  if ringQ s b = 0 then .done (discardSlipRing s' port n b)
  else if size ≤ x.received - x.consumed + pad + rec'.length then .waits s
  else
    match fileRecord s' b rec' rec'.length with
    | (s, .wait) => .waits s
    | (s, .refused) => .done (dropFrame s b 1360 port)
    | (s, .ok) => .done (countSpan s (berthSpan b) 4 4 (landAcc s b).who none 1)

/-- Data for the window of session `n` (R315): it is written as a Pilot landing (R341), the window moves on, and the Berth is signalled when
the window is full. -/
def windowPut (s : State) (port n : Nat) (b : BerthNo) (frame data : List Byte) : Applied :=
  let o := 0x108000 + 0x20 * n
  let a := fld (s.hreg (o + 8)) 47 0
  let left := fld (s.hreg (o + 0x10)) 31 0
  let s' := countBlock s 2 port (slipBeatCount frame)
  match landWrites s' (landAcc s b) (if data.isEmpty then [] else [(a, data)]) with
  | (s, some .wait) => .waits s
  | (s, some _) => .done (dropFrame s b 1360 port)
  | (s, none) =>
    let s := (s.setHreg (o + 8) (at' (a + data.length) 47 0)).setHreg (o + 0x10) (at' (left - data.length) 31 0)
    .done (if left = data.length ∧ left ≠ 0 then signal s b else s)

/-- An inbound Slipway frame whose turn it is. -/
def slipNow (s : State) (port n proto : Nat) (l : List Byte) : Applied :=
  let b := sessBerth s n
  let gone := fun (s : State) => Applied.done (discardSlip (countBlock s 2 port (slipBeatCount l)) port)
  if s.ashore || (s.span (berthSpan b)).pilotFault || !slipReceivable proto l then gone s
  else if !sessionOk s n port then gone (clampLog s 6 3 (fidFrame 7 6 port n) (BitVec.ofNat 64 n) 0)
  else match slipPayload proto l with
    | none => fileSlip s port n proto b l
    | some d =>
      if fld (s.hreg (0x108010 + 0x20 * n)) 31 0 < d.length then fileSlip s port n proto b l
      else if !s.inStaging (fld (s.hreg (0x108008 + 0x20 * n)) 47 0) then
        fileSlip (clampLog s 5 3 (fidReg (0x108008 + 0x20 * n) 6)
          (BitVec.ofNat 64 (fld (s.hreg (0x108008 + 0x20 * n)) 47 6)) 0) port n proto b l
      else windowPut s port n b l d

/-- An inbound Slipway frame whose port header beat names protocol `proto`: while it cannot be filed, its port holds READY low (R19,
R315). -/
def slipIn (s : State) (port n proto : Nat) (l : List Byte) : State :=
  if !landingRuns s || flagAt s.ports.slipRst port then s
  else takeOrHold s (.slip port n proto l) fun s => slipNow s port n proto l

/-- A Slipway row: the frame is of type `ty`. -/
def slipRow (port : BitVec 2) (n : SessNo) (proto ty : Nat) (frame : List Byte) (s : State) : State :=
  if fieldAt frame 0 1 = ty then slipIn s port.toNat n.val proto frame else s

/-- Protocol code of an FIS (R314). -/
def fisProto (sata : Bool) : Nat := if sata then 3 else 2

/-- SSP_DATA_IN. -/
def execSspDataIn (port : BitVec 2) (sn : SessNo) (frame : List Byte) (s : State) : Host.Outcome State Fault Refusal :=
  .next (slipRow port sn 1 0x01 frame s)
/-- SSP_XFER_RDY_IN. -/
def execSspXferRdyIn (port : BitVec 2) (sn : SessNo) (frame : List Byte) (s : State) : Host.Outcome State Fault Refusal :=
  .next (slipRow port sn 1 0x05 frame s)
/-- SSP_RESPONSE_IN. -/
def execSspResponseIn (port : BitVec 2) (sn : SessNo) (frame : List Byte) (s : State) : Host.Outcome State Fault Refusal :=
  .next (slipRow port sn 1 0x07 frame s)
/-- FIS_REGISTER_D2H_IN. -/
def execFisRegisterD2hIn (port : BitVec 2) (sn : SessNo) (sata : Bool) (frame : List Byte) (s : State) :
    Host.Outcome State Fault Refusal := .next (slipRow port sn (fisProto sata) 0x34 frame s)
/-- FIS_DMA_ACTIVATE_IN. -/
def execFisDmaActivateIn (port : BitVec 2) (sn : SessNo) (sata : Bool) (frame : List Byte) (s : State) :
    Host.Outcome State Fault Refusal := .next (slipRow port sn (fisProto sata) 0x39 frame s)
/-- FIS_DMA_SETUP_IN. -/
def execFisDmaSetupIn (port : BitVec 2) (sn : SessNo) (sata : Bool) (frame : List Byte) (s : State) :
    Host.Outcome State Fault Refusal := .next (slipRow port sn (fisProto sata) 0x41 frame s)
/-- FIS_DATA_IN. -/
def execFisDataIn (port : BitVec 2) (sn : SessNo) (sata : Bool) (frame : List Byte) (s : State) :
    Host.Outcome State Fault Refusal := .next (slipRow port sn (fisProto sata) 0x46 frame s)
/-- FIS_PIO_SETUP_IN. -/
def execFisPioSetupIn (port : BitVec 2) (sn : SessNo) (sata : Bool) (frame : List Byte) (s : State) :
    Host.Outcome State Fault Refusal := .next (slipRow port sn (fisProto sata) 0x5F frame s)
/-- FIS_SET_DEVICE_BITS_IN. -/
def execFisSetDeviceBitsIn (port : BitVec 2) (sn : SessNo) (sata : Bool) (frame : List Byte) (s : State) :
    Host.Outcome State Fault Refusal := .next (slipRow port sn (fisProto sata) 0xA1 frame s)
/-- SLIPWAY_ABORTED_FRAME (R409). -/
def execSlipwayAbortedFrame (port : BitVec 2) (s : State) : Host.Outcome State Fault Refusal :=
  .next (if landingRuns s && !flagAt s.ports.slipRst port.toNat then discardSlip s port.toNat else s)
/-- SLIPWAY_FRAME_DISCARDED: a frame of a KIND that is not accepted (R409), or of KIND 0x1 that R314 does not let in or whose session is a
null reference. A frame of KIND 0x2 is the row SLIPWAY_ABORTED_FRAME. -/
def execSlipwayFrameDiscarded (port : BitVec 2) (kind : BitVec 4) (head : SlipHead) (frame : List Byte) (s : State) :
    Host.Outcome State Fault Refusal :=
  let p := port.toNat
  let n := head.session.val
  let proto := head.proto.toNat
  .next (if kind = 1 then
      if slipReceivable proto frame && sessionOk s n p then s else slipIn s p n proto frame
    else if kind = 2 then s
    else if landingRuns s && !flagAt s.ports.slipRst p then discardSlip (countBlock s 2 p (slipBeatCount frame)) p
    else s)

end Sys2Proof.Machine
end

