-- ==== Sys2Proof/Machine/SystemRows.lean ====
section
/-!
DEFINITION. The system instructions of major 0x00 but NOP (R183, R211, R212, R246, R250, R256, R354, R388).
-/
namespace Sys2Proof.Machine

/-- The decoding of a system word: `bad` tells a field that is not as its function needs it. -/
def sysS (o : LS) (fn : Nat) (bad priv : Bool) : Dec := { word := wordS o fn, major := 0, g := o.g, fieldBad := bad, priv := priv }

/-- FENCE (R183): an outstanding store holds it up. -/
def execFence (f : FerryNo) (o : LS) (s : State) : Host.Outcome State Fault Refusal :=
  row f (sysS o 0x01 (o.ra != 0 || o.pd != 0 || o.imm != 0) false)
    (fun _ s b => (s, if fenceOpen s b then .again else .next)) s

/-- TFENCE (R354): an access checked under an epoch older than the one current now holds it on its Ferry. -/
def execTfence (f : FerryNo) (o : LS) (s : State) : Host.Outcome State Fault Refusal :=
  row f (sysS o 0x02 (o.ra != 0 || o.pd != 0 || o.imm != 0) true)
    (fun _ s b =>
      let e := (s.span (berthSpan b)).epoch
      (s, if olderAccess s (berthSpan b) e then .hold (.fence e) else .next)) s

/-! ### Global operations (R29, R212, R394, R471) -/

/-- The members of a global group on this block (R471). -/
def groupMembers (s : State) (g : Nat) : List BerthNo :=
  (List.finRange 1024).filter fun b => tb (s.hreg (spanOff (berthSpan b) (0x100 + 8 * g))) (b.val % 64)

/-- The episode of group `g` that an arrival joins: the one under way, or a new one with the membership that stands now. -/
def episode (s : State) (g : Nat) : Barrier :=
  match Table.find s.barriers g with
  | some x => x
  | none => { members := groupMembers s g, twin := tb (s.hreg gopTwin) g, arrived := [] }

/-- Can a barrier that includes the twin's members be met (R394)? -/
def twinUp (s : State) : Bool := s.via.st == .paired && !s.via.hbLost

/-- The arrival of Berth `b` at the barrier of group `g`: a Berth that is no member goes on with 0; a barrier with the twin that cannot be met
releases with 0. -/
def barBody (g : Nat) (pd : BitVec 3) (s : State) (b : BerthNo) : State × After :=
  let x := episode s g
  let refuse := fun (s : State) => (s.modCtx b fun c => c.setP pd false, After.next)
  if !x.members.contains b then refuse s
  else if x.twin && !twinUp s then refuse (releaseBarrier s g false)
  else
    ({ s with barriers := Table.put s.barriers g { x with arrived := x.arrived.filter (· != b) ++ [b] } },
      .wait (.bar (BitVec.ofNat 4 g) pd none))

/-- BAR. -/
def execBar (f : FerryNo) (o : LS) (s : State) : Host.Outcome State Fault Refusal :=
  row f (sysS o 0x03 (o.ra != 0 || o.imm.extractLsb' 4 4 != 0) false) (fun _ => barBody (o.imm.toNat % 16) o.pd) s

/-- A broadcast reaches one member: BCVAL, INT_PEND.bcast and its signal bit (R212, R254). -/
def receive (v : W64) (s : State) (b : BerthNo) : State :=
  signal (s.modCtx b fun c => { c with bcval := v, intPend := c.intPend ||| 0x20 }) b

/-- The broadcast of `v` to group `g`. -/
def bcastBody (g : Nat) (v : W64) (s : State) (_ : BerthNo) : State × After :=
  (countBlock ((groupMembers s g).foldl (receive v) s) 7 1 1, .next)

/-- BCAST. -/
def execBcast (f : FerryNo) (o : LS) (s : State) : Host.Outcome State Fault Refusal :=
  row f (sysS o 0x04 (o.pd != 0 || o.imm.extractLsb' 4 4 != 0) false)
    (fun _ s b => bcastBody (o.imm.toNat % 16) ((s.ctx b).getG o.ra.toNat) s b) s

/-- A checkpoint request of Berth `b` (R388). -/
def ckptBody (pd : BitVec 3) (s : State) (b : BerthNo) : State × After :=
  if ckptGoes s b then (s, .wait (.ckpt pd 0 none)) else (s.modCtx b fun c => c.setP pd false, .next)

/-- CKPT (R212, R388). -/
def execCkpt (f : FerryNo) (o : LS) (s : State) : Host.Outcome State Fault Refusal :=
  row f (sysS o 0x05 (o.ra != 0 || o.imm != 0) false) (fun _ => ckptBody o.pd) s

/-! ### Waits on B-space (R212) -/

/-- WAIT. -/
def execWait (f : FerryNo) (o : LS) (s : State) : Host.Outcome State Fault Refusal :=
  row f (sysS o 0x06 (o.pd != 0 || o.imm != 0) false)
    (fun _ s b =>
      let a := addrS o (s.ctx b)
      (s, if s.bit (berthSpan b) (s.ctx b).north a then .next else .wait (.bit (BitVec.ofNat 18 a)))) s

/-- WAITT: ra even; the deadline stands in G(ra + 1). -/
def execWaitt (f : FerryNo) (o : LS) (s : State) : Host.Outcome State Fault Refusal :=
  row f (sysS o 0x07 (o.ra.toNat % 2 != 0 || o.imm != 0) false)
    (fun _ s b =>
      let c := s.ctx b
      let a := addrS o c
      let d := c.getG (o.ra.toNat + 1)
      let set := s.bit (berthSpan b) c.north a
      if set ∨ d.toNat ≤ s.time.count.toNat then (s.modCtx b fun c => c.setP o.pd set, .next)
      else (s, .wait (.bitT (BitVec.ofNat 18 a) d o.pd))) s

/-! ### Traps, gates and returns (R246, R250, R251) -/

/-- TRAP: n from 224 on is a gate, which requires supervisor level. -/
def execTrap (f : FerryNo) (o : LS) (s : State) : Host.Outcome State Fault Refusal :=
  row f (sysS o 0x08 (o.ra != 0 || o.pd != 0) (decide (224 ≤ o.imm.toNat)))
    (fun _ s b =>
      (s, if o.imm.toNat < 224 then .exc { cause := 0x30, info := o.imm.setWidth 64, info2 := 0 } ((s.ctx b).pc + 4)
          else .gate o.imm)) s

/-- RETX: at the gate frame address of the gate in progress it is the gate return; else the frame at G30 is checked and
restored. -/
def execRetx (f : FerryNo) (o : LS) (s : State) : Host.Outcome State Fault Refusal :=
  row f (sysS o 0x09 (o.ra != 0 || o.pd != 0 || o.imm != 0) true)
    (fun _ s b =>
      let c := s.ctx b
      let g30 := c.getG 30
      match (s.berth b).gate.filter fun g => c.gate && g.frame == g30 with
      | some g => (s, .gateBack g)
      | none =>
        let (s, r) := retxLoad s b f
        accessed s b r fun s l =>
          match frameBad (s.ctx b) b l with
          | some d => (s, .exc { cause := 0x10, info := g30, info2 := BitVec.ofNat 64 d } c.pc)
          | none => (s.modCtx b fun c => { c.returned l with wrote := c.key 30 :: c.wrote }, .done)) s

/-! ### Slack water and the end of a Berth (R212, R252, R256) -/

/-- SLACK: a limit of 0 closes the window at once, as does a lost timebase (R21). -/
def execSlack (f : FerryNo) (o : LS) (s : State) : Host.Outcome State Fault Refusal :=
  row f (sysS o 0x0A (o.ra != 0 || o.pd != 0 || o.imm != 0) true)
    (fun _ s b =>
      if (s.ctx b).slack then (s, .next)
      else
        let lim := (worldRegs s b).slackLim.toNat
        let s := s.modCtx b fun c => { c with slack := true, slackRem := lim }
        (if lim = 0 ∨ s.time.lost then slackExpire s b else s, .next)) s

/-- SLACKEND. -/
def execSlackend (f : FerryNo) (o : LS) (s : State) : Host.Outcome State Fault Refusal :=
  row f (sysS o 0x0B (o.ra != 0 || o.pd != 0 || o.imm != 0) true)
    (fun _ s b => (s.modCtx b fun c => { c with slack := false, slackRem := 0 }, .next)) s

/-- HALT: inside a gate it raises cause 0x0F. -/
def execHaltI (f : FerryNo) (o : LS) (s : State) : Host.Outcome State Fault Refusal :=
  row f (sysS o 0x0C (o.ra != 0 || o.pd != 0 || o.imm != 0) true)
    (fun _ s b =>
      match (s.berth b).gate with
      | some g => (s, .exc { cause := 0x0F, info := g.n.setWidth 64, info2 := 4 } (s.ctx b).pc)
      | none => (s, .halt)) s

end Sys2Proof.Machine
end

