-- ==== Sys2Proof/Machine/ViaRows.lean ====
section
/-!
DEFINITION. The frames that the Viaduct receives (R376 to R397). A row's frame is named by its type byte: a frame whose type
belongs to another row of the table is that row, and changes nothing here.
-/
namespace Sys2Proof.Machine

/-! ### What every frame passes -/

/-- Check 1 of R377: magic, zero fields, length and beat count. -/
def viaHeaderOk (h : ViaHeader) (body : List Byte) : Bool :=
  !h.damaged && h.hdr.length == 128 && fieldAt h.hdr 0 2 == 0x5644 && fieldAt h.hdr 3 1 < 2
    && fieldAt h.hdr 4 4 == body.length && body.length ≤ 8192 && fieldAt h.hdr 20 4 == 0
    && (h.hdr.drop 32).all (· == 0) && h.trailer.length == 128 && (h.trailer.drop 16).all (· == 0)

/-- The protected flag. -/
def viaProt (h : ViaHeader) : Bool := fieldAt h.hdr 3 1 == 1

/-- The type byte. -/
def viaType (h : ViaHeader) : Nat := fieldAt h.hdr 2 1

/-- Types that the table of R378 assigns. -/
def viaTypes : List Nat := [1, 2, 3, 4, 5, 0x10, 0x11, 0x12, 0x20, 0x21, 0x22, 0x23, 0x24, 0x25, 0x30, 0x31]

/-- Check 6 of R377: is type `t` assigned to frames that a block of this role receives? -/
def viaTypeOk (role : Role) (t : Nat) : Bool :=
  if role = .mirror then [1, 2, 4, 5, 0x10, 0x20, 0x21, 0x22, 0x23, 0x24, 0x25, 0x30].contains t
  else [1, 3, 4, 0x10, 0x11, 0x12, 0x30, 0x31].contains t

/-- The payload of a protected frame, when its tag verifies under the key of the direction. -/
def viaOpen (s : State) (h : ViaHeader) (body : List Byte) : Option (List Byte) :=
  gcmDec (linkKey s (viaRxSlot s)) (viaIv (fieldAt h.hdr 8 8)) (h.hdr.take 32) body (h.trailer.take 16)

/-- Does the header carry the pair id of this pairing? -/
def pairIdOk (s : State) (h : ViaHeader) : Bool := (h.hdr.drop 24).take 8 == padTo 8 (s.via.transcript.take 8)

/-- A frame fails a check of R377: `tag` tells checks 1, 2, 4 and 5 from checks 3 and 6. -/
def viaBad (s : State) (tag : Bool) : State :=
  let s := { s with via :=
    if tag then { s.via with tagfail := satAdd 16 s.via.tagfail 1 } else { s.via with seqerr := satAdd 16 s.via.seqerr 1 } }
  raise (viaBreak s (some 0x11)) 1351 0

/-- A frame that the block could not apply on the Mirror (R383). -/
def viaUnapplied (s : State) : State := viaBreak s (some 0x10)

/-- The Mirror acknowledges every frame applied (R383). -/
def viaAckSend (s : State) : State := viaSend s 0x11 true (bytesOfNat 8 (s.via.rxSeq - 1))

/-- A valid frame has arrived (R377, R393): heartbeat loss ends. -/
def viaValid (s : State) : State :=
  let lost := s.via.hbLost
  let s := { s with via := { s.via with rxSeq := s.via.rxSeq + 1, lastRx := s.time.ticks, hbLost := false } }
  if lost then raise s 1350 2 else s

/-- A Lead learns of a higher epoch: it is superseded (R396). -/
def viaSupersede (s : State) : State :=
  viaBreak (raise { s with via := { s.via with superseded := true } } 1352 2) none

/-! ### Frames from the Mirror -/

/-- ACK: every item it covers is complete (R383). -/
def ackIn (s : State) (l : List Byte) : State :=
  let n := fieldAt l 0 8
  let done := s.via.items.filter fun e => e.1 ≤ n
  let s := { s with via := { s.via with items := s.via.items.filter fun e => n < e.1 } }
  detachGo (ckptPump (done.foldl (fun s e => itemDone s e.2) s))

/-- NACK: the TWIN.SEND job of the refused batch fails (R385). A detaching Lead goes on once nothing is awaited (R397). -/
def nackIn (s : State) (l : List Byte) : State :=
  let q := fieldAt l 0 8
  let s := { s with via := { s.via with nacks := satAdd 16 s.via.nacks 1 } }
  let mine := fun (e : Nat × ViaItem) => match e.2 with
    | .batch _ _ first => first == q
    | _ => false
  match s.via.items.find? mine with
  | some (_, .batch b seq _) =>
    detachGo (ckptPump (completeAwaiting { s with via := { s.via with items := s.via.items.filter fun e => !mine e } } b seq
      (some 0x22) (some 5)))
  | _ => s

/-! ### Frames from the Lead -/

/-- Offset of channel `c`'s register `x`. -/
def twinOff (c x : Nat) : Nat := 0x303000 + c * 0x20 + x

/-- The Berth bound to a channel. -/
def twinBerth (s : State) (c : Nat) : BerthNo := berthOf (fld (s.hreg (twinOff c 0)) 9 0)

/-- The last byte of a batch has been written: the window advances, the Berth is signalled, and the Mirror acknowledges. -/
def batchEnd (s : State) (c n : Nat) : State :=
  let a := s.hreg (twinOff c 8)
  let w := s.hreg (twinOff c 0x10)
  let s := (s.setHreg (twinOff c 8) (at' ((a.toNat + n) / 64) 47 6)).setHreg (twinOff c 0x10) (at' (fld w 31 0 - n) 31 0)
  viaAckSend (signal { s with via := { s.via with batch := none } } (twinBerth s c))

/-- Writes bytes of the batch in progress at `done` bytes into its window. -/
def batchPut (s : State) (c left done : Nat) (l : List Byte) : Applied :=
  match viaWrite s (twinBerth s c) (fld (s.hreg (twinOff c 8)) 47 0 + done) l with
  | (s, .error .wait) => .waits s
  | (s, .error _) => .done (viaUnapplied s)
  | (s, .ok _) =>
    .done (if left = l.length then batchEnd s c (done + l.length)
      else { s with via := { s.via with batch := some (some c, left - l.length, done + l.length) } })

/-- BATCH (R384, R386): NACK with reason 1 or 2, or the record is written. A batch whose last frame never arrived is given up
for the new one, its window unadvanced. -/
def batchIn (s : State) (h : ViaHeader) (l : List Byte) : Applied :=
  let c := fieldAt l 4 2
  let n := 128 + 4096 * fieldAt l 8 4
  if l.length ≠ 128 ∨ fieldAt l 0 4 ≠ 0x42545754 ∨ 63 < c then .done (viaUnapplied s)
  else
    let a := fld (s.hreg (twinOff c 8)) 47 0
    let nack := fun (s : State) (r : Nat) =>
      let s := { s with via := { s.via with
        nacks := satAdd 16 s.via.nacks 1
        batch := if n = 128 then none else some (none, n - 128, 0) } }
      Applied.done (viaSend s 0x12 true (bytesOfNat 8 (s.via.rxSeq - 1) ++ [BitVec.ofNat 8 r]))
    if !tb (s.hreg (twinOff c 0)) 63 then nack s 1
    else if !s.inStaging a then
      nack (clampLog s 4 3 (fidReg (twinOff c 8) 6) (BitVec.ofNat 64 (a / 64)) 0) 1
    else if fld (s.hreg (twinOff c 0x10)) 31 0 < n then nack s 2
    else batchPut s c n 0 (overlay l 64 (bytesOfNat 8 (s.via.rxSeq - 1) ++ (h.hdr.drop 16).take 4))

/-- CELLS (R386): one or two cells of the batch in progress. -/
def cellsIn (s : State) (l : List Byte) : Applied :=
  match s.via.batch with
  | some (ch, left, done) =>
    if (l.length = 4096 ∨ l.length = 8192) ∧ l.length ≤ left then
      match ch with
      | none => .done { s with via := { s.via with batch := if left = l.length then none else some (none, left - l.length, 0) } }
      | some c => batchPut s c left done l
    else .done (viaUnapplied s)
  | none => .done (viaUnapplied s)

/-- A complete checkpoint is applied (R389): the window bytes, then the context with its identity, its working state and its custody
mark (R492). -/
def ckptApply (s : State) (b : BerthNo) (l : List Byte) : Applied :=
  let (a, n) := ckptWindow s b
  let x := s.berth b
  if l.length ≠ 1024 + n ∨ !(x.st == .idle || x.st == .parked) then .done (viaUnapplied s)
  else match viaWrite s b a (l.drop 1024) with
    | (s, .error .wait) => .waits s
    | (s, .error _) => .done (viaUnapplied s)
    | (s, .ok _) =>
      let st := BitVec.ofNat 64 (fieldAt l 272 8)
      let c := (s.ctx b).imaged b 4 (l.take 1024)
      .done (viaAckSend (s.modBerth b fun x => { x with ctx := { c with north := tb st 31, home := tb st 30, gate := tb st 29 } }))

/-- CKPT: a part of a checkpoint (R378, R389). -/
def ckptIn (s : State) (l : List Byte) : Applied :=
  let b := fieldAt l 0 2
  let part := fieldAt l 2 2
  let parts := fieldAt l 4 2
  let so := match s.via.ckpt with
    | some (b', next, n, got) => if b' = b ∧ next = part ∧ n = parts then some got else none
    | none => if part = 0 then some [] else none
  match so with
  | none => .done (viaUnapplied s)
  | some got =>
    let got := got ++ l.drop 16
    if l.length < 16 ∨ 1023 < b ∨ parts ≤ part ∨ 66560 < got.length ∨ !((l.drop 6).take 10).all (· == 0) then .done (viaUnapplied s)
    else if part + 1 = parts then ckptApply { s with via := { s.via with ckpt := none } } (berthOf b) got
    else .done { s with via := { s.via with ckpt := some (b, part + 1, parts, got) } }

/-- KEYLOAD (R390): the key is loaded into the same slot, which must be empty. None where it cannot be applied. -/
def keyloadIn (s : State) (l : List Byte) : Option State :=
  let n := fieldAt l 0 2
  let kind := fieldAt l 2 1
  let id := fieldAt l 8 8
  match kwUnwrap (s.keyOf 6) (l.drop 16) with
  | some p =>
    if l.length = 80 ∧ 8 ≤ n ∧ n < 4096 ∧ (kind = 2 ∨ kind = 3) ∧ (s.slot n).st = .empty ∧ natOfBytes (p.take 8) = id
        ∧ fieldAt l 3 5 = 0 then
      some (loadSlot s n kind (BitVec.ofNat 64 id) ((p.drop 8).take 32) true)
    else none
  | none => none

/-- KEYERASE (R390). -/
def keyeraseIn (s : State) (l : List Byte) : Option State :=
  let n := fieldAt l 0 2
  if l.length = 2 ∧ 8 ≤ n ∧ n < 4096 then some (eraseSlot s n) else none

/-- The firmware that wrote a mirrored register of the Lead, as the rules of its fields see it (R392): its Span is that of the register or
of the Berth that a session is bound to, and its world that of a Tollgate page. The frame does not tell the world of another write:
it is free (log entry 95). No firmware writes a register of the Viaduct. -/
def mirrorSrc (s : State) (o : Nat) : Option (State × WSrc) :=
  let free := fun (i : SpanNo) => some (s.drawn, WSrc.viaduct (some (s.freeBit, i)))
  if 0x200000 ≤ o ∧ o < 0x210000 then some (s, .viaduct (some (decide (0x800 ≤ o % 0x1000), spanOf ((o - 0x200000) / 0x1000))))
  else if 0x108000 ≤ o ∧ o < 0x110000 then free (berthSpan (sessBerth s ((o - 0x108000) / 0x20)))
  else if 0x100000 ≤ o ∧ o < 0x108000 then free (berthSpan (berthOf ((o - 0x100000) / 0x20)))
  else if 0x010000 ≤ o ∧ o < 0x020000 then free (spanOf ((o - 0x010000) / 0x1000))
  else none

/-- CONFIG (R378, R392). -/
def configIn (s : State) (l : List Byte) : Option State :=
  let o := fieldAt l 0 4
  if l.length = 16 ∧ mirroredReg o ∧ regExists o ∧ fieldAt l 4 1 < 2 ∧ fieldAt l 5 3 = 0 then
    (if fieldAt l 4 1 = 0 then some (s, .viaduct none) else mirrorSrc s o).map fun r =>
      (regWrite r.1 r.2 o (BitVec.ofNat 64 (fieldAt l 8 8)) 0xFF).1
  else none

/-- A key or configuration frame of type `t` is applied, where it can be. -/
def mirrorIn (s : State) (t : Nat) (l : List Byte) : Option State :=
  if t = 0x23 then keyloadIn s l else if t = 0x24 then keyeraseIn s l else configIn s l

/-- A key or configuration frame: part of the initial sync, which is kept until its end, or applied at once and, for a key, acknowledged
(R380, R383). -/
def mirrorFrame (s : State) (t : Nat) (l : List Byte) : State :=
  if s.via.role == .mirror && s.via.st == .syncing then { s with via := { s.via with sync := s.via.sync ++ [(t, l)] } }
  else match mirrorIn s t l with
    | none => viaUnapplied s
    | some s => if t = 0x25 then s else viaAckSend s

/-- The state with the initial sync applied, where every frame of it can be. -/
def syncApplied (s : State) : Option State :=
  s.via.sync.foldl (fun r e => r.bind fun s => mirrorIn s e.1 e.2) (some { s with via := { s.via with sync := [] } })

/-- SYNC_END (R380 step 8): every Berth that the sync marks in VIA_MB has to be idle; only then is the sync applied. -/
def syncEndIn (s : State) : State :=
  if s.via.st ≠ .syncing then s
  else match syncApplied s with
    | none => viaUnapplied s
    | some t =>
      if (List.finRange 1024).all fun b => !viaMarked t b || (t.berth b).st == .idle then
        viaAckSend { t with via := { t.via with st := .paired } }
      else pairFail s 0x10

/-- DETACH (R397). -/
def detachIn (s : State) : State :=
  if s.via.role = .mirror then unpair (viaSend s 0x30 true []) .mirror
  else if s.via.st = .detaching then unpair s .lead
  else unpair (viaSend s 0x30 true []) .lead

/-! ### Reception -/

/-- What a valid frame of type `t` does. -/
def viaApply (s : State) (t : Nat) (h : ViaHeader) (l : List Byte) : Applied :=
  let e := fieldAt h.hdr 16 4
  let e := if t = 0x31 then max e (fieldAt l 0 4) else e
  if s.via.role == .lead && decide (s.via.epoch.toNat < e) then .done (viaSupersede s)
  else match t with
    | 0x05 => .done (syncEndIn s)
    | 0x11 => .done (ackIn s l)
    | 0x12 => .done (nackIn s l)
    | 0x20 => batchIn s h l
    | 0x21 => cellsIn s l
    | 0x22 => ckptIn s l
    | 0x23 => .done (mirrorFrame s 0x23 l)
    | 0x24 => .done (mirrorFrame s 0x24 l)
    | 0x25 => .done (mirrorFrame s 0x25 l)
    | 0x30 => .done (detachIn s)
    | _ => .done s

/-- A frame in Syncing, Paired or Detaching: the checks of R377 in their order. -/
def viaChecked (s : State) (h : ViaHeader) (body : List Byte) : Applied :=
  if !viaHeaderOk h body then .done (viaBad s true)
  else if !viaProt h then .done (viaBad s true)
  else if fieldAt h.hdr 8 8 ≠ s.via.rxSeq then .done (viaBad s false)
  else match viaOpen s h body with
    | none => .done (viaBad s true)
    | some l =>
      if !pairIdOk s h then .done (viaBad s true)
      else if !viaTypeOk s.via.role (viaType h) then .done (viaBad s false)
      else viaApply (viaValid s) (viaType h) h l

/-- CONFIRM while pairing (R380 step 6, R381). -/
def viaConfirming (s : State) (h : ViaHeader) (body : List Byte) : State :=
  let bad := pairFail s 0x0A
  if s.via.linkKeys.isEmpty || !viaProt h || fieldAt h.hdr 8 8 != 0 || !pairIdOk s h then bad
  else match viaOpen s h body with
    | none => bad
    | some l =>
      if confirmOk s l then confirmIn { s with via := { s.via with rxSeq := 1, lastRx := s.time.ticks } } else bad

/-- A frame while pairing (R380): the one that the pairing waits for, or nothing. -/
def viaPairing (s : State) (h : ViaHeader) (body : List Byte) : State :=
  let v := s.via
  if !viaHeaderOk h body then s
  else match viaType h with
    | 1 => if v.helloPeer.isEmpty && !viaProt h then helloIn s body else s
    | 2 => if v.role == .mirror && !v.helloPeer.isEmpty && v.kex1.isEmpty && !viaProt h then kex1In s body else s
    | 3 => if v.role == .lead && !v.kex1.isEmpty && v.kex2.isEmpty && !viaProt h then kex2In s body else s
    | 4 => viaConfirming s h body
    | _ => s

/-- A frame that a block in Unpaired or Broken discards (R396). -/
def viaDiscard (s : State) (h : ViaHeader) : State :=
  if !h.damaged && decide (fieldAt h.hdr 16 4 < s.via.epoch.toNat) then
    raise { s with via := { s.via with nRefused := satAdd 16 s.via.nRefused 1 } } 1352 1
  else s

/-- A frame whose turn it is, by the state of the pairing. A frame of the pairing waits for the engines of the public-key unit (R381). -/
def viaFrame (s : State) (h : ViaHeader) (body : List Byte) : Applied :=
  match s.via.st with
  | .unpaired => .done (viaDiscard s h)
  | .broken => .done (viaDiscard s h)
  | .pairing => if pkBusy s then .waits (pairJoin s) else .done (viaPairing (pairLeave s) h body)
  | _ => viaChecked s h body

/-- A frame arrives on the link, of the type of the row or of no assigned type. Frames are applied in order (R377): behind one that waits
it waits too. -/
def viaReceive (ty : Nat) (h : ViaHeader) (body : List Byte) (s : State) : State :=
  if !s.portsUp || !viaLive s || (viaType h != ty && viaTypes.contains (viaType h)) then s
  else
    let s := countBlock (countBlock s 5 1 (viaBeats body.length)) 5 3 1
    takeOrHold s (.via h body) fun s => viaFrame s h body

/-- VIA_HELLO (R380). -/
def execViaHello (h : ViaHeader) (body : List Byte) (s : State) : Host.Outcome State Fault Refusal := .next (viaReceive 0x01 h body s)
/-- VIA_KEX1 (R380). -/
def execViaKex1 (h : ViaHeader) (body : List Byte) (s : State) : Host.Outcome State Fault Refusal := .next (viaReceive 0x02 h body s)
/-- VIA_KEX2 (R380). -/
def execViaKex2 (h : ViaHeader) (body : List Byte) (s : State) : Host.Outcome State Fault Refusal := .next (viaReceive 0x03 h body s)
/-- VIA_CONFIRM (R381). -/
def execViaConfirm (h : ViaHeader) (body : List Byte) (s : State) : Host.Outcome State Fault Refusal := .next (viaReceive 0x04 h body s)
/-- VIA_SYNC_END (R380). -/
def execViaSyncEnd (h : ViaHeader) (body : List Byte) (s : State) : Host.Outcome State Fault Refusal := .next (viaReceive 0x05 h body s)
/-- VIA_HEARTBEAT (R393). -/
def execViaHeartbeat (h : ViaHeader) (body : List Byte) (s : State) : Host.Outcome State Fault Refusal := .next (viaReceive 0x10 h body s)
/-- VIA_ACK (R383). -/
def execViaAck (h : ViaHeader) (body : List Byte) (s : State) : Host.Outcome State Fault Refusal := .next (viaReceive 0x11 h body s)
/-- VIA_NACK (R385). -/
def execViaNack (h : ViaHeader) (body : List Byte) (s : State) : Host.Outcome State Fault Refusal := .next (viaReceive 0x12 h body s)
/-- VIA_BATCH (R386). -/
def execViaBatch (h : ViaHeader) (body : List Byte) (s : State) : Host.Outcome State Fault Refusal := .next (viaReceive 0x20 h body s)
/-- VIA_CELLS (R386). -/
def execViaCells (h : ViaHeader) (body : List Byte) (s : State) : Host.Outcome State Fault Refusal := .next (viaReceive 0x21 h body s)
/-- VIA_CKPT (R389). -/
def execViaCkpt (h : ViaHeader) (body : List Byte) (s : State) : Host.Outcome State Fault Refusal := .next (viaReceive 0x22 h body s)
/-- VIA_KEYLOAD (R390). -/
def execViaKeyload (h : ViaHeader) (body : List Byte) (s : State) : Host.Outcome State Fault Refusal := .next (viaReceive 0x23 h body s)
/-- VIA_KEYERASE (R390). -/
def execViaKeyerase (h : ViaHeader) (body : List Byte) (s : State) : Host.Outcome State Fault Refusal := .next (viaReceive 0x24 h body s)
/-- VIA_CONFIG (R392). -/
def execViaConfig (h : ViaHeader) (body : List Byte) (s : State) : Host.Outcome State Fault Refusal := .next (viaReceive 0x25 h body s)
/-- VIA_DETACH (R397). -/
def execViaDetach (h : ViaHeader) (body : List Byte) (s : State) : Host.Outcome State Fault Refusal := .next (viaReceive 0x30 h body s)
/-- VIA_PROMOTED (R396). -/
def execViaPromoted (h : ViaHeader) (body : List Byte) (s : State) : Host.Outcome State Fault Refusal := .next (viaReceive 0x31 h body s)

end Sys2Proof.Machine
end

