-- ==== Sys2Proof/Machine/Dispatch.lean ====
section
/-!
DEFINITION. One arm for each command of the table: the call of its meaning.
-/
namespace Sys2Proof.Machine

def exec (i : Instr) (s : State) : Host.Outcome State Fault Refusal :=
  match i with
  | .nop f w => Sys2Proof.Machine.execNop f w s
  | .fence f o => Sys2Proof.Machine.execFence f o s
  | .tfence f o => Sys2Proof.Machine.execTfence f o s
  | .bar f o => Sys2Proof.Machine.execBar f o s
  | .bcast f o => Sys2Proof.Machine.execBcast f o s
  | .ckpt f o => Sys2Proof.Machine.execCkpt f o s
  | .wait f o => Sys2Proof.Machine.execWait f o s
  | .waitt f o => Sys2Proof.Machine.execWaitt f o s
  | .trap f o => Sys2Proof.Machine.execTrap f o s
  | .retx f o => Sys2Proof.Machine.execRetx f o s
  | .slack f o => Sys2Proof.Machine.execSlack f o s
  | .slackend f o => Sys2Proof.Machine.execSlackend f o s
  | .haltI f o => Sys2Proof.Machine.execHaltI f o s
  | .add f o => Sys2Proof.Machine.execAdd f o s
  | .sub f o => Sys2Proof.Machine.execSub f o s
  | .neg f o => Sys2Proof.Machine.execNeg f o s
  | .adc f o => Sys2Proof.Machine.execAdc f o s
  | .sbc f o => Sys2Proof.Machine.execSbc f o s
  | .andR f o => Sys2Proof.Machine.execAndR f o s
  | .orR f o => Sys2Proof.Machine.execOrR f o s
  | .xorR f o => Sys2Proof.Machine.execXorR f o s
  | .andn f o => Sys2Proof.Machine.execAndn f o s
  | .nor f o => Sys2Proof.Machine.execNor f o s
  | .shl f o => Sys2Proof.Machine.execShl f o s
  | .shr f o => Sys2Proof.Machine.execShr f o s
  | .sar f o => Sys2Proof.Machine.execSar f o s
  | .ror f o => Sys2Proof.Machine.execRor f o s
  | .mul f o => Sys2Proof.Machine.execMul f o s
  | .mulh f o => Sys2Proof.Machine.execMulh f o s
  | .mulhu f o => Sys2Proof.Machine.execMulhu f o s
  | .div f o => Sys2Proof.Machine.execDiv f o s
  | .divu f o => Sys2Proof.Machine.execDivu f o s
  | .rem f o => Sys2Proof.Machine.execRem f o s
  | .remu f o => Sys2Proof.Machine.execRemu f o s
  | .min f o => Sys2Proof.Machine.execMin f o s
  | .max f o => Sys2Proof.Machine.execMax f o s
  | .minu f o => Sys2Proof.Machine.execMinu f o s
  | .maxu f o => Sys2Proof.Machine.execMaxu f o s
  | .clz f o => Sys2Proof.Machine.execClz f o s
  | .popc f o => Sys2Proof.Machine.execPopc f o s
  | .bswap f o => Sys2Proof.Machine.execBswap f o s
  | .addi f o => Sys2Proof.Machine.execAddi f o s
  | .andi f o => Sys2Proof.Machine.execAndi f o s
  | .ori f o => Sys2Proof.Machine.execOri f o s
  | .shli f o => Sys2Proof.Machine.execShli f o s
  | .shri f o => Sys2Proof.Machine.execShri f o s
  | .sari f o => Sys2Proof.Machine.execSari f o s
  | .rori f o => Sys2Proof.Machine.execRori f o s
  | .movl f o => Sys2Proof.Machine.execMovl f o s
  | .movh f o => Sys2Proof.Machine.execMovh f o s
  | .cmp f o => Sys2Proof.Machine.execCmp f o s
  | .cmpi f o => Sys2Proof.Machine.execCmpi f o s
  | .pand f o => Sys2Proof.Machine.execPand f o s
  | .por f o => Sys2Proof.Machine.execPor f o s
  | .pxor f o => Sys2Proof.Machine.execPxor f o s
  | .pmov f o => Sys2Proof.Machine.execPmov f o s
  | .ldB f o => Sys2Proof.Machine.execLdB f o s
  | .ldH f o => Sys2Proof.Machine.execLdH f o s
  | .ldW f o => Sys2Proof.Machine.execLdW f o s
  | .ldD f o => Sys2Proof.Machine.execLdD f o s
  | .ldBs f o => Sys2Proof.Machine.execLdBs f o s
  | .ldHs f o => Sys2Proof.Machine.execLdHs f o s
  | .ldWs f o => Sys2Proof.Machine.execLdWs f o s
  | .stB f o => Sys2Proof.Machine.execStB f o s
  | .stH f o => Sys2Proof.Machine.execStH f o s
  | .stW f o => Sys2Proof.Machine.execStW f o s
  | .stD f o => Sys2Proof.Machine.execStD f o s
  | .stDu f o => Sys2Proof.Machine.execStDu f o s
  | .ldw16 f o => Sys2Proof.Machine.execLdw16 f o s
  | .ldw32 f o => Sys2Proof.Machine.execLdw32 f o s
  | .ldw64 f o => Sys2Proof.Machine.execLdw64 f o s
  | .stw16 f o => Sys2Proof.Machine.execStw16 f o s
  | .stw32 f o => Sys2Proof.Machine.execStw32 f o s
  | .stw64 f o => Sys2Proof.Machine.execStw64 f o s
  | .lock f o => Sys2Proof.Machine.execLock f o s
  | .swap f o => Sys2Proof.Machine.execSwap f o s
  | .cas f o => Sys2Proof.Machine.execCas f o s
  | .movb f o => Sys2Proof.Machine.execMovb f o s
  | .fill f o => Sys2Proof.Machine.execFill f o s
  | .crc64 f o => Sys2Proof.Machine.execCrc64 f o s
  | .bset f o => Sys2Proof.Machine.execBset f o s
  | .bclr f o => Sys2Proof.Machine.execBclr f o s
  | .binv f o => Sys2Proof.Machine.execBinv f o s
  | .btst f o => Sys2Proof.Machine.execBtst f o s
  | .bmov f o => Sys2Proof.Machine.execBmov f o s
  | .btas f o => Sys2Proof.Machine.execBtas f o s
  | .bscan f o => Sys2Proof.Machine.execBscan f o s
  | .br f o => Sys2Proof.Machine.execBr f o s
  | .call f o => Sys2Proof.Machine.execCall f o s
  | .jr f o => Sys2Proof.Machine.execJr f o s
  | .ret f o => Sys2Proof.Machine.execRet f o s
  | .callr f o => Sys2Proof.Machine.execCallr f o s
  | .loop f o => Sys2Proof.Machine.execLoop f o s
  | .mtsb f o => Sys2Proof.Machine.execMtsb f o s
  | .mtsa f o => Sys2Proof.Machine.execMtsa f o s
  | .mfsb f o => Sys2Proof.Machine.execMfsb f o s
  | .mfsa f o => Sys2Proof.Machine.execMfsa f o s
  | .mfsr f o => Sys2Proof.Machine.execMfsr f o s
  | .mtsr f o => Sys2Proof.Machine.execMtsr f o s
  | .intSoft f o => Sys2Proof.Machine.execIntSoft f o s
  | .wdogKick f o => Sys2Proof.Machine.execWdogKick f o s
  | .bwdogKick f o => Sys2Proof.Machine.execBwdogKick f o s
  | .ferryCtl f o => Sys2Proof.Machine.execFerryCtl f o s
  | .truss f o => Sys2Proof.Machine.execTruss f o s
  | .trussW f o => Sys2Proof.Machine.execTrussW f o s
  | .sealU f o => Sys2Proof.Machine.execSealU f o s
  | .sealUW f o => Sys2Proof.Machine.execSealUW f o s
  | .cmpr f o => Sys2Proof.Machine.execCmpr f o s
  | .cmprW f o => Sys2Proof.Machine.execCmprW f o s
  | .hash f o => Sys2Proof.Machine.execHash f o s
  | .hashW f o => Sys2Proof.Machine.execHashW f o s
  | .xfer f o => Sys2Proof.Machine.execXfer f o s
  | .xferW f o => Sys2Proof.Machine.execXferW f o s
  | .keyInfo f o => Sys2Proof.Machine.execKeyInfo f o s
  | .keyImport f o => Sys2Proof.Machine.execKeyImport f o s
  | .keyExport f o => Sys2Proof.Machine.execKeyExport f o s
  | .keyGen f o => Sys2Proof.Machine.execKeyGen f o s
  | .keyErase f o => Sys2Proof.Machine.execKeyErase f o s
  | .keyIssue f o => Sys2Proof.Machine.execKeyIssue f o s
  | .keyRevoke f o => Sys2Proof.Machine.execKeyRevoke f o s
  | .keyQuery f o => Sys2Proof.Machine.execKeyQuery f o s
  | .pkPubkey f o => Sys2Proof.Machine.execPkPubkey f o s
  | .pkReceipt f o => Sys2Proof.Machine.execPkReceipt f o s
  | .pkShred f o => Sys2Proof.Machine.execPkShred f o s
  | .pkVerifyMldsa f o => Sys2Proof.Machine.execPkVerifyMldsa f o s
  | .pkVerifyEcdsa f o => Sys2Proof.Machine.execPkVerifyEcdsa f o s
  | .pkKemGen f o => Sys2Proof.Machine.execPkKemGen f o s
  | .pkKemEnc f o => Sys2Proof.Machine.execPkKemEnc f o s
  | .pkKemDec f o => Sys2Proof.Machine.execPkKemDec f o s
  | .pkEcdh f o => Sys2Proof.Machine.execPkEcdh f o s
  | .keyPkComplete b => Sys2Proof.Machine.execKeyPkComplete b s
  | .rnd f o => Sys2Proof.Machine.execRnd f o s
  | .yield f o => Sys2Proof.Machine.execYield f o s
  | .signal f o => Sys2Proof.Machine.execSignal f o s
  | .post f o room => Sys2Proof.Machine.execPost f o room s
  | .crd f o => Sys2Proof.Machine.execCrd f o s
  | .cwr f o => Sys2Proof.Machine.execCwr f o s
  | .cfgr f o => Sys2Proof.Machine.execCfgr f o s
  | .cfgw f o => Sys2Proof.Machine.execCfgw f o s
  | .freeze f o => Sys2Proof.Machine.execFreeze f o s
  | .thaw f o => Sys2Proof.Machine.execThaw f o s
  | .interruptTaken f => Sys2Proof.Machine.execInterruptTaken f s
  | .slackLimitExpiry b => Sys2Proof.Machine.execSlackLimitExpiry b s
  | .berthWatchdogExpiry b => Sys2Proof.Machine.execBerthWatchdogExpiry b s
  | .gateLimit b => Sys2Proof.Machine.execGateLimit b s
  | .timerCmpReached b => Sys2Proof.Machine.execTimerCmpReached b s
  | .waittDeadline b => Sys2Proof.Machine.execWaittDeadline b s
  | .berthWake b => Sys2Proof.Machine.execBerthWake b s
  | .barrierRelease g peer => Sys2Proof.Machine.execBarrierRelease g peer s
  | .berthDispatch sp => Sys2Proof.Machine.execBerthDispatch sp s
  | .quantumExpiry f => Sys2Proof.Machine.execQuantumExpiry f s
  | .berthSwitchOut f => Sys2Proof.Machine.execBerthSwitchOut f s
  | .ferryHalted f => Sys2Proof.Machine.execFerryHalted f s
  | .refloatComplete f bad exc => Sys2Proof.Machine.execRefloatComplete f bad exc s
  | .trussNop b => Sys2Proof.Machine.execTrussNop b s
  | .geoReg b => Sys2Proof.Machine.execGeoReg b s
  | .geoDel b => Sys2Proof.Machine.execGeoDel b s
  | .geoRead b => Sys2Proof.Machine.execGeoRead b s
  | .encFull b => Sys2Proof.Machine.execEncFull b s
  | .encGroup b => Sys2Proof.Machine.execEncGroup b s
  | .repLocal b => Sys2Proof.Machine.execRepLocal b s
  | .repGlobal b => Sys2Proof.Machine.execRepGlobal b s
  | .repTest b => Sys2Proof.Machine.execRepTest b s
  | .xcode b => Sys2Proof.Machine.execXcode b s
  | .scrubPar b => Sys2Proof.Machine.execScrubPar b s
  | .scrubGroup b => Sys2Proof.Machine.execScrubGroup b s
  | .cofferAcc b => Sys2Proof.Machine.execCofferAcc b s
  | .cofferFold b => Sys2Proof.Machine.execCofferFold b s
  | .cofferRelease b => Sys2Proof.Machine.execCofferRelease b s
  | .cofferSnap b => Sys2Proof.Machine.execCofferSnap b s
  | .cofferLoad b => Sys2Proof.Machine.execCofferLoad b s
  | .unitJobChange sp e => Sys2Proof.Machine.execUnitJobChange sp e s
  | .sealNop b => Sys2Proof.Machine.execSealNop b s
  | .sealOp b => Sys2Proof.Machine.execSealOp b s
  | .openCells b => Sys2Proof.Machine.execOpenCells b s
  | .rekey b => Sys2Proof.Machine.execRekey b s
  | .tagData b => Sys2Proof.Machine.execTagData b s
  | .tagParity b => Sys2Proof.Machine.execTagParity b s
  | .checkData b => Sys2Proof.Machine.execCheckData b s
  | .checkParity b => Sys2Proof.Machine.execCheckParity b s
  | .tagSnap b => Sys2Proof.Machine.execTagSnap b s
  | .checkSnap b => Sys2Proof.Machine.execCheckSnap b s
  | .cmprNop b => Sys2Proof.Machine.execCmprNop b s
  | .zstdComp b => Sys2Proof.Machine.execZstdComp b s
  | .zstdDecomp b => Sys2Proof.Machine.execZstdDecomp b s
  | .zstdProbe b => Sys2Proof.Machine.execZstdProbe b s
  | .deflateDecomp b => Sys2Proof.Machine.execDeflateDecomp b s
  | .hashNop b => Sys2Proof.Machine.execHashNop b s
  | .sha3256 b => Sys2Proof.Machine.execSha3256 b s
  | .sha3512 b => Sys2Proof.Machine.execSha3512 b s
  | .shake128 b => Sys2Proof.Machine.execShake128 b s
  | .shake256 b => Sys2Proof.Machine.execShake256 b s
  | .kmac256 b => Sys2Proof.Machine.execKmac256 b s
  | .sha256 b => Sys2Proof.Machine.execSha256 b s
  | .tenderNop b => Sys2Proof.Machine.execTenderNop b s
  | .copy b => Sys2Proof.Machine.execCopy b s
  | .spanCopy b => Sys2Proof.Machine.execSpanCopy b s
  | .landSend b => Sys2Proof.Machine.execLandSend b s
  | .slipFrame b => Sys2Proof.Machine.execSlipFrame b s
  | .slipData b => Sys2Proof.Machine.execSlipData b s
  | .twinSend b => Sys2Proof.Machine.execTwinSend b s
  | .accessRetry m meet => Sys2Proof.Machine.execAccessRetry m meet s
  | .stagingReadBeat port rerr answers => Sys2Proof.Machine.execStagingReadBeat port rerr answers s
  | .pontoonTestRow sp res => Sys2Proof.Machine.execPontoonTestRow sp res s
  | .cstoreTestRow e copy res => Sys2Proof.Machine.execCstoreTestRow e copy res s
  | .landingCommandFrame port b beats => Sys2Proof.Machine.execLandingCommandFrame port b beats s
  | .landingDataFrame port b beats => Sys2Proof.Machine.execLandingDataFrame port b beats s
  | .landingFrameDiscarded port b kind beats => Sys2Proof.Machine.execLandingFrameDiscarded port b kind beats s
  | .loaderDmaFrame port b kind beats => Sys2Proof.Machine.execLoaderDmaFrame port b kind beats s
  | .creditGrant b => Sys2Proof.Machine.execCreditGrant b s
  | .sspDataIn port sn frame => Sys2Proof.Machine.execSspDataIn port sn frame s
  | .sspXferRdyIn port sn frame => Sys2Proof.Machine.execSspXferRdyIn port sn frame s
  | .sspResponseIn port sn frame => Sys2Proof.Machine.execSspResponseIn port sn frame s
  | .fisRegisterD2hIn port sn sata frame => Sys2Proof.Machine.execFisRegisterD2hIn port sn sata frame s
  | .fisDmaActivateIn port sn sata frame => Sys2Proof.Machine.execFisDmaActivateIn port sn sata frame s
  | .fisDmaSetupIn port sn sata frame => Sys2Proof.Machine.execFisDmaSetupIn port sn sata frame s
  | .fisDataIn port sn sata frame => Sys2Proof.Machine.execFisDataIn port sn sata frame s
  | .fisPioSetupIn port sn sata frame => Sys2Proof.Machine.execFisPioSetupIn port sn sata frame s
  | .fisSetDeviceBitsIn port sn sata frame => Sys2Proof.Machine.execFisSetDeviceBitsIn port sn sata frame s
  | .slipwayAbortedFrame port => Sys2Proof.Machine.execSlipwayAbortedFrame port s
  | .slipwayFrameDiscarded port kind head frame => Sys2Proof.Machine.execSlipwayFrameDiscarded port kind head frame s
  | .viaHello h body => Sys2Proof.Machine.execViaHello h body s
  | .viaKex1 h body => Sys2Proof.Machine.execViaKex1 h body s
  | .viaKex2 h body => Sys2Proof.Machine.execViaKex2 h body s
  | .viaConfirm h body => Sys2Proof.Machine.execViaConfirm h body s
  | .viaSyncEnd h body => Sys2Proof.Machine.execViaSyncEnd h body s
  | .viaHeartbeat h body => Sys2Proof.Machine.execViaHeartbeat h body s
  | .viaAck h body => Sys2Proof.Machine.execViaAck h body s
  | .viaNack h body => Sys2Proof.Machine.execViaNack h body s
  | .viaBatch h body => Sys2Proof.Machine.execViaBatch h body s
  | .viaCells h body => Sys2Proof.Machine.execViaCells h body s
  | .viaCkpt h body => Sys2Proof.Machine.execViaCkpt h body s
  | .viaKeyload h body => Sys2Proof.Machine.execViaKeyload h body s
  | .viaKeyerase h body => Sys2Proof.Machine.execViaKeyerase h body s
  | .viaConfig h body => Sys2Proof.Machine.execViaConfig h body s
  | .viaDetach h body => Sys2Proof.Machine.execViaDetach h body s
  | .viaPromoted h body => Sys2Proof.Machine.execViaPromoted h body s
  | .heartbeatSend => Sys2Proof.Machine.execHeartbeatSend s
  | .heartbeatLoss => Sys2Proof.Machine.execHeartbeatLoss s
  | .pairingTimeout => Sys2Proof.Machine.execPairingTimeout s
  | .checkpointLag => Sys2Proof.Machine.execCheckpointLag s
  | .detachTimeout => Sys2Proof.Machine.execDetachTimeout s
  | .pairLead => Sys2Proof.Machine.execPairLead s
  | .pairMirror => Sys2Proof.Machine.execPairMirror s
  | .promote => Sys2Proof.Machine.execPromote s
  | .detach => Sys2Proof.Machine.execDetach s
  | .linkUpRise => Sys2Proof.Machine.execLinkUpRise s
  | .linkUpFall => Sys2Proof.Machine.execLinkUpFall s
  | .viaductPortReset => Sys2Proof.Machine.execViaductPortReset s
  | .underWay => Sys2Proof.Machine.execUnderWay s
  | .holding => Sys2Proof.Machine.execHolding s
  | .holdingReached => Sys2Proof.Machine.execHoldingReached s
  | .moored => Sys2Proof.Machine.execMoored s
  | .laidUp => Sys2Proof.Machine.execLaidUp s
  | .powerAck line level => Sys2Proof.Machine.execPowerAck line level s
  | .wake => Sys2Proof.Machine.execWake s
  | .powerLoss => Sys2Proof.Machine.execPowerLoss s
  | .powerReturn => Sys2Proof.Machine.execPowerReturn s
  | .coldReset => Sys2Proof.Machine.execColdReset s
  | .resetReq => Sys2Proof.Machine.execResetReq s
  | .blockReset => Sys2Proof.Machine.execBlockReset s
  | .spanReset sp => Sys2Proof.Machine.execSpanReset sp s
  | .ferryReset f => Sys2Proof.Machine.execFerryReset f s
  | .linkReset => Sys2Proof.Machine.execLinkReset s
  | .lifeCycleChange target lcState => Sys2Proof.Machine.execLifeCycleChange target lcState s
  | .otpAck readback => Sys2Proof.Machine.execOtpAck readback s
  | .otpTimeout => Sys2Proof.Machine.execOtpTimeout s
  | .keyInTransfer kp => Sys2Proof.Machine.execKeyInTransfer kp s
  | .keyInTimeout => Sys2Proof.Machine.execKeyInTimeout s
  | .keyPathTimeout keyIn => Sys2Proof.Machine.execKeyPathTimeout keyIn s
  | .dualRailInvalid keyIn => Sys2Proof.Machine.execDualRailInvalid keyIn s
  | .tamperIn lines => Sys2Proof.Machine.execTamperIn lines s
  | .timebaseLost => Sys2Proof.Machine.execTimebaseLost s
  | .timebaseReturn => Sys2Proof.Machine.execTimebaseReturn s
  | .timebaseLoadArm value => Sys2Proof.Machine.execTimebaseLoadArm value s
  | .timebaseLoad => Sys2Proof.Machine.execTimebaseLoad s
  | .landingPortReset slip port mid => Sys2Proof.Machine.execLandingPortReset slip port mid s
  | .landingPortResetRelease slip port => Sys2Proof.Machine.execLandingPortResetRelease slip port s
  | .stagingPortReset port => Sys2Proof.Machine.execStagingPortReset port s
  | .stagingPortResetRelease port => Sys2Proof.Machine.execStagingPortResetRelease port s
  | .controlPortReset => Sys2Proof.Machine.execControlPortReset s
  | .eddySample k bit => Sys2Proof.Machine.execEddySample k bit s
  | .startupTestEnd k => Sys2Proof.Machine.execStartupTestEnd k s
  | .seedReady => Sys2Proof.Machine.execSeedReady s
  | .drbgInstantiate => Sys2Proof.Machine.execDrbgInstantiate s
  | .drbgReseed => Sys2Proof.Machine.execDrbgReseed s
  | .drbgTimeout => Sys2Proof.Machine.execDrbgTimeout s
  | .retest => Sys2Proof.Machine.execRetest s
  | .drbgRnd => Sys2Proof.Machine.execDrbgRnd s
  | .berthStart src b => Sys2Proof.Machine.execBerthStart src b s
  | .berthResume src b => Sys2Proof.Machine.execBerthResume src b s
  | .berthPark src b => Sys2Proof.Machine.execBerthPark src b s
  | .berthUnpark src b => Sys2Proof.Machine.execBerthUnpark src b s
  | .berthStop src b => Sys2Proof.Machine.execBerthStop src b s
  | .berthRehome src b => Sys2Proof.Machine.execBerthRehome src b s
  | .ldrBeginBase => Sys2Proof.Machine.execLdrBeginBase s
  | .ldrBeginBaseDma => Sys2Proof.Machine.execLdrBeginBaseDma s
  | .ldrBeginExtension => Sys2Proof.Machine.execLdrBeginExtension s
  | .ldrBeginExtensionDma => Sys2Proof.Machine.execLdrBeginExtensionDma s
  | .ldrStart => Sys2Proof.Machine.execLdrStart s
  | .commitVersion => Sys2Proof.Machine.execCommitVersion s
  | .enroll => Sys2Proof.Machine.execEnroll s
  | .abortLoad => Sys2Proof.Machine.execAbortLoad s
  | .ldrData value => Sys2Proof.Machine.execLdrData value s
  | .tollCommit src sp w => Sys2Proof.Machine.execTollCommit src sp w s
  | .tollCommitEnd sp w => Sys2Proof.Machine.execTollCommitEnd sp w s
  | .tollFence src sp w => Sys2Proof.Machine.execTollFence src sp w s
  | .tollFenceDone sp => Sys2Proof.Machine.execTollFenceDone sp s
  | .evtFifoTake => Sys2Proof.Machine.execEvtFifoTake s
  | .evtFlush => Sys2Proof.Machine.execEvtFlush s
  | .clampHead0Take => Sys2Proof.Machine.execClampHead0Take s
  | .clampFlush => Sys2Proof.Machine.execClampFlush s
  | .rcCounterTake read => Sys2Proof.Machine.execRcCounterTake read s
  | .stgAllocTake n => Sys2Proof.Machine.execStgAllocTake n s
  | .stgFree src n value => Sys2Proof.Machine.execStgFree src n value s
  | .stgClaim src n value => Sys2Proof.Machine.execStgClaim src n value s
  | .gopBreak mask => Sys2Proof.Machine.execGopBreak mask s
  | .ferryRefloat sp mask => Sys2Proof.Machine.execFerryRefloat sp mask s
  | .bwdogCtlWrite value be => Sys2Proof.Machine.execBwdogCtlWrite value be s
  | .blockWatchdogExpiry => Sys2Proof.Machine.execBlockWatchdogExpiry s
  | .registerWrite src off value be => Sys2Proof.Machine.execRegisterWrite src off value be s
  | .gwNone => Sys2Proof.Machine.execGwNone s
  | .gwReadSouthPeek addr => Sys2Proof.Machine.execGwReadSouthPeek addr s
  | .gwReadSouthTake addr => Sys2Proof.Machine.execGwReadSouthTake addr s
  | .gwWriteSouth addr value => Sys2Proof.Machine.execGwWriteSouth addr value s
  | .gwReadNorthPeek addr => Sys2Proof.Machine.execGwReadNorthPeek addr s
  | .gwReadNorthTake addr => Sys2Proof.Machine.execGwReadNorthTake addr s
  | .gwWriteNorth addr value => Sys2Proof.Machine.execGwWriteNorth addr value s
  | .gwHalt arg => Sys2Proof.Machine.execGwHalt arg s
  | .gwResume arg => Sys2Proof.Machine.execGwResume arg s
  | .gwStep arg => Sys2Proof.Machine.execGwStep arg s
  | .gwRunstat arg => Sys2Proof.Machine.execGwRunstat arg s
  | .gwReservedCommand code => Sys2Proof.Machine.execGwReservedCommand code s
  | .gwAttach => Sys2Proof.Machine.execGwAttach s
  | .gwDetach => Sys2Proof.Machine.execGwDetach s
  | .gwHaltIn => Sys2Proof.Machine.execGwHaltIn s
  | .outboundFrameSent slip port => Sys2Proof.Machine.execOutboundFrameSent slip port s
  | .blockCounterOverflow c n => Sys2Proof.Machine.execBlockCounterOverflow c n s

end Sys2Proof.Machine
end

