-- ==== Sys2Proof/Machine/Held.lean ====
section
/-!
DEFINITION. What waits goes on when nothing is commanded (log entry 96): frames behind READY (R19, R315), Viaduct frames (R325, R381),
the Gangway's command (R425), jobs whose completion waits for a held word or for an earlier job (R71, R80), checkpoints and parting
checkpoints (R388, R397), and TFENCE (R354).
-/
namespace Sys2Proof.Machine

/-- Something that waits has its turn. -/
def retryCmd (s : State) : HeldCmd → Applied
  | .landing p b kind beats => if landingRuns s then landingNow s p b kind beats else .waits s
  | .slip p n proto l => if landingRuns s then slipNow s p n proto l else .waits s
  | .via h body => if s.portsUp && viaLive s then viaFrame s h body else .waits s
  | .gw north a v =>
    if !s.hostUp then .waits s
    else if !s.gw.attached then .done (gwAck s 6 0)
    else gwMemNow s north (GwKind.held v) a
  | .gwCut north a v =>
    if !s.hostUp then .waits s
    else match gwMemNow s north (GwKind.held v) a with
      | .done t => .done { t with gw := { t.gw with status := s.gw.status, rdata := s.gw.rdata } }
      | r => r

/-- Everything that waits has its turn, oldest first; in each lane, what comes after something that still waits waits too. -/
def settleHeld (s : State) : State :=
  s.ports.held.foldl (fun s h => takeOrHold s h fun s => retryCmd s h) { s with ports := { s.ports with held := [] } }

/-- Does a job of unit `e` of Span `i` wait to complete? -/
def unitAwaits (s : State) (i : SpanNo) (e : Engine) : Bool := ((s.span i).unit e).jobs.any fun j => j.await.isSome

/-- Jobs that wait to complete, and may, do (R71, R80, R334). -/
def settleJobs (s : State) : State :=
  allSpans.foldl (fun s i => engines.foldl (fun s e =>
    if unitAwaits s i e then
      let s := if e = .tender then sentJobs s i else s
      completeReady s i e
    else s) s) s

/-- TFENCEs whose older accesses are complete retire (R354). -/
def settleFences (s : State) : State :=
  s.berths.foldl (fun s e => match (s.berth (berthOf e.1)).wait with
    | .fence w => if olderAccess s (berthSpan (berthOf e.1)) w then s else retireFence s (berthOf e.1)
    | _ => s) s

/-- Does anything wait that `pumpWaits` looks at? -/
def somethingWaits (s : State) : Bool :=
  !s.ports.held.isEmpty || s.via.parting.isSome || (allSpans.any fun i => engines.any fun e => unitAwaits s i e)
    || s.berths.any fun e => match e.2.wait with
      | .ckpt _ _ _ => true
      | .fence _ => true
      | _ => false

/-- What waits goes on, as far as it can. -/
def pumpWaits (s : State) : State :=
  if somethingWaits s then settleFences (detachGo (ckptPump (settleJobs (settleHeld s)))) else s

/-- What an idle step brings: one tick, and what waits goes on. -/
def idleStep (s : State) : State := pumpWaits (passTicks 1 s)

end Sys2Proof.Machine
end

