-- ==== Sys2Proof/Machine/Microword.lean ====
section
/-!
DEFINITION. One microword of a Ferry's store, whole (R260, R262, R265 to R274): what it waits on, its operands, ALU and shifter, destination,
predicate write, memory operation, unit request and event, and the word it leads to. The extension words that the base microcode calls are
run with the parts of `Micro.lean`; a base routine has the effect that the rule of its instruction gives (log entry 79).
-/
namespace Sys2Proof.Machine

/-- What a word comes to. -/
inductive WordOut where
  /-- It has not acted: it waits on wsel, on an access or on the DRBG. -/
  | waits
  /-- A check or access of it fails: its routine is abandoned with this exception (R270, R278). -/
  | fault (e : Exc)
  /-- The next word. -/
  | word (a : Nat)
  /-- The instruction ends: it retires, or is dispatched again (R273). -/
  | dispatch (resume : Bool)
  /-- The Pilot, the global tree, KEY or PK takes the Berth over. -/
  | leave (a : After)
  /-- The Ferry goes aground with this cause (R249, R274, R279). -/
  | aground (cause : Nat)

/-- A request of a word: the machine after it, or what stops the word. -/
abbrev WordReq := State × Except WordOut Micro

/-! ### Fields of the instruction under way (R207) -/

/-- The access size of a layout M word (R218 to R221, R228). -/
def sizeM (i : Nat) : Nat :=
  let fn := mf i 8 6
  match mf i 27 22 with
  | 0x0C => 2 ^ (fn % 4)
  | 0x0D => 2 ^ min fn 3
  | 0x0E => 16 * 2 ^ (fn % 4)
  | 0x0F => 8
  | _ => 64

/-- The decoded immediate of an instruction word: its immediate or displacement, extended and scaled as its layout requires (R267). -/
def decodedImm (i : Nat) : W64 :=
  let m := mf i 27 22
  match m with
  | 0x00 => at' (mf i 13 6) 7 0
  | 0x02 => sext 11 (mf i 10 0)
  | 0x03 => sext 11 (mf i 10 0)
  | 0x04 => at' (mf i 10 0) 10 0
  | 0x05 => at' (mf i 5 0) 5 0
  | 0x06 => at' (mf i 15 0) 15 0
  | 0x07 => at' (mf i 15 0) 15 0
  | 0x09 => sext 7 (mf i 6 0)
  | 0x10 => at' (mf i 13 3) 10 0
  | 0x14 => sext 22 (mf i 21 0) * 4
  | 0x15 => sext 22 (mf i 21 0) * 4
  | 0x17 => BitVec.ofNat 64 (4 * (mf i 11 0 + 1))
  | _ => if (0x0C ≤ m ∧ m ≤ 0x0F) ∨ m = 0x1C ∨ (0x20 ≤ m ∧ m ≤ 0x23) then sext 6 (mf i 5 0) * BitVec.ofNat 64 (sizeM i) else 0

/-- The segment that codes 0x22, 0x23, 0x1F and 0x20 name: sa, or rb[9:7] under major 0x18. -/
def segNo (i : Nat) : Nat := if mf i 27 22 = 0x18 then mf i 9 7 else mf i 11 9

/-- pd of an instruction word: bits [16:14] in layout S, else [21:19]. -/
def instrPd (i : Nat) : BitVec 3 := BitVec.ofNat 3 (if mf i 27 22 = 0 then mf i 16 14 else mf i 21 19)

/-! ### Operands and destinations of the Berth (R267, R268, R272) -/

/-- A source of word `w` that the Berth or its Ferry holds, under instruction word `i` (R267). -/
def archSource (s : State) (f : FerryNo) (b : BerthNo) (w i sel : Nat) : W64 :=
  let c := s.ctx b
  let rd := mf i 21 17
  let ra := mf i 16 12
  let inner := c.loops.head?
  match sel with
  | 0x01 => c.getG ra
  | 0x02 => c.getG (mf i 11 7)
  | 0x03 => c.getG rd
  | 0x04 => c.getG (rd + 1)
  | 0x05 => c.getG (ra + 1)
  | 0x06 => c.getG 30
  | 0x07 => c.getG 31
  | 0x1A => c.pc.setWidth 64
  | 0x1B => (c.pc + 4).setWidth 64
  | 0x1C => BitVec.ofNat 64 i
  | 0x1D => decodedImm i
  | 0x20 => tickOf s f
  | 0x21 => sysRead s b f (mf i 11 0)
  | 0x22 => (c.seg (segNo i)).base.setWidth 64
  | 0x23 => (c.seg (segNo i)).attr
  | 0x24 => (c.seg (mf i 5 3)).base.setWidth 64
  | 0x25 => (c.seg 7).base.setWidth 64
  | 0x26 => BitVec.ofNat 64 c.flags.byte
  | 0x27 => c.predByte.setWidth 64
  | 0x28 => c.status b
  | 0x29 => (inner.map fun l => l.start.setWidth 64).getD 0
  | 0x2A => (inner.map fun l => l.stop.setWidth 64).getD 0
  | 0x2B => (inner.map fun l => l.count.setWidth 64).getD 0
  | 0x31 => c.bcval
  | 0x32 => c.getG (mf w 4 0)
  | 0x33 => Table.get 0 c.g (if c.sup then 30 else 32)
  | _ => 0

/-- A source of a word. -/
def wordSource (s : State) (f : FerryNo) (b : BerthNo) (m : Micro) (w i sel : Nat) : W64 := (mSource m w sel).getD (archSource s f b w i sel)

/-- The loop stack brought to a depth: levels that come into being hold free values (log entry 79). -/
def setDepth (s : State) (b : BerthNo) (d : Nat) : State :=
  let ls := (s.ctx b).loops
  let fresh := fun (k : Nat) => (Config.freeWord (s.free + k)).setWidth 32
  { s with free := s.free + 12 }.modCtx b fun c =>
    { c with loops := ((List.range (d - ls.length)).map fun k =>
        ({ start := fresh (3 * k), stop := fresh (3 * k + 1), count := fresh (3 * k + 2) } : Loop)) ++ ls.drop (ls.length - d) }

/-- The innermost loop level changed. -/
def modInner (s : State) (b : BerthNo) (h : Loop → Loop) : State :=
  s.modCtx b fun c => { c with loops := match c.loops with
    | [] => []
    | l :: r => h l :: r }

/-- STATUS written by a word: every field except berth and home (R268). -/
def Ctx.putStatus (c : Ctx) (v : W64) : Ctx :=
  { c with north := tb v 31, gate := tb v 29, slack := tb v 28, sup := tb v 24, ipl := BitVec.ofNat 4 (fld v 23 20), ie := tb v 19, dzt := tb v 18 }

/-- The destination of word `w` where the Berth holds it: the result `r` (R268). -/
def archDest (s : State) (f : FerryNo) (b : BerthNo) (m : Micro) (w i : Nat) (r : W64) : State :=
  let rd := mf i 21 17
  let ra := mf i 16 12
  let put := fun (k : Nat) => s.modCtx b fun c => c.setG k r
  match mf w 85 80 with
  | 0x01 => put rd
  | 0x02 => put (rd + 1)
  | 0x03 => put ra
  | 0x04 => put (ra + 1)
  | 0x05 => put 30
  | 0x06 => put 31
  | 0x07 => s.modCtx b fun c => { c with pc := r.setWidth 32 }
  | 0x1A => s.modCtx b fun c => { c with flags := Flags.ofByte (fld r 4 0) }
  | 0x1B => if fBit i then s.modCtx b fun c => { c with flags := { c.flags with c := m.uc, v := m.uv, z := m.uz, n := m.un } } else s
  | 0x1C => s.modCtx b fun c => { c with p := BitVec.ofNat 8 (fld r 7 1 * 2) }
  | 0x1D => s.modCtx b fun c => c.putStatus r
  | 0x1E => sysWrite s b f (mf i 11 0) r
  | 0x1F => s.modCtx b fun c => c.setSeg (segNo i) { c.seg (segNo i) with base := r.setWidth 48 }
  | 0x20 => writeSegAttr s b (segNo i) r
  | 0x21 => modInner s b fun l => { l with start := r.setWidth 32 }
  | 0x22 => modInner s b fun l => { l with stop := r.setWidth 32 }
  | 0x23 => modInner s b fun l => { l with count := r.setWidth 32 }
  | 0x24 => setDepth s b (min 4 r.toNat)
  | 0x2A => put (mf w 4 0)
  | 0x2B => s.modCtx b fun c => { c with g := Table.put c.g (if c.sup then 30 else 32) r }
  | _ => s

/-- The predicate write of a word with result `r`, csel being met or not (R272). -/
def predWrite (s : State) (b : BerthNo) (w i : Nat) (r : W64) (met : Bool) : State :=
  let pd := instrPd i
  let pe := BitVec.ofNat 3 (mf i 18 16)
  match mf w 52 50 with
  | 1 => s.modCtx b fun c => (c.setP pd (tb r 0)).setP pe (!tb r 0)
  | 2 => s.modCtx b fun c => c.setP pd (tb r 0)
  | 3 => s.modCtx b fun c => c.setP (BitVec.ofNat 3 (mf i 21 19)) (tb r 0)
  | 4 => s.modCtx b fun c => (c.setP pd met).setP pe (!met)
  | _ => s

/-! ### Memory operations (R270) -/

/-- Where a memory operation goes. -/
inductive MSeg where
  /-- Through segment Sn. -/
  | seg (n : Nat)
  /-- At the block address: Tollgate-checked, no segment. -/
  | block
  /-- To the Ferry's local data. -/
  | localData

/-- mseg of a word under instruction word `i`. -/
def mSeg (w i : Nat) : MSeg :=
  match mf w 68 66 with
  | 0 => .seg (mf i 11 9)
  | 1 => .seg (mf i 5 3)
  | 2 => .seg 0
  | 3 => .seg 7
  | 4 => .block
  | _ => .localData

/-- An access of a word as a request: `h` takes what it answers. -/
def reqOf {α : Type} (r : State × FRes α) (h : State → α → WordReq) : WordReq :=
  match r with
  | (s, .ok a) => h s a
  | (s, .exc e) => (s, .error (.fault e))
  | (s, .wait) => (s, .error .waits)

/-- A load of `z` bytes at MA. -/
def mRead (s : State) (b : BerthNo) (f : FerryNo) (g : MSeg) (o : W64) (z : Nat) : State × FRes (List Byte) :=
  match g with
  | .seg n => segLoad s b f n o z (decide (z ≤ 8))
  | .block => ferRead s b f false .read o.toNat z
  | .localData => (s, .ok (memRead (s.ferry f).localMem (o.toNat % 0x8000) z))

/-- A store at MA. -/
def mWrite (s : State) (b : BerthNo) (f : FerryNo) (g : MSeg) (o : W64) (l : List Byte) : State × FRes Unit :=
  match g with
  | .seg n => segStore s b f n o l (decide (l.length ≤ 8))
  | .block => ferWrite s b f false o.toNat l
  | .localData => (s.modFerry f fun y => { y with localMem := memWrite y.localMem (o.toNat % 0x8000) l }, .ok ())

/-- The checks of a load or store of `z` bytes at MA, with no access: the segment's and the Tollgate's, for both halves of R180. -/
def mCheck (s : State) (b : BerthNo) (f : FerryNo) (g : MSeg) (o : W64) (z : Nat) (write : Bool) : State × FRes Unit :=
  let toll := fun (a : Nat) => match gateCheck s (ferAcc s b f false) false (if write then .write else .read) a z with
    | (s, some (w, r)) => failRes s b f a z (.toll w r)
    | (s, none) => (s, FRes.ok ())
  match g with
  | .seg n => (match segCheck (s.ctx b) n o z (if write then .w else .r) with
    | .error e => (s, .exc e)
    | .ok a => toll a)
  | .block => toll o.toNat
  | .localData => (s, .ok ())

/-- The read half of an atomic at MA. -/
def mAtom (s : State) (b : BerthNo) (f : FerryNo) (g : MSeg) (o : W64) (lock : Bool) : State × FRes (Nat × W64) :=
  match g with
  | .seg n => atomLoad s b f n o (if lock then .r else .rw) lock
  | .block => (match ferRead s b f false .atomic o.toNat 8 with
    | (s, .ok l) => (s, .ok (o.toNat, BitVec.ofNat 64 (natOfBytes l)))
    | (s, .exc e) => (s, .exc e)
    | (s, .wait) => (s, .wait))
  | .localData =>
    let a := o.toNat % 0x8000
    (s, .ok (a, BitVec.ofNat 64 (natOfBytes (memRead (s.ferry f).localMem a 8))))

/-- A B-space operation at bit `a`, coded as in R222: the old bit goes to MD, whose bit 0 a later word can give to P(p); BMOV takes P(p).
BSCAN answers the first set bit of its granule of 512, or all ones (log entry 79). -/
def bitRequest (s : State) (b : BerthNo) (m : Micro) (i op a : Nat) : WordReq :=
  let old := bitAt s b a
  let put := fun (v : Bool) => (putBit s b a v, Except.ok { m with md := bit64 old })
  match op with
  | 0 => put true
  | 1 => put false
  | 2 => put (!old)
  | 3 => (s, .ok { m with md := bit64 old })
  | 4 => put ((s.ctx b).getP (BitVec.ofNat 3 (mf i 21 19)))
  | 5 => put true
  | _ => (s, .ok { m with md := (((scanBits s b a 512).map (BitVec.ofNat 64)).getD (BitVec.allOnes 64)) })

/-- The memory operation of word `w` (R270), with operand `a` and the machine as its ALU and destination have left it. -/
def memRequest (s : State) (b : BerthNo) (f : FerryNo) (m : Micro) (w i : Nat) (a : W64) : WordReq :=
  let g := mSeg w i
  let o := m.ma
  let z := 2 ^ mf w 65 64
  let wide := 16 * z
  let rd := mf i 21 17
  let load := fun (sx : Bool) => reqOf (mRead s b f g o z) fun s l => (s, .ok { m with md := loadValue z sx l })
  match mf w 72 69 with
  | 0x1 => load false
  | 0x2 => load true
  | 0x3 => reqOf (mWrite s b f g o (bytesOfNat z m.mdOut.toNat)) fun s _ => (s, .ok m)
  | 0x4 => reqOf (mCheck s b f g o z true) fun s _ => (s, .ok m)
  | 0x5 => reqOf (mCheck s b f g o z false) fun s _ => (s, .ok m)
  | 0x6 => reqOf (mRead s b f g o wide) fun s l =>
    let v := fun (j : Nat) => BitVec.ofNat 64 (fieldAt l (8 * j) 8)
    if wide = 128 then (s, .ok { m with frame := (List.range 16).map fun j => (j, v j) })
    else (s.modCtx b fun c => (List.range (wide / 8)).foldl (fun c j => c.load (rd + j) (v j)) c, .ok m)
  | 0x7 =>
    let v := fun (j : Nat) => if wide = 128 then Table.get 0 m.frame j else (s.ctx b).getG (rd + j)
    reqOf (mWrite s b f g o ((List.range (wide / 8)).flatMap fun j => bytesOfNat 8 (v j).toNat)) fun s _ => (s, .ok m)
  | 0x8 => reqOf (mAtom s b f g o true) fun s e =>
    (s.modCtx b fun c => { c with lock := some { word := e.1 / 64, count := 0 } }, .ok { m with md := e.2 })
  | 0x9 => reqOf (mAtom s b f g o false) fun s e => (atomStore s b f e.1 m.mdOut, .ok { m with md := e.2 })
  | 0xA => reqOf (mAtom s b f g o false) fun s e =>
    (if e.2 = a then atomStore s b f e.1 m.mdOut else s, .ok { m with md := e.2 })
  | 0xB => bitRequest s b m i (mf w 2 0) (fld m.res 17 0)
  | 0xC => reqOf (mRead s b f g o z) fun s l => (s, .ok { m with md := loadValue z false l })
  | 0xD => reqOf (fillLine s b f (ferAcc s b f false) o.toNat) fun s _ => (s, .ok m)
  | 0xE => reqOf (mCheck s b f g o wide true) fun s _ => (s, .ok m)
  | _ => (s, .ok m)

/-! ### Unit and sequencer requests (R271) -/

/-- The unit that an issue code names. -/
def unitOfCode : Nat → Engine
  | 1 => .truss
  | 2 => .sealU
  | 3 => .cmpr
  | 4 => .hash
  | _ => .tender

/-- The issue of the descriptor at UDA, which the words before have checked (R228). -/
def issueRequest (s : State) (b : BerthNo) (f : FerryNo) (m : Micro) (e : Engine) : WordReq :=
  if fenceOpen s b ∨ 4 ≤ openJobs ((s.span (berthSpan b)).unit e) b then (s, .error .waits)
  else reqOf (ferRead s b f false .read m.uda.toNat 64) fun s l => (acceptJob s e b l (boundGeos s b e l), .ok m)

/-- A request to the Pilot: yield, the waits, a signal, a frame to post, halt. The frame's descriptor is taken as POST takes it, from A and the
result (log entry 79). -/
def pilotRequest (s : State) (b : BerthNo) (f : FerryNo) (m : Micro) (i : Nat) (a r : W64) (op : Nat) : WordReq :=
  let bit := BitVec.ofNat 18 (fld r 17 0)
  match op with
  | 0 => (s, .error (.leave .yield))
  | 1 => if bitAt s b bit.toNat then (s, .ok m) else (s, .error (.leave (.wait (.bit bit))))
  | 2 => if bitAt s b bit.toNat ∨ a.toNat ≤ s.time.count.toNat then (s, .ok m) else (s, .error (.leave (.wait (.bitT bit a (instrPd i)))))
  | 3 =>
    let x := signalTo s b r
    (x.1, .ok { m with ur := x.2 })
  | 4 => (match postStatus b a r with
    | some e => (s, .ok { m with ur := BitVec.ofNat 64 e })
    | none => reqOf (postFrame s b f a r) fun s _ => (s, .ok { m with ur := 0 }))
  | _ => (s, .error (.leave .halt))

/-- A counter request: the counter that the instruction's rb names (R234). -/
def counterRequest (s : State) (b : BerthNo) (f : FerryNo) (m : Micro) (i : Nat) (a : W64) (op : Nat) : WordReq :=
  let k := mf i 11 7 % 16
  match op with
  | 0 => (s, .ok { m with ur := readCnt s b f k })
  | 1 => (writeCnt s b k a, .ok m)
  | 2 => (s, .ok { m with ur := Table.get 0 (s.ctx b).cntCfg k })
  | 3 => (writeCntCfg s b k a, .ok m)
  | 4 => (countBlock (freezeGroup s k true) 7 2 1, .ok m)
  | _ => (freezeGroup s k false, .ok m)

/-- The frame buffer goes to the lifeboat set of the current world (R247, R248). -/
def toLifeboat (s : State) (b : BerthNo) (f : FerryNo) (m : Micro) : State :=
  let north := (s.ctx b).north
  s.modFerry f fun y => y.setLb north
    { y.lb north with frame := (List.range 16).flatMap fun j => bytesOfNat 8 (Table.get 0 m.frame j).toNat, berth := BitVec.ofNat 10 b.val, occ := true }

/-- The unit request of word `w` (R271), with operands `a` and `v`. -/
def unitRequest (s : State) (b : BerthNo) (f : FerryNo) (m : Micro) (w i : Nat) (a v : W64) : WordReq :=
  let lit := mf w 31 0
  let u := mf w 63 60
  let after := fun (x : State × After) => match x with
    | (s, .next) => (s, Except.ok m)
    | (s, x) => (s, .error (.leave x))
  match u with
  | 0x0 => (s, .ok m)
  | 0x6 => after (keyBody false (lit % 64) false s b)
  | 0x7 => after (keyBody true (lit % 64) false s b)
  | 0x8 => (match draws s b [8] with
    | (s, .ok l) => (s, .ok { m with ur := BitVec.ofNat 64 (natOfBytes (l.headD [])) })
    | (s, .fail _) => (s, .ok { m with ur := 0 })
    | (s, .wait) => (s, .error .waits))
  | 0x9 => (s, .ok { m with mul := (a * v, (if lit = 1 then aluMulh else aluMulhu) Flags.reset a v |>.1) })
  | 0xA => (s, .ok { m with quot := if lit = 1 then ((aluDiv Flags.reset a v).1, (aluRem Flags.reset a v).1)
                                     else ((aluDivu Flags.reset a v).1, (aluRemu Flags.reset a v).1) })
  | 0xB => (match lit % 4 with
    | 0 => after (barBody (mf i 9 6) (instrPd i) s b)
    | 1 => after (bcastBody (mf i 9 6) a s b)
    | _ => after (ckptBody (instrPd i) s b))
  | 0xC => pilotRequest s b f m i a m.res (lit % 8)
  | 0xD => counterRequest s b f m i a (lit % 8)
  | 0xE => if lit % 4 = 0 then (toLifeboat s b f m, .ok m) else (s, .error (.aground (mf lit 13 8)))
  | _ => issueRequest s b f m (unitOfCode u)

/-! ### The word (R260, R265, R273, R278) -/

/-- The conditions on which a word acts are met no longer (R265). -/
def metSpent (m : Micro) (w : Nat) : Micro := { m with met := m.met.filter fun c => c != mf w 111 105 && c != mf w 119 113 }

/-- Ferry `f` executes the word at `upc` for Berth `b`. It waits on wsel; then operands, ALU and shifter, destination, memory operation, unit
request, predicate write and event; last the choice of the next word. A word that a check stops has no effect of its own (R278). -/
def wordStep (s : State) (f : FerryNo) (b : BerthNo) : State × WordOut :=
  let m := (s.ferry f).micro
  match fetchWord s f m.upc with
  | (s, none) => (s, .aground 0x19)
  | (s, some w) =>
    if !condMet (condVal s f b m) (mf w 111 105) (mf w 104 104) then (s, .waits)
    else
      let i := instrWord s b
      let a := wordSource s f b m w i (mf w 97 92)
      let v := wordSource s f b m w i (mf w 91 86)
      let x := metSpent (mOperate m w a v (s.ctx b).flags.c (mf i 5 0)) w
      let inside := mDest x w x.res
      match memRequest s b f (inside.getD x) w i a with
      | (s, .error o) => (s, o)
      | (s, .ok x) =>
        match unitRequest s b f x w i a v with
        | (s, .error o) => (s, o)
        | (s, .ok x) =>
          let s := if inside.isNone then archDest s f b x w i x.res else s
          let met := condMet (condVal s f b x) (mf w 119 113) (mf w 112 112)
          let s := microEvent (predWrite s b w i x.res met) b (mf w 59 56)
          match mSucc x w (condVal s f b x) with
          | (x, .word a) => (s.modFerry f fun y => { y with micro := { x with upc := a, committed := x.committed || mCmt w } }, .word a)
          | (_, .dispatch resume) => (s.modFerry f fun y => { y with micro := Micro.reset }, .dispatch resume)
          | (_, .broken) => (s, .aground 0x18)

/-- Ferry `f` runs words from `upc` on, at most `n` of them, until one does not lead to another. -/
def wordRun (f : FerryNo) (b : BerthNo) : Nat → State → State × WordOut
  | 0, s => (s, .waits)
  | n + 1, s =>
    match wordStep s f b with
    | (s, .word _) => wordRun f b n s
    | r => r

end Sys2Proof.Machine
end

