-- ==== Sys2Proof/Safety.lean ====
section
/-!
DEFINITION. The terms in which claims are made: when an instruction takes effect and what its retirement adds (R173, R182, R186,
R188, R273), which parts of the state counting may touch (R500 to R510), and the canonical form of the block's memories.
-/
namespace Sys2Proof.Safety
open Sys2Proof.Machine

/-! ### Memories -/

/-- Every memory of the state is in canonical form: the block's memory, and each Ferry's local data. -/
def memOk (s : State) : Bool := Memory.wf s.mem && s.ferries.all fun e => Memory.wf e.2.localMem

/-! ### One instruction -/

/-- The state at the fetch of an instruction: run control's marks for this dispatch are spent, and the lists of late loads and
of registers written are taken over from the instruction before. -/
def atFetch (s : State) (f : FerryNo) (b : BerthNo) : State :=
  (s.modFerry f fun y => { y with skipBrk := false, step := false, stepMask := false }).setCtx b
    { s.ctx b with late := [], wrote := [] }

/-- The state after the fetch at the PC (R177, R178, R346): it may fill a line of the instruction buffer (R17, R272), and a read of
memory is counted. -/
def fetched (s : State) (f : FerryNo) (b : BerthNo) : State := (fetchCheck (atFetch s f b) b f false (s.ctx b).pc).1

/-- The state in which the instruction has its effect: a LOCK hold that the instruction does not suffer has ended (R182). -/
def atEffect (s : State) (f : FerryNo) (b : BerthNo) (k : LockCls) : State :=
  (fetched s f b).modCtx b fun c => c.lockBefore k

/-- Does the fetch at the PC pass (R177, R178, R346)? -/
def fetches (s : State) (f : FerryNo) (b : BerthNo) : Bool :=
  match (fetchCheck (atFetch s f b) b f false (s.ctx b).pc).2 with
  | .ok _ => true
  | _ => false

/-- Does the control store of Ferry `f` hold no word in error (R261, R279)? -/
def storeClean (s : State) (f : FerryNo) : Bool := (s.ferry f).cs.poison.isEmpty && (s.ferry f).cs.flips.isEmpty

/-- Does nothing come before the instruction of Ferry `f`, which holds Berth `b` (R241, R273): the Ferry dispatches, no reset,
halt, breakpoint, switch-out, exception or interrupt is due, its control store holds no error, and the fetch passes? -/
def quiet (s : State) (f : FerryNo) (b : BerthNo) : Bool :=
  let y := s.ferry f
  let x := s.berth b
  y.berth == some b && dispatches s f b && !y.resetReq && storeClean s f && y.halt == .run && !breaks s f b
    && (offered s b y.stepMask).isNone && x.cmd.isNone && !x.switchReq && x.ctx.badDepth.isNone && fetches s f b

/-- Does the instruction with decoding `d` take effect: nothing comes before it, it decodes without a fault (R208, R209), and its
guard is true (R174)? -/
def runs (s : State) (f : FerryNo) (b : BerthNo) (d : Dec) : Bool :=
  quiet s f b && (decodeFault (fetched s f b) (s.ctx b) d).isNone && (s.ctx b).guard d.g

/-- The state after an instruction whose effect left `u` and whose own effect set the PC: the loads of the instruction before
land, the hold counts the instruction, the retirement is counted as event `ev`, and a STEP ends. -/
def retiredHere (s : State) (f : FerryNo) (b : BerthNo) (k : LockCls) (ev : Nat) (u : State) : State :=
  stepEnd (retire (settle u b (s.ctx b).late) b f k ev) f (s.ferry f).step

/-- The state after an instruction whose effect left `u`: execution also goes on after it (R186). -/
def retired (s : State) (f : FerryNo) (b : BerthNo) (k : LockCls) (ev : Nat) (u : State) : State :=
  stepEnd (retire ((settle u b (s.ctx b).late).modCtx b Ctx.advance) b f k ev) f (s.ferry f).step

/-- The state after an instruction that raised exception `e` with `pc` in the frame, its effect having left `u` (R244): none
while the push of the frame waits. -/
def raised (s : State) (f : FerryNo) (b : BerthNo) (u : State) (e : Exc) (pc : W32) : Option State :=
  (takeExc ((settle u b (s.ctx b).late).modFerry f fun y => { y with lockWait := false }) b f e pc).map
    fun t => stepEnd t f (s.ferry f).step

/-! ### Accesses -/

/-- Was an access made? -/
def passed {α : Type} (r : State × FRes α) : Bool :=
  match r.2 with
  | .ok _ => true
  | _ => false

/-- The bytes that a load brought. -/
def bytesGot (r : State × FRes (List Byte)) : List Byte :=
  match r.2 with
  | .ok l => l
  | _ => []

/-- The block address and the old word that an atomic found. -/
def wordGot (r : State × FRes (Nat × W64)) : Nat × W64 :=
  match r.2 with
  | .ok p => p
  | _ => (0, 0)

/-- Was a read or write of a KEY or PK operation made? -/
def ioPassed {α : Type} (r : State × KeyIo α) : Bool :=
  match r.2 with
  | .ok _ => true
  | _ => false

/-- What a read of a KEY or PK operation brought. -/
def ioGot {α : Type} [Inhabited α] (r : State × KeyIo α) : α :=
  match r.2 with
  | .ok v => v
  | _ => default

/-- Were the requests of an operation served? -/
def drewOk (r : State × Draw) : Bool :=
  match r.2 with
  | .ok _ => true
  | _ => false

/-- The bytes that they brought. -/
def drewGot (r : State × Draw) : List (List Byte) :=
  match r.2 with
  | .ok l => l
  | _ => []

/-! ### Leaving a Ferry, and entering an exception -/

/-- Can Berth `b` leave the Ferry it holds, if it holds one: does the routine that saves it meet no error (R259, R279)? -/
def mayLeave (s : State) (b : BerthNo) : Bool :=
  match (s.berth b).ferry with
  | none => true
  | some f => storeClean s f && !(s.ferry f).agr.aground

/-- Does extension vector `v` of Ferry `f` hold no routine: the null word, or no image (R282, R286)? -/
def noVector (s : State) (f : FerryNo) (v : Nat) : Bool := storeWord s f (3584 + v) == 0 || nullExtWord (storeWord s f (3584 + v))

/-- The state in which the frame of exception `e` is pushed: every load has landed, a LOCK hold and a wait are over, and the entry
routine has run (R182, R188, R244, R259). -/
def entering (s : State) (b : BerthNo) (f : FerryNo) (e : Exc) (pc : W32) : State :=
  (entryRoutine (s.setBerth b { s.berth b with
    ctx := { deliverSample (s.ctx b).landAll e.cause pc with lock := none, wrote := [] }, wait := .none }) b f e.cause pc).1

/-- The push of that frame and the fetch at the vector (R242, R244). -/
def entry (s : State) (b : BerthNo) (f : FerryNo) (e : Exc) (pc : W32) : State × FRes Unit :=
  let m := entering s b f e pc
  let c := m.ctx b
  enterFrame m b f (c.g30s - 128) (frameBytes m c b e (marksOf c) pc) (vectorOf m b e.cause)

/-- Can exception `e` be taken with `pc` in its frame: the entry routine meets no error, and the push and the fetch are made? -/
def enters (s : State) (b : BerthNo) (f : FerryNo) (e : Exc) (pc : W32) : Bool :=
  storeClean s f && !(s.ferry f).agr.aground && passed (entry s b f e pc)

/-! ### Frames -/

/-- Every part of the state that a passed read of memory leaves alone: all but what it tells the counters, the logs, run control, the
free values, the ports, the single-bit errors it corrects, and the lines of an instruction buffer. -/
def readKept (s t : State) : Prop :=
  t.pending = s.pending ∧ t.time = s.time ∧ t.power = s.power ∧ t.lc = s.lc ∧ t.tamper = s.tamper
    ∧ t.rstCount = s.rstCount ∧ t.rstCause = s.rstCause ∧ t.mem = s.mem ∧ t.poison = s.poison
    ∧ t.ponAddr = s.ponAddr ∧ t.spans = s.spans ∧ t.barriers = s.barriers ∧ t.keys = s.keys ∧ t.ent = s.ent ∧ t.via = s.via
    ∧ t.ldr = s.ldr ∧ t.alloc = s.alloc
    ∧ (∀ o, o < 0x500000 ∨ 0x520000 ≤ o → t.hreg o = s.hreg o)
    ∧ ∀ f, (t.ferry f).berth = (s.ferry f).berth ∧ (t.ferry f).localMem = (s.ferry f).localMem
        ∧ (t.ferry f).lbS = (s.ferry f).lbS ∧ (t.ferry f).lbN = (s.ferry f).lbN ∧ (t.ferry f).agr = (s.ferry f).agr
        ∧ (t.ferry f).cs = (s.ferry f).cs ∧ (t.ferry f).micro = (s.ferry f).micro

/-- Every part of the state that counting (R500 to R510) and the cross triggers of its overflows (R493) leave alone: all but the
counters, the logs, run control and the free values. -/
def coreKept (s t : State) : Prop :=
  readKept s t ∧ t.errs = s.errs ∧ t.soft = s.soft ∧ t.ports = s.ports ∧ ∀ f, (t.ferry f).ibuf = (s.ferry f).ibuf

/-- What an instruction that writes general registers, predicates and FLAGS only leaves alone in its Berth's context: segments,
STATUS, the exception and system registers. Of INT_PEND only the sample bit may rise, by a counter's overflow. -/
def ctxKept (c d : Ctx) : Prop :=
  d.segs = c.segs ∧ d.north = c.north ∧ d.home = c.home ∧ d.gate = c.gate ∧ d.slack = c.slack ∧ d.sup = c.sup ∧ d.ipl = c.ipl
    ∧ d.ie = c.ie ∧ d.dzt = c.dzt ∧ (d.intPend = c.intPend ∨ d.intPend = c.intPend ||| 2) ∧ d.intRoute = c.intRoute
    ∧ d.timerCmp = c.timerCmp ∧ d.timerArmed = c.timerArmed ∧ d.wdogLim = c.wdogLim ∧ d.wdogRem = c.wdogRem
    ∧ d.wdogPend = c.wdogPend ∧ d.bcval = c.bcval ∧ d.custody = c.custody ∧ d.slackRem = c.slackRem

/-- Of Berth `b` and all others, `t` changes only what counting touches: its counters, its sample registers and the sample bit of
INT_PEND. -/
def berthsCounted (s t : State) (b : BerthNo) : Prop :=
  (∀ x, x ≠ b → t.berth x = s.berth x) ∧ t.berth b = { s.berth b with ctx := t.ctx b }
    ∧ t.ctx b = { s.ctx b with cntCfg := (t.ctx b).cntCfg, cntVal := (t.ctx b).cntVal, intPend := (t.ctx b).intPend, smp := (t.ctx b).smp }
    ∧ ((t.ctx b).intPend = (s.ctx b).intPend ∨ (t.ctx b).intPend = (s.ctx b).intPend ||| 2)

/-- `t` is `s` but for what counting on behalf of Berth `b` touches. -/
def counted (s t : State) (b : BerthNo) : Prop := coreKept s t ∧ berthsCounted s t b

/-- `t` is `s` but for what a passed read of memory for Berth `b` touches. -/
def readFor (s t : State) (b : BerthNo) : Prop := readKept s t ∧ berthsCounted s t b

/-! ### What an instruction writes -/

/-- The state after an instruction of ALU class whose whole effect is the change `h` of the Berth's context. -/
def did (s : State) (f : FerryNo) (b : BerthNo) (h : Ctx → Ctx) : State := retired s f b .alu 1 ((atEffect s f b .alu).modCtx b h)

/-- The state after an instruction that writes `r` to G(rd) and, with its f bit set, changes FLAGS by `x` (R173). -/
def gave (s : State) (f : FerryNo) (b : BerthNo) (rd : BitVec 5) (fset : Bool) (r : W64) (x : Flags → Flags) : State :=
  did s f b fun c => { c.setG rd.toNat r with flags := if fset then x c.flags else c.flags }

/-- z and n taken from a result (R195). -/
def zn (r : W64) (x : Flags) : Flags := { x with z := decide (r = 0), n := decide (r.toInt < 0) }

/-- The sum of two words and a carry (R195, R213). -/
def sumOf (a y : W64) (k : Bool) : W64 := a + y + (if k then 1 else 0)

/-- FLAGS of that sum: c is the carry out of bit 63, v tells that the signed sum does not fit (R195, R213). -/
def sumFlags (a y : W64) (k : Bool) (x : Flags) : Flags :=
  { zn (sumOf a y k) x with c := decide (2 ^ 64 ≤ a.toNat + y.toNat + k.toNat)
                            v := decide ((sumOf a y k).toInt ≠ a.toInt + y.toInt + (k.toNat : Int)) }

/-- The state after a load that brings `v` to G(r): it lands after the next instruction, and G0 discards it (R188, R219). -/
def loaded (s : State) (f : FerryNo) (b : BerthNo) (u : State) (r : Nat) (v : W64) : State :=
  retired s f b .other 1 (countEv (u.modCtx b fun c => if r = 0 then c else { c with late := c.late ++ [(c.key r, v)] }) b 6)

/-- The decoding of a word of layout M with no group of its own (R207, R219). -/
def decM (o : LM) (major fn : Nat) : Dec := { word := wordM o major fn, major := major, g := o.g }

/-- The part of a frame that instructions of the register kind keep: no memory, no other Berth, no register but G(rd) and those in
which a load of the instruction before lands. -/
def regFrame (s t : State) (b : BerthNo) (rd : Nat) : Prop :=
  readKept s t ∧ (∀ x, x ≠ b → t.berth x = s.berth x) ∧ ctxKept (s.ctx b) (t.ctx b)
    ∧ ∀ k, (rd = 0 ∨ k ≠ (s.ctx b).key rd) → k ∉ (s.ctx b).late.map (·.1) → Table.get 0 (t.ctx b).g k = Table.get 0 (s.ctx b).g k

/-- The state after an instruction whose Berth waits for `w`, its effect having left `u` (R212, R248). -/
def waits (s : State) (f : FerryNo) (b : BerthNo) (u : State) (w : Wait) : State :=
  stepEnd (ckptStep (startWait (settle u b (s.ctx b).late) b f w) b) f (s.ferry f).step

/-- The decoding of a KEY or PK word (R229, R230). -/
def decKey (o : LA) (pk : Bool) (fn : Nat) : Dec :=
  { word := wordA o (if pk then 0x25 else 0x24) fn, major := if pk then 0x25 else 0x24, g := o.g
    fieldBad := o.rd != 0 || o.ra != 0 || o.rb != 0 || o.f, north := true, priv := true }

/-! ### Jobs -/

/-- A row that carries a job on to its end: the row, its unit, its operation code, bytes 4 to 29 of the status record at the start, and the work. -/
structure JobKind where
  /-- The command. -/
  row : Instr
  /-- The unit. -/
  e : Engine
  /-- The operation code. -/
  op : Nat
  /-- Bytes 4 to 29 of the record. -/
  mid : List Byte
  /-- The work on a job. -/
  work : Job → JobM Unit

/-- The rows of the Truss (R63). -/
def trussKinds (b : BerthNo) : List JobKind :=
  [(.trussNop b, 0, trussNop), (.geoReg b, 1, geoReg), (.geoDel b, 2, geoDel), (.geoRead b, 3, geoRead), (.encFull b, 0x10, encFull),
    (.encGroup b, 0x11, encGroup), (.repLocal b, 0x20, repLocal), (.repGlobal b, 0x21, repGlobal), (.repTest b, 0x22, repTest),
    (.xcode b, 0x30, xcode), (.scrubPar b, 0x40, scrubPar), (.scrubGroup b, 0x41, scrubGroup), (.cofferAcc b, 0x80, cofferAcc),
    (.cofferFold b, 0x81, cofferFold), (.cofferRelease b, 0x82, cofferRelease), (.cofferSnap b, 0x83, cofferSnap),
    (.cofferLoad b, 0x84, cofferLoad)].map fun (p : Instr × Nat × (Job → JobM Unit)) =>
      { row := p.1, e := .truss, op := p.2.1, mid := trussMid, work := p.2.2 }

/-- The rows of the Seal unit (R120). -/
def sealKinds (b : BerthNo) : List JobKind :=
  [(.sealNop b, 0), (.sealOp b, 0x10), (.openCells b, 0x11), (.rekey b, 0x12), (.tagData b, 0x20), (.tagParity b, 0x21),
    (.checkData b, 0x22), (.checkParity b, 0x23), (.tagSnap b, 0x30), (.checkSnap b, 0x31)].map fun (p : Instr × Nat) =>
      { row := p.1, e := .sealU, op := p.2, mid := sealMid, work := sealJob }

/-- The rows of the compression unit and the Hash unit (R147, R159). -/
def streamKinds (b : BerthNo) : List JobKind :=
  [(.cmprNop b, .cmpr, 0, cmprNop), (.zstdComp b, .cmpr, 0x10, zstdCompJob),
    (.zstdDecomp b, .cmpr, 0x11, zstdDecompJob), (.zstdProbe b, .cmpr, 0x12, zstdDecompJob), (.deflateDecomp b, .cmpr, 0x20, deflateJob),
    (.hashNop b, .hash, 0, hashJob), (.sha3256 b, .hash, 0x10, hashJob), (.sha3512 b, .hash, 0x11, hashJob),
    (.shake128 b, .hash, 0x12, hashJob), (.shake256 b, .hash, 0x13, hashJob), (.kmac256 b, .hash, 0x14, hashJob),
    (.sha256 b, .hash, 0x20, hashJob)].map fun (p : Instr × Engine × Nat × (Job → JobM Unit)) =>
      { row := p.1, e := p.2.1, op := p.2.2.1, mid := zeros 26, work := p.2.2.2 }

/-- The rows of the Tender (R331). -/
def tenderKinds (b : BerthNo) : List JobKind :=
  [(.tenderNop b, 0, tenderNop), (.copy b, 0x10, copyJob), (.spanCopy b, 0x11, copyJob),
    (.landSend b, 0x20, landSendJob), (.slipFrame b, 0x30, slipFrameJob), (.slipData b, 0x31, slipDataJob),
    (.twinSend b, 0x40, twinSendJob)].map fun (p : Instr × Nat × (Job → JobM Unit)) =>
      { row := p.1, e := .tender, op := p.2.1, mid := zeros 26, work := p.2.2 }

/-- Every row that carries a job of Berth `b` to its end. -/
def jobKinds (b : BerthNo) : List JobKind := trussKinds b ++ sealKinds b ++ streamKinds b ++ tenderKinds b

/-- Has no unit of the block a job that is not complete? -/
def jobless (s : State) : Bool := s.spans.all fun x => x.2.units.all fun u => u.2.jobs.isEmpty

/-- Does the control port take the host's accesses (R420, R423, R457)? -/
def cpServes (s : State) : Prop := s.hostUp = true ∧ s.ports.cpRst = false

/-- The state in which the control port has taken an access that did not end with CP_ERR (R421). -/
def cpTook (s : State) : State := { s with ports := { s.ports with cpErr := false } }

/-- How far the work on job `j` gets from state `s`, from the boundary where it stands: how it stops, and what it has reached. -/
def workOf (k : JobKind) (j : Job) (s : State) : Except Stop Unit × JobRun :=
  goOn s k.e j k.mid (k.work j) none

/-- The status and the detail of work that stopped as `r` (R72): OK or CLAMPED when it is done, and otherwise its own. -/
def stopStatus (r : Except Stop Unit × JobRun) : Option (Nat × Nat) :=
  match r.1 with
  | .ok _ => some (if r.2.clamps = 0 then 0 else 1, 0)
  | .error (.status st d) => some (st, d)
  | .error _ => none

/-- The credit with which job `j` of unit `e` goes on (R80). -/
def creditNow (s : State) (e : Engine) (j : Job) : Nat := creditOf e ((s.span (berthSpan j.berth)).unit e) j

/-- What a job's row does besides, once the job has come to `t`: Tender jobs whose last frame has left complete (R334), and a CKPT that waited
for a batch goes on (R388). -/
def rowAfter (b : BerthNo) (e : Engine) (row : Instr) (t : State) : State :=
  let t := if e = .tender then sentJobs t (berthSpan b) else t
  if row = .twinSend b then ckptPump t else t

/-! ### The Viaduct -/

/-- The rows of received frames, each with its type (R378). -/
def viaRows (h : ViaHeader) (body : List Byte) : List (Instr × Nat) :=
  [(.viaHello h body, 0x01), (.viaKex1 h body, 0x02), (.viaKex2 h body, 0x03), (.viaConfirm h body, 0x04), (.viaSyncEnd h body, 0x05),
    (.viaHeartbeat h body, 0x10), (.viaAck h body, 0x11), (.viaNack h body, 0x12), (.viaBatch h body, 0x20), (.viaCells h body, 0x21),
    (.viaCkpt h body, 0x22), (.viaKeyload h body, 0x23), (.viaKeyerase h body, 0x24), (.viaConfig h body, 0x25),
    (.viaDetach h body, 0x30), (.viaPromoted h body, 0x31)]

/-- The state once the beats of a frame have been counted (R506). -/
def viaCounted (s : State) (body : List Byte) : State := countBlock (countBlock s 5 1 (viaBeats body.length)) 5 3 1

/-- Does the frame pass every check of R377 as one of type `ty` with payload `l`, with no higher epoch for a Lead (R396)? -/
def viaPasses (s : State) (ty : Nat) (h : ViaHeader) (body l : List Byte) : Prop :=
  s.portsUp = true ∧ viaLive s = true ∧ laneHeld s 8 = false ∧ (s.via.st = .syncing ∨ s.via.st = .paired ∨ s.via.st = .detaching)
    ∧ viaHeaderOk h body = true ∧ viaProt h = true ∧ viaType h = ty ∧ fieldAt h.hdr 8 8 = s.via.rxSeq ∧ viaOpen s h body = some l
    ∧ pairIdOk s h = true ∧ viaTypeOk s.via.role ty = true ∧ (s.via.role = .lead → fieldAt h.hdr 16 4 ≤ s.via.epoch.toNat)

/-- The state in which such a frame is applied: it is valid (R377, R393). -/
def viaTaken (s : State) (body : List Byte) : State := viaValid (viaCounted s body)

/-- Has `t` sent one more frame than `s`, of type `ty`? -/
def viaSent (s t : State) (ty : Nat) : Prop := ∃ x : ViaFrame, t.via.out = s.via.out ++ [x] ∧ fieldAt x.hdr 2 1 = ty

end Sys2Proof.Safety
end

