-- ==== Sys2Proof/Certificates/Slice0/Obligations.lean ====
section
/-!
DEFINITION. The statements about the model, one definition each; OBLIGATIONS.json lists them in order.
-/
open Sys2Proof Sys2Proof.Machine Sys2Proof.Safety

/-! ### The step (log entry 1) -/

/-- A step with a command at the front of the queue is that command on the state with the queue's rest. -/
def Obligations.StepRunsFrontCommand : Prop :=
  ∀ (s : State) (c : Instr) (rest : List Instr), s.pending = c :: rest → step s = exec c { s with pending := rest }

/-- With no command waiting one tick of the timebase passes, and what waits goes on as far as it can (the model's choice, log entries 1
and 96). Where nothing waits: while edges arrive and the block is Under way or Holding the count goes on by 1 (R431), memory stays, and
while the timebase is lost nothing changes at all (R21, whose expiries fall at the loss). -/
def Obligations.EmptyQueueTick : Prop :=
  ∀ s : State, s.pending = [] → step s = .next (pumpWaits (passTicks 1 s))
    ∧ (somethingWaits (passTicks 1 s) = false → ∃ t, step s = .next t ∧ t.pending = [] ∧ t.mem = s.mem
      ∧ (s.time.lost = false → s.power.good = true → s.power.st = .underWay ∨ s.power.st = .holding → t.time.count = s.time.count + 1)
      ∧ (s.time.lost = true → t = s))

/-- What the spec says stands right after reset: reset registers, power, loader, FLAGS, segments, VBAR, SLACK_LIM, the gate
registers, Tollgate regions, lifeboats and the pairing. -/
def Obligations.ResetState : Prop :=
  State.reset.power.st = .underWay ∧ State.reset.ldr.state = 0 ∧ State.reset.ldr.engine = 0x1FF ∧ State.reset.ldr.word = 0xFFFF
    ∧ (∀ b, (State.reset.berth b).st = .idle ∧ (State.reset.ctx b).flags = { c := false, v := false, z := false, n := false, dz := false }
        ∧ (∀ n, (State.reset.ctx b).seg n = { base := 0, limit := 0, north := false, x := false, w := false, r := false })
        ∧ (State.reset.ctx b).loops = [] ∧ (State.reset.ctx b).lock = none)
    ∧ (∀ i w, ((State.reset.span i).world w).vbar = 0 ∧ ((State.reset.span i).world w).slackLim = 2000
        ∧ ((State.reset.span i).world w).gateLim = 100000 ∧ ((State.reset.span i).world w).gateEn = 0
        ∧ ((State.reset.span i).world w).gateSp = 0)
    ∧ (∀ i w a, State.reset.bit i w a = false)
    ∧ (∀ f w, ((State.reset.ferry f).lb w).occ = false ∧ (State.reset.ferry f).agr.aground = false)
    ∧ State.reset.via.st = .unpaired ∧ State.reset.via.role = .none
    ∧ State.reset.hreg 0x300060 = 0x0000C35000002710 ∧ ∀ a, memGet State.reset.mem a = 0

/-- After reset the block's memory and every Ferry's local data are in canonical form. -/
def Obligations.ResetMemoryCanonical : Prop := memOk State.reset = true

/-- Every step keeps the memories in canonical form: addresses strictly rising, and no entry equal to what an unlisted address reads
as. -/
def Obligations.StepKeepsMemoryCanonical : Prop :=
  ∀ s t : State, memOk s = true → step s = .next t → memOk t = true

/-! ### Arithmetic, logic, shifts, moves, compares (R195 to R197, R213 to R217) -/

/-- ADD, SUB, NEG, ADC, SBC and ADDI write the sum, and with the f bit set c, v, z and n of the sum. -/
def Obligations.AddSubtractResults : Prop :=
  ∀ (s : State) (f : FerryNo) (b : BerthNo) (o : LA) (i : LI),
    let a := (s.ctx b).getG o.ra.toNat
    let y := (s.ctx b).getG o.rb.toNat
    let k := (s.ctx b).flags.c
    let imm := i.imm.signExtend 64
    let m := (s.ctx b).getG i.ra.toNat
    (runs s f b (aluDec o 0x00 none false) = true →
      exec (.add f o) s = .next (gave s f b o.rd o.f (a + y) (sumFlags a y false)))
    ∧ (runs s f b (aluDec o 0x01 none false) = true →
      exec (.sub f o) s = .next (gave s f b o.rd o.f (a - y) (sumFlags a (~~~y) true)))
    ∧ (runs s f b (aluDec o 0x02 none true) = true →
      exec (.neg f o) s = .next (gave s f b o.rd o.f (0 - a) (sumFlags 0 (~~~a) true)))
    ∧ (runs s f b (aluDec o 0x03 none false) = true →
      exec (.adc f o) s = .next (gave s f b o.rd o.f (sumOf a y k) (sumFlags a y k)))
    ∧ (runs s f b (aluDec o 0x04 none false) = true →
      exec (.sbc f o) s = .next (gave s f b o.rd o.f (sumOf a (~~~y) k) (sumFlags a (~~~y) k)))
    ∧ (runs s f b { word := wordI i 0x02, major := 0x02, g := i.g, cls := .alu } = true →
      exec (.addi f i) s = .next (gave s f b i.rd i.f (m + imm) (sumFlags m imm false)))

/-- The logic functions, the minimum and maximum functions, CLZ, POPC, BSWAP, ANDI and ORI: the result bit by bit, or as the
number it is, and z and n alone of the flags. -/
def Obligations.LogicAndBitResults : Prop :=
  ∀ (s : State) (f : FerryNo) (b : BerthNo) (o : LA) (i : LI),
    let a := (s.ctx b).getG o.ra.toNat
    let y := (s.ctx b).getG o.rb.toNat
    let m := (s.ctx b).getG i.ra.toNat
    let is := fun (c : Instr) (d : Dec) (p : W64 → Prop) =>
      runs s f b d = true → ∃ r, p r ∧ exec c s = .next (gave s f b o.rd o.f r (zn r))
    is (.andR f o) (aluDec o 0x08 none false) (fun r => ∀ j, r.getLsbD j = (a.getLsbD j && y.getLsbD j))
    ∧ is (.orR f o) (aluDec o 0x09 none false) (fun r => ∀ j, r.getLsbD j = (a.getLsbD j || y.getLsbD j))
    ∧ is (.xorR f o) (aluDec o 0x0A none false) (fun r => ∀ j, r.getLsbD j = (a.getLsbD j != y.getLsbD j))
    ∧ is (.andn f o) (aluDec o 0x0B none false) (fun r => ∀ j, r.getLsbD j = (a.getLsbD j && !y.getLsbD j))
    ∧ is (.nor f o) (aluDec o 0x0C none false) (fun r => ∀ j < 64, r.getLsbD j = !(a.getLsbD j || y.getLsbD j))
    ∧ is (.min f o) (aluDec o 0x28 none false) (fun r => r.toInt = min a.toInt y.toInt)
    ∧ is (.max f o) (aluDec o 0x29 none false) (fun r => r.toInt = max a.toInt y.toInt)
    ∧ is (.minu f o) (aluDec o 0x2A none false) (fun r => r.toNat = min a.toNat y.toNat)
    ∧ is (.maxu f o) (aluDec o 0x2B none false) (fun r => r.toNat = max a.toNat y.toNat)
    ∧ is (.clz f o) (aluDec o 0x30 none true) (fun r => r.toNat ≤ 64 ∧ (∀ j, 64 - r.toNat ≤ j → a.getLsbD j = false)
        ∧ (r.toNat < 64 → a.getLsbD (63 - r.toNat) = true))
    ∧ is (.popc f o) (aluDec o 0x31 none true) (fun r => r.toNat = ((List.range 64).map fun j => (a.getLsbD j).toNat).sum)
    ∧ is (.bswap f o) (aluDec o 0x32 none true) (fun r => ∀ k < 8, ∀ j < 8, r.getLsbD (8 * k + j) = a.getLsbD (8 * (7 - k) + j))
    ∧ (runs s f b { word := wordI i 0x03, major := 0x03, g := i.g, cls := .alu } = true →
        exec (.andi f i) s = .next (gave s f b i.rd i.f (m &&& i.imm.signExtend 64) (zn (m &&& i.imm.signExtend 64))))
    ∧ (runs s f b { word := wordI i 0x04, major := 0x04, g := i.g, cls := .alu } = true →
        exec (.ori f i) s = .next (gave s f b i.rd i.f (m ||| i.imm.setWidth 64) (zn (m ||| i.imm.setWidth 64))))

/-- The shifts and rotates, by register and by immediate (R197): the amount is the whole unsigned operand; c is the last bit
shifted out, or 0 for an amount of 0 or at least 64; rotates leave c. -/
def Obligations.ShiftResults : Prop :=
  ∀ (s : State) (f : FerryNo) (b : BerthNo) (o : LA) (i : LIh),
    let a := (s.ctx b).getG o.ra.toNat
    let n := ((s.ctx b).getG o.rb.toNat).toNat
    let m := (s.ctx b).getG i.ra.toNat
    let sh := i.sh.toNat
    let dec := fun fn => ({ word := wordIh i 0x05 fn, major := 0x05, g := i.g, fieldBad := i.res != 0, cls := .alu } : Dec)
    let isShl := fun (v r : W64) (n : Nat) => ∀ j < 64, r.getLsbD j = (decide (n ≤ j) && v.getLsbD (j - n))
    let isShr := fun (v r : W64) (n : Nat) => ∀ j < 64, r.getLsbD j = v.getLsbD (j + n)
    let isSar := fun (v r : W64) (n : Nat) => ∀ j < 64, r.getLsbD j = if j + n < 64 then v.getLsbD (j + n) else v.getLsbD 63
    let isRor := fun (v r : W64) (n : Nat) => ∀ j < 64, r.getLsbD j = v.getLsbD ((j + n) % 64)
    let cl := fun (v : W64) (n : Nat) => decide (0 < n) && decide (n < 64) && v.getLsbD (64 - n)
    let cr := fun (v : W64) (n : Nat) => decide (0 < n) && decide (n < 64) && v.getLsbD (n - 1)
    (runs s f b (aluDec o 0x10 none false) = true →
      ∃ r, isShl a r n ∧ exec (.shl f o) s = .next (gave s f b o.rd o.f r fun x => { zn r x with c := cl a n }))
    ∧ (runs s f b (aluDec o 0x11 none false) = true →
      ∃ r, isShr a r n ∧ exec (.shr f o) s = .next (gave s f b o.rd o.f r fun x => { zn r x with c := cr a n }))
    ∧ (runs s f b (aluDec o 0x12 none false) = true →
      ∃ r, isSar a r n ∧ exec (.sar f o) s = .next (gave s f b o.rd o.f r fun x => { zn r x with c := cr a n }))
    ∧ (runs s f b (aluDec o 0x13 none false) = true → ∃ r, isRor a r n ∧ exec (.ror f o) s = .next (gave s f b o.rd o.f r (zn r)))
    ∧ (runs s f b (dec 0) = true →
      ∃ r, isShl m r sh ∧ exec (.shli f i) s = .next (gave s f b i.rd i.f r fun x => { zn r x with c := cl m sh }))
    ∧ (runs s f b (dec 1) = true →
      ∃ r, isShr m r sh ∧ exec (.shri f i) s = .next (gave s f b i.rd i.f r fun x => { zn r x with c := cr m sh }))
    ∧ (runs s f b (dec 2) = true →
      ∃ r, isSar m r sh ∧ exec (.sari f i) s = .next (gave s f b i.rd i.f r fun x => { zn r x with c := cr m sh }))
    ∧ (runs s f b (dec 3) = true → ∃ r, isRor m r sh ∧ exec (.rori f i) s = .next (gave s f b i.rd i.f r (zn r)))

/-- MUL, MULH, MULHU, and the divisions with their edge cases (R195, R196): the signed quotient is rounded toward zero and the
remainder takes the sign of the dividend; by zero the quotient is all ones and the remainder the dividend, dz is set whatever the f
bit, and with the divide trap enabled cause 0x0B is raised and nothing is written. -/
def Obligations.MultiplyDivideResults : Prop :=
  ∀ (s : State) (f : FerryNo) (b : BerthNo) (o : LA),
    let c := s.ctx b
    let a := c.getG o.ra.toNat
    let y := c.getG o.rb.toNat
    let wraps := decide (a.toInt = -(2 ^ 63) ∧ y.toInt = -1)
    let divd := fun (r : W64) (v : Flags → Bool) =>
      did s f b fun c => { c.setG o.rd.toNat r with
        flags := { (if o.f then { zn r c.flags with v := v c.flags } else c.flags) with dz := c.flags.dz || decide (y = 0) } }
    (runs s f b (aluDec o 0x18 none false) = true →
      exec (.mul f o) s = .next (gave s f b o.rd o.f (a * y)
        fun x => { zn (a * y) x with v := decide ((a * y).toInt ≠ a.toInt * y.toInt) }))
    ∧ (runs s f b (aluDec o 0x19 (some 0) false) = true → ∃ r : W64,
        r.toInt * 2 ^ 64 ≤ a.toInt * y.toInt ∧ a.toInt * y.toInt < (r.toInt + 1) * 2 ^ 64 ∧
        exec (.mulh f o) s = .next (gave s f b o.rd o.f r (zn r)))
    ∧ (runs s f b (aluDec o 0x1A (some 0) false) = true → ∃ r : W64,
        r.toNat = a.toNat * y.toNat / 2 ^ 64 ∧ exec (.mulhu f o) s = .next (gave s f b o.rd o.f r (zn r)))
    ∧ (∀ p ∈ [(Instr.div f o, 0x20, false), (.divu f o, 0x21, true), (.rem f o, 0x22, false), (.remu f o, 0x23, true)],
        runs s f b (aluDec o p.2.1 (some 1) false) = true →
        (y = 0 → c.dzt = true → ∀ t,
          raised s f b (atEffect s f b .alu) { cause := 0x0B, info := (wordA o 0x01 p.2.1).setWidth 64, info2 := 0 } c.pc = some t →
          exec p.1 s = .next t)
        ∧ (y = 0 → c.dzt = false →
          let r : W64 := if p.2.1 < 0x22 then BitVec.allOnes 64 else a
          exec p.1 s = .next (divd r fun x => if p.2.2 then x.v else false)))
    ∧ (y ≠ 0 → runs s f b (aluDec o 0x20 (some 1) false) = true → ∃ r : W64,
        (wraps = false → r.toInt = a.toInt.tdiv y.toInt) ∧ (wraps = true → r = 0x8000000000000000)
        ∧ exec (.div f o) s = .next (divd r fun _ => wraps))
    ∧ (y ≠ 0 → runs s f b (aluDec o 0x21 (some 1) false) = true → ∃ r : W64,
        r.toNat = a.toNat / y.toNat ∧ exec (.divu f o) s = .next (divd r fun x => x.v))
    ∧ (y ≠ 0 → runs s f b (aluDec o 0x22 (some 1) false) = true → ∃ r : W64,
        r.toInt = a.toInt.tmod y.toInt ∧ exec (.rem f o) s = .next (divd r fun _ => wraps))
    ∧ (y ≠ 0 → runs s f b (aluDec o 0x23 (some 1) false) = true → ∃ r : W64,
        r.toNat = a.toNat % y.toNat ∧ exec (.remu f o) s = .next (divd r fun x => x.v))

/-- MOVL and MOVH replace one quarter of G(rd) (R215); the compares and predicate logic write P(pd) and then not r to P(pe), and a
write of P0 is discarded (R175, R216, R217). -/
def Obligations.MovesComparesPredicates : Prop :=
  ∀ (s : State) (f : FerryNo) (b : BerthNo) (u : LU) (o : LAp) (i : LIp) (l : LAl),
    let c := s.ctx b
    let old := c.getG u.rd.toNat
    let mv := fun (r : W64) => did s f b fun c => c.setG u.rd.toNat r
    let cond := fun (k : Nat) (a y : W64) => match k with
      | 0 => decide (a = y) | 1 => decide (a ≠ y) | 2 => decide (a.toInt < y.toInt) | 3 => decide (a.toInt ≥ y.toInt)
      | 4 => decide (a.toNat < y.toNat) | 5 => decide (a.toNat ≥ y.toNat) | 6 => decide (a.toInt > y.toInt)
      | 7 => decide (a.toInt ≤ y.toInt) | 8 => decide (a.toNat > y.toNat) | 9 => decide (a.toNat ≤ y.toNat)
      | _ => decide (a &&& y ≠ 0)
    let pair := fun (pd pe : BitVec 3) (r : Bool) => did s f b fun c => (c.setP pd r).setP pe (!r)
    let px := c.getP l.pa != l.na
    let py := c.getP l.pb != l.nb
    let decL := fun fn bad => ({ word := wordAl l 0x0A fn, major := 0x0A, g := l.g, fieldBad := l.res != 0 || bad, cls := .alu } : Dec)
    (runs s f b { word := wordU u 0x06, major := 0x06, g := u.g, cls := .alu } = true → ∃ r : W64,
        r.toNat = (if u.k then old.toNat - old.toNat / 2 ^ 16 % 2 ^ 16 * 2 ^ 16 + u.imm.toNat * 2 ^ 16 else u.imm.toNat)
        ∧ exec (.movl f u) s = .next (mv r))
    ∧ (runs s f b { word := wordU u 0x07, major := 0x07, g := u.g, cls := .alu } = true → ∃ r : W64,
        r.toNat = (if u.k then old.toNat % 2 ^ 48 + u.imm.toNat * 2 ^ 48
                   else old.toNat - old.toNat / 2 ^ 32 % 2 ^ 16 * 2 ^ 32 + u.imm.toNat * 2 ^ 32)
        ∧ exec (.movh f u) s = .next (mv r))
    ∧ (runs s f b { word := wordAp o 0x08, major := 0x08, g := o.g, enumBad := decide (10 < o.cond.toNat), cls := .alu } = true →
        exec (.cmp f o) s = .next (pair o.pd o.pe (cond o.cond.toNat (c.getG o.ra.toNat) (c.getG o.rb.toNat))))
    ∧ (runs s f b { word := wordIp i 0x09, major := 0x09, g := i.g, enumBad := decide (9 < i.cond.toNat), cls := .alu } = true →
        exec (.cmpi f i) s = .next (pair i.pd i.pe (cond i.cond.toNat (c.getG i.ra.toNat) (i.imm.signExtend 64))))
    ∧ (runs s f b (decL 0 false) = true → exec (.pand f l) s = .next (pair l.pd l.pe (px && py)))
    ∧ (runs s f b (decL 1 false) = true → exec (.por f l) s = .next (pair l.pd l.pe (px || py)))
    ∧ (runs s f b (decL 2 false) = true → exec (.pxor f l) s = .next (pair l.pd l.pe (px != py)))
    ∧ (runs s f b (decL 3 (l.pb != 0 || l.nb)) = true → exec (.pmov f l) s = .next (pair l.pd l.pe px))
    ∧ (∀ (k : Ctx) (p q : BitVec 3) (v : Bool), (k.setP p v).getP q = if q = 0 then true else if p = q then v else k.getP q)
    ∧ (c.getG 0 = 0 ∧ ∀ (k : Ctx) (v : W64), k.setG 0 v = k)

/-- NOP retires and changes nothing of its own (R211); and a row whose guard is false retires with no effect (R174): shown for NOP and
for each kind of row. What retirement adds to an instruction's own effect `u` (R182, R186, R188): execution goes on at the next
instruction, or the loop stack sends it back to the start of a level whose count is not used up; a load of the instruction before
lands, unless the instruction wrote or loads that register itself; the rest of the Berth, every other Berth and the rest of the block
stay as the effect left them. -/
def Obligations.NopGuardRetirement : Prop :=
  (∀ (s : State) (f : FerryNo) (b : BerthNo),
      (∀ w : W32, isNop w = true →
        runs s f b { word := w, major := w.toNat / 2 ^ 22 % 64, g := guardOf w, fieldBad := w.toNat % 2 ^ 22 != 0, cls := .alu } = true →
        exec (.nop f w) s = .next (retired s f b .alu 1 (atEffect s f b .alu)))
      ∧ (∀ (a : LA) (m : LM) (l : LB) (sb : LSb),
        let wasted := fun (c : Instr) (d : Dec) =>
          quiet s f b = true → decodeFault s (s.ctx b) d = none → (s.ctx b).guard d.g = false →
          exec c s = .next (retired s f b d.cls 2 (atEffect s f b d.cls))
        wasted (.add f a) (aluDec a 0x00 none false) ∧ wasted (.div f a) (aluDec a 0x20 (some 1) false)
        ∧ wasted (.ldD f m) (decM m 0x0C 3) ∧ wasted (.stD f m) (decM m 0x0D 3)
        ∧ wasted (.br f l) { word := wordB l 0x14, major := 0x14, g := l.g }
        ∧ wasted (.call f l) { word := wordB l 0x15, major := 0x15, g := l.g }
        ∧ wasted (.bset f sb) (bitDec sb 0 (sb.p != 0))))
  ∧ (∀ (s u : State) (f : FerryNo) (b : BerthNo) (k : LockCls) (ev : Nat), (u.ferry f).berth = some b →
      let d := u.ctx b
      let t := retired s f b k ev u
      let c := t.ctx b
      coreKept u t ∧ (∀ x, x ≠ b → t.berth x = u.berth x) ∧ ctxKept d c ∧ c.flags = d.flags ∧ c.p = d.p
      ∧ ((∀ l rest, d.loops = l :: rest → l.stop ≠ d.pc) → c.pc = d.pc + 4 ∧ c.loops = d.loops)
      ∧ (∀ l rest, d.loops = l :: rest → l.stop = d.pc → l.count ≠ 1 →
          c.pc = l.start ∧ c.loops = { l with count := l.count - 1 } :: rest)
      ∧ (∀ l rest, d.loops = l :: rest → l.stop = d.pc → l.count = 1 → (∀ m r, rest = m :: r → m.stop ≠ d.pc) →
          c.pc = d.pc + 4 ∧ c.loops = rest)
      ∧ (∀ j, j ∉ (s.ctx b).late.map (·.1) → j ∉ d.late.map (·.1) → Table.get 0 c.g j = Table.get 0 d.g j)
      ∧ (∀ j v, (s.ctx b).late = [(j, v)] → j ∉ d.wrote → j ∉ d.late.map (·.1) → Table.get 0 c.g j = v)
      ∧ (k = .alu → ∀ l, d.lock = some l → c.lock = if l.count + 1 < 8 then some { l with count := l.count + 1 } else none))

/-- The frame of the instructions that only write one general register and FLAGS: nothing else of the Berth, no other Berth,
no byte of memory and no other register of the block changes (R173, R213 to R215); with the f bit clear FLAGS stay too. -/
def Obligations.RegisterInstructionFrame : Prop :=
  ∀ (s t : State) (f : FerryNo) (b : BerthNo) (o : LA) (i : LI) (h : LIh),
    (∀ p ∈ [(Instr.add f o, aluDec o 0x00 none false), (.sub f o, aluDec o 0x01 none false), (.neg f o, aluDec o 0x02 none true),
        (.adc f o, aluDec o 0x03 none false), (.sbc f o, aluDec o 0x04 none false), (.andR f o, aluDec o 0x08 none false),
        (.orR f o, aluDec o 0x09 none false), (.xorR f o, aluDec o 0x0A none false), (.andn f o, aluDec o 0x0B none false),
        (.nor f o, aluDec o 0x0C none false), (.shl f o, aluDec o 0x10 none false), (.shr f o, aluDec o 0x11 none false),
        (.sar f o, aluDec o 0x12 none false), (.ror f o, aluDec o 0x13 none false), (.mul f o, aluDec o 0x18 none false),
        (.mulh f o, aluDec o 0x19 (some 0) false), (.mulhu f o, aluDec o 0x1A (some 0) false),
        (.min f o, aluDec o 0x28 none false), (.max f o, aluDec o 0x29 none false), (.minu f o, aluDec o 0x2A none false),
        (.maxu f o, aluDec o 0x2B none false), (.clz f o, aluDec o 0x30 none true), (.popc f o, aluDec o 0x31 none true),
        (.bswap f o, aluDec o 0x32 none true)],
      runs s f b p.2 = true → exec p.1 s = .next t →
        regFrame s t b o.rd.toNat ∧ (t.ctx b).p = (s.ctx b).p ∧ (o.f = false → (t.ctx b).flags = (s.ctx b).flags)
        ∧ (t.ctx b).flags.dz = (s.ctx b).flags.dz)
    ∧ (∀ p ∈ [(Instr.addi f i, 0x02), (.andi f i, 0x03), (.ori f i, 0x04)],
      runs s f b { word := wordI i p.2, major := p.2, g := i.g, cls := .alu } = true → exec p.1 s = .next t →
        regFrame s t b i.rd.toNat ∧ (t.ctx b).p = (s.ctx b).p ∧ (i.f = false → (t.ctx b).flags = (s.ctx b).flags))
    ∧ (∀ p ∈ [(Instr.shli f h, 0), (.shri f h, 1), (.sari f h, 2), (.rori f h, 3)],
      runs s f b { word := wordIh h 0x05 p.2, major := 0x05, g := h.g, fieldBad := h.res != 0, cls := .alu } = true →
      exec p.1 s = .next t →
        regFrame s t b h.rd.toNat ∧ (t.ctx b).p = (s.ctx b).p ∧ (h.f = false → (t.ctx b).flags = (s.ctx b).flags))

/-! ### Memory through segments (R176 to R182, R188, R191 to R193, R218 to R221) -/

/-- The checks of a segment, in order (R177): the offset and the last byte within the limit, the right, the block address within 48
bits; cause 0x06 or 0x07 with the offset as info. The load, the store and the fetch (R178) make them before the access. What a load
that is made brings, and what a store that is made leaves, in the Ferry's local data, the Pontoons, the program stores and the staging
memory whose ports run and owe nothing: the bytes at base + offset, in order; no other byte of any memory changes, and no other Ferry's
local data. In the local data nothing stops an access that the segment passes, but a full write buffer a store (R270). -/
def Obligations.SegmentAccess : Prop :=
  (∀ (s : State) (b : BerthNo) (f : FerryNo) (n : Nat) (o : W64) (z : Nat) (single : Bool) (l : List Byte), 0 < z → l.length = z →
      let x := (s.ctx b).seg n
      let bad := fun (k : Bool) => if 0xFFFFFFFF < o.toNat ∨ x.limit.toNat < o.toNat + z - 1 then some 0x06
        else if k = false then some 0x07
        else if 0xFFFFFFFFFFFF < x.base.toNat + o.toNat + z - 1 then some 0x06 else (none : Option Nat)
      let exc := fun (c : Nat) => ({ cause := c, info := o, info2 := BitVec.ofNat 64 n } : Exc)
      (∀ c, bad x.r = some c → segLoad s b f n o z single = (s, .exc (exc c)))
      ∧ (∀ c, bad x.w = some c → segStore s b f n o l single = (s, .exc (exc c)))
      ∧ (∀ c, n = 0 → z = 4 → o = (s.ctx b).pc.setWidth 64 → bad x.x = some c →
          fetchCheck s b f false (s.ctx b).pc = (s, .exc (exc c)))
      ∧ (segLoad s b f n o z single).1.mem = s.mem
      ∧ (x.base.toNat + o.toNat + z ≤ 0x8000 → (bad x.r = none → passed (segLoad s b f n o z single) = true)
          ∧ (bad x.w = none → bufferFull s f = false → passed (segStore s b f n o l single) = true)))
  ∧ (∀ (s t : State) (b : BerthNo) (f : FerryNo) (n : Nat) (o : W64) (single : Bool) (l : List Byte), memOk s = true → l ≠ [] →
      let a := ((s.ctx b).seg n).base.toNat + o.toNat
      let here := fun (z : Nat) => a + z ≤ 0x8000
      let there := fun (z : Nat) => (0x10000000 ≤ a ∧ a + z ≤ 0x30000000) ∨ stagingBase ≤ a
      (segLoad s b f n o l.length single = (t, .ok l) → t.mem = s.mem
        ∧ (here l.length → ∀ k < l.length, l[k]? = some (memGet (s.ferry f).localMem (a + k)))
        ∧ (there l.length → ∀ k < l.length, l[k]? = some (memGet s.mem (a + k))))
      ∧ (segStore s b f n o l single = (t, .ok ()) →
        (here l.length → t.mem = s.mem ∧ (∀ g, g ≠ f → (t.ferry g).localMem = (s.ferry g).localMem)
          ∧ ∀ x, memGet (t.ferry f).localMem x = if a ≤ x ∧ x < a + l.length then l.getD (x - a) 0 else memGet (s.ferry f).localMem x)
        ∧ (there l.length → (∀ p, flagAt s.ports.stgRst p = false) → s.ports.stgWrites = [] → (∀ g, (t.ferry g).localMem = (s.ferry g).localMem)
          ∧ ∀ x, memGet t.mem x = if a ≤ x ∧ x < a + l.length then l.getD (x - a) 0 else memGet s.mem x)))

/-- The ordinary loads: the bytes at S(sa) offset G(ra) + disp × z, zero- or sign-extended, come to G(rd) after the next instruction,
and a load to G0 is discarded (R188, R218, R219). The ordinary stores: the low bytes of G(rd) go to S(sa) offset G(ra) + disp × z
(R218, R219); ST.DU ends a LOCK hold once its store is made (R182). Each completes whenever its access is made. -/
def Obligations.LoadsAndStores : Prop :=
  ∀ (s : State) (f : FerryNo) (b : BerthNo) (o : LM),
    let off := fun (z : Nat) => (s.ctx b).getG o.ra.toNat + o.disp.signExtend 64 * BitVec.ofNat 64 z
    let load := fun (z : Nat) => segLoad (atEffect s f b .other) b f o.sa.toNat (off z) z true
    let loads := fun (c : Instr) (fn z : Nat) (sx : Bool) =>
      runs s f b (decM o 0x0C fn) = true → passed (load z) = true →
        let n := natOfBytes (bytesGot (load z))
        let v := if sx then BitVec.ofInt 64 ((n : Int).bmod (2 ^ (8 * z))) else BitVec.ofNat 64 n
        exec c s = .next (loaded s f b (load z).1 o.rd.toNat v)
    let store := fun (k : LockCls) (z : Nat) =>
      segStore (atEffect s f b k) b f o.sa.toNat (off z) (bytesOfNat z ((s.ctx b).getG o.rd.toNat).toNat) true
    let stores := fun (c : Instr) (fn z : Nat) =>
      runs s f b (decM o 0x0D fn) = true → passed (store .other z) = true →
        exec c s = .next (retired s f b .other 1 (countEv (store .other z).1 b 7))
    loads (.ldB f o) 0 1 false ∧ loads (.ldH f o) 1 2 false ∧ loads (.ldW f o) 2 4 false ∧ loads (.ldD f o) 3 8 false
    ∧ loads (.ldBs f o) 4 1 true ∧ loads (.ldHs f o) 5 2 true ∧ loads (.ldWs f o) 6 4 true
    ∧ stores (.stB f o) 0 1 ∧ stores (.stH f o) 1 2 ∧ stores (.stW f o) 2 4 ∧ stores (.stD f o) 3 8
    ∧ (runs s f b { decM o 0x0D 4 with group := some 3, cls := .unlock } = true → passed (store .unlock 8) = true →
        let u := (store .unlock 8).1
        exec (.stDu f o) s = .next (retired s f b .unlock 1 (countEv u b 7))
        ∧ ((u.ferry f).berth = some b → ((retired s f b .unlock 1 (countEv u b 7)).ctx b).lock = none))

/-- A load or store whose access raises an exception has no other effect than to take it, with its own PC in the frame (R180,
R243). -/
def Obligations.FaultingAccessTakesException : Prop :=
  ∀ (s u t : State) (f : FerryNo) (b : BerthNo) (o : LM) (e : Exc), raised s f b u e (s.ctx b).pc = some t →
    let off := fun (z : Nat) => (s.ctx b).getG o.ra.toNat + o.disp.signExtend 64 * BitVec.ofNat 64 z
    let x := atEffect s f b .other
    (∀ p ∈ [(Instr.ldB f o, 0, 1), (.ldH f o, 1, 2), (.ldW f o, 2, 4), (.ldD f o, 3, 8), (.ldBs f o, 4, 1), (.ldHs f o, 5, 2), (.ldWs f o, 6, 4)],
      runs s f b (decM o 0x0C p.2.1) = true → segLoad x b f o.sa.toNat (off p.2.2) p.2.2 true = (u, .exc e) → exec p.1 s = .next t)
    ∧ (∀ p ∈ [(Instr.stB f o, 0, 1), (.stH f o, 1, 2), (.stW f o, 2, 4), (.stD f o, 3, 8)],
      runs s f b (decM o 0x0D p.2.1) = true →
      segStore x b f o.sa.toNat (off p.2.2) (bytesOfNat p.2.2 ((s.ctx b).getG o.rd.toNat).toNat) true = (u, .exc e) → exec p.1 s = .next t)
    ∧ (∀ p ∈ [(Instr.ldw16 f o, 0, 2), (.ldw32 f o, 1, 4), (.ldw64 f o, 2, 8), (.stw16 f o, 4, 2), (.stw32 f o, 5, 4), (.stw64 f o, 6, 8)],
      runs s f b (wideDec o p.2.1 p.2.2) = true → (((s.ctx b).seg o.sa.toNat).base.setWidth 64 + off (8 * p.2.2)).toNat % (8 * p.2.2) ≠ 0 →
      e = { cause := 0x08, info := off (8 * p.2.2), info2 := BitVec.ofNat 64 o.sa.toNat } → u = x → exec p.1 s = .next t)

/-- The wide moves: aligned to their size, register G(rd + j) holds bytes 8j to 8j + 7; G0 discards its part and stores zero (R180,
R220). -/
def Obligations.WideMoves : Prop :=
  ∀ (s : State) (f : FerryNo) (b : BerthNo) (o : LM),
    let c := s.ctx b
    let off := fun (n : Nat) => c.getG o.ra.toNat + o.disp.signExtend 64 * BitVec.ofNat 64 (8 * n)
    let ready := fun (fn n : Nat) => runs s f b (wideDec o fn n) = true ∧ ((c.seg o.sa.toNat).base.setWidth 64 + off n).toNat % (8 * n) = 0
    let load := fun (n : Nat) => segLoad (atEffect s f b .other) b f o.sa.toNat (off n) (8 * n) false
    let key := fun (k : Ctx) (j : Nat) => if o.rd.toNat + j = 30 ∧ k.sup then 32 else o.rd.toNat + j
    let loads := fun (k : Ctx) (n : Nat) => (List.range n).filterMap fun j =>
      if o.rd.toNat + j = 0 then none
      else some (key k j, BitVec.ofNat 64 (natOfBytes (((bytesGot (load n)).drop (8 * j)).take 8)))
    let bytes := fun (n : Nat) => ((List.range n).map fun j => bytesOfNat 8 (c.getG (o.rd.toNat + j)).toNat).flatten
    let store := fun (n : Nat) => segStore (atEffect s f b .other) b f o.sa.toNat (off n) (bytes n) false
    (∀ p ∈ [(Instr.ldw16 f o, 0, 2), (.ldw32 f o, 1, 4), (.ldw64 f o, 2, 8)], ready p.2.1 p.2.2 → passed (load p.2.2) = true →
      exec p.1 s = .next (retired s f b .other 1
        (countEv ((load p.2.2).1.modCtx b fun k => { k with late := k.late ++ loads k p.2.2 }) b 6)))
    ∧ (∀ p ∈ [(Instr.stw16 f o, 4, 2), (.stw32 f o, 5, 4), (.stw64 f o, 6, 8)], ready p.2.1 p.2.2 → passed (store p.2.2) = true →
      exec p.1 s = .next (retired s f b .other 1 (countEv (store p.2.2).1 b 7)))

/-- LOCK loads the word and holds its 64-byte Pontoon word; SWAP stores G(rd) and returns the old word; CAS stores G(rd + 1) on a match
only, and returns the old word in any case (R181, R182, R221). Each completes whenever its access is made: aligned to 8, with the rights of
the segment (r, and w too but for LOCK), past the Tollgate as an atomic (R343) and behind it, in a Pontoon if it is a LOCK. An address that
is not a multiple of 8 raises cause 0x08, and a LOCK off the Pontoons cause 0x07. -/
def Obligations.AtomicsReadThenWrite : Prop :=
  ∀ (s : State) (f : FerryNo) (b : BerthNo) (o : LM),
    let c := s.ctx b
    let x := atEffect s f b .other
    let off := c.getG o.ra.toNat + o.disp.signExtend 64 * 8
    let seg := (x.ctx b).seg o.sa.toNat
    let at' := seg.base.toNat + off.toNat
    let aligned := (seg.base.setWidth 64 + off).toNat % 8 = 0
    let decL : Dec := { decM o 0x0F 0 with group := some 3 }
    let decS : Dec := { decM o 0x0F 1 with group := some 4 }
    let decC : Dec := { decM o 0x0F 2 with group := some 5, fieldBad := o.rd.toNat % 2 != 0 }
    let load := fun (k : Right) (lock : Bool) => atomLoad x b f o.sa.toNat off k lock
    let found := fun (k : Right) (lock : Bool) => passed (load k lock) = true
    let u := (load .rw false).1
    let a := (wordGot (load .rw false)).1
    let v := (wordGot (load .rw false)).2
    let q := ferAcc x b f false
    let out := fun (w : State) => Host.Outcome.next (φ := Fault) (ρ := Refusal) (retired s f b .other 1 (countEv w b 8))
    (runs s f b decL = true → found .r true → exec (.lock f o) s = out ((load .r true).1.modCtx b fun c =>
      { c.setG o.rd.toNat (wordGot (load .r true)).2 with lock := some { word := (wordGot (load .r true)).1 / 64, count := 0 } }))
    ∧ (runs s f b decS = true → found .rw false →
      exec (.swap f o) s = out ((atomStore u b f a (c.getG o.rd.toNat)).modCtx b fun c => c.setG o.rd.toNat v))
    ∧ (runs s f b decC = true → found .rw false → v = c.getG o.rd.toNat →
      exec (.cas f o) s = out ((atomStore u b f a (c.getG (o.rd.toNat + 1))).modCtx b fun c => c.setG o.rd.toNat v))
    ∧ (runs s f b decC = true → found .rw false → v ≠ c.getG o.rd.toNat →
      exec (.cas f o) s = out (u.modCtx b fun c => c.setG o.rd.toNat v))
    ∧ (∀ k lock, found k lock → (wordGot (load k lock)).1 = at' ∧ at' % 8 = 0 ∧ (lock = true → 0x10000000 ≤ at' ∧ at' < 0x18000000))
    ∧ (∀ k lock, aligned → segCheck (x.ctx b) o.sa.toNat off 8 k = .ok at' → inRegs (ferrySpan f) at' = false →
        (lock = true → inAnyPontoon at' = true) → (gateOnce x q (busyKey q) false .atomic at' 8).2 = none →
        (piecesFault x q false (wordsOf 2 at' 8)).2 = none → found k lock)
    ∧ (∀ k lock, ¬ aligned → load k lock = (x, .exc { cause := 0x08, info := off, info2 := BitVec.ofNat 64 o.sa.toNat }))
    ∧ (∀ k, aligned → segCheck (x.ctx b) o.sa.toNat off 8 k = .ok at' → inRegs (ferrySpan f) at' = false → inAnyPontoon at' = false →
        load k true = (x, .exc { cause := 0x07, info := off, info2 := BitVec.ofNat 64 o.sa.toNat }))

/-- MOVB, FILL and CRC64 retire when their granules are made; a count of 0 retires at once with nothing changed (R192). A granule of MOVB
or FILL goes to the next multiple of 64 of the destination, within the count and the 65,536 bytes of one execution, and then the offsets
advance and the count falls; of CRC64 the accumulator is updated as well (R191, R193, R221). -/
def Obligations.LongInstructions : Prop :=
  ∀ (s u v : State) (f : FerryNo) (b : BerthNo) (o : LMl) (l : List Byte) (moved : Nat),
    let step := (s.ferry f).step
    let out := fun (w : State) => Host.Outcome.next (φ := Fault) (ρ := Refusal) (retired s f b .other 1 w)
    let ran := fun (h : FerryNo → LMl → BerthNo → Nat → State → State × Granule) (n : Nat) =>
      runGranules (h f o b) b step n 0 false (atEffect s f b .other)
    let c := s.ctx b
    let rd := o.rd.toNat
    let dst := c.getG rd
    let n := (c.getG (rd + 1)).toNat
    let k := min (min n (65536 - moved)) (64 - dst.toNat % 64)
    let kc := min n (64 - dst.toNat % 64)
    let next := fun (k : Nat) => if n - k = 0 ∨ 65536 ≤ moved + k then Granule.last else .more (moved + k)
    let kw := BitVec.ofNat 64 k
    let fill := (List.range k).map fun j => (bytesOfNat 8 (c.getG o.ra.toNat).toNat).getD ((dst.toNat + j) % 8) 0
    (runs s f b (longDec o 4 6 true) = true →
      (n = 0 → exec (.movb f o) s = out (atEffect s f b .other))
      ∧ ((ran movbGranule 65537).2 = .next → exec (.movb f o) s = out (ran movbGranule 65537).1))
    ∧ (runs s f b (longDec o 5 7 false) = true →
      (n = 0 → exec (.fill f o) s = out (atEffect s f b .other))
      ∧ ((ran fillGranule 65537).2 = .next → exec (.fill f o) s = out (ran fillGranule 65537).1))
    ∧ (runs s f b (longDec o 6 8 false) = true →
      (n = 0 → exec (.crc64 f o) s = out (atEffect s f b .other))
      ∧ ((ran crcGranule (n + 1)).2 = .next → exec (.crc64 f o) s = out (ran crcGranule (n + 1)).1))
    ∧ (0 < n → moved < 65536 → segLoad s b f o.sb.toNat (c.getG o.ra.toNat) k false = (u, .ok l) →
      segStore u b f o.sa.toNat dst l false = (v, .ok ()) →
      movbGranule f o b moved s = (v.modCtx b fun c =>
        ((c.setG rd (c.getG rd + kw)).setG o.ra.toNat (c.getG o.ra.toNat + kw)).setG (rd + 1) (c.getG (rd + 1) - kw), next k))
    ∧ (0 < n → moved < 65536 → segStore s b f o.sa.toNat dst fill false = (v, .ok ()) →
      fillGranule f o b moved s = (v.modCtx b fun c => (c.setG rd (c.getG rd + kw)).setG (rd + 1) (c.getG (rd + 1) - kw), next k))
    ∧ (0 < n → segLoad s b f o.sa.toNat dst kc false = (u, .ok l) →
      crcGranule f o b moved s = (u.modCtx b fun q => ((q.setG rd (q.getG rd + BitVec.ofNat 64 kc)).setG (rd + 1)
        (q.getG (rd + 1) - BitVec.ofNat 64 kc)).setG o.ra.toNat (crc64 (c.getG o.ra.toNat) l), if n = kc then .last else .more moved))
    ∧ (∀ (r : W64) (x : Byte) (m : List Byte), crc64 r (x :: m) = crc64 ((List.range 8).foldl
        (fun r j => (r <<< 1) ^^^ (if r.msb != x.getLsbD (7 - j) then 0x42F0E1EBA9EA3693 else 0)) r) m)

/-! ### B-space, control transfer, loops (R184 to R187, R194, R222 to R225) -/

/-- The B-space instructions act on the bit at (G(ra) + off)[17:0] of the Berth's world in its own Span, reserved bits aside (R184, R185,
R222); BSCAN finds the first 1 bit from its position on, or none (R194). -/
def Obligations.BitSpaceInstructions : Prop :=
  ∀ (s : State) (f : FerryNo) (b : BerthNo) (o : LSb),
    let c := s.ctx b
    let x := atEffect s f b .other
    let i := berthSpan b
    let a := (c.getG o.ra.toNat + o.off.setWidth 64).toNat % 262144
    let old := s.bit i c.north a
    let put := fun (v : Bool) => x.setBit i c.north a v
    let dest := fun (w : State) => w.modCtx b fun c => c.setP o.p old
    let out := fun (w : State) => Host.Outcome.next (φ := Fault) (ρ := Refusal) (retired s f b .other 1 w)
    let ok := fun (fn : Nat) (bad : Bool) => runs s f b (bitDec o fn bad) = true
    let lo := (c.getG o.ra.toNat).toNat % 262144
    let n := (c.getG (o.ra.toNat + 1)).toNat
    (ok 0 (o.p != 0) → exec (.bset f o) s = out (put true)) ∧ (ok 1 (o.p != 0) → exec (.bclr f o) s = out (put false))
    ∧ (ok 2 (o.p != 0) → exec (.binv f o) s = out (put (!old)))
    ∧ (ok 3 false → exec (.btst f o) s = out (dest (put old)))
    ∧ (ok 4 false → exec (.bmov f o) s = out (put (c.getP o.p)))
    ∧ (ok 5 false → exec (.btas f o) s = out (dest (put true)))
    ∧ (runs s f b { bitDec o 6 (o.ra.toNat % 2 != 0 || o.ra == 0 || o.off != 0) with group := some 9 } = true →
        (s.ferry f).step = false → ((s.span i).bits c.north).Pairwise (· < ·) →
        ∃ w, exec (.bscan f o) s = out w ∧ w.mem = s.mem ∧ w.spans = s.spans
          ∧ (∀ j, lo ≤ j → j < lo + n → j < 262144 → s.bit i c.north j = true → (∀ k, lo ≤ k → k < j → s.bit i c.north k = false) →
              (w.ctx b).getG o.ra.toNat = BitVec.ofNat 64 j ∧ (w.ctx b).getG (o.ra.toNat + 1) = BitVec.ofNat 64 (n - (j - lo))
              ∧ (w.ctx b).getP o.p = true)
          ∧ ((∀ j, lo ≤ j → j < lo + n → j < 262144 → s.bit i c.north j = false) →
              (w.ctx b).getG o.ra.toNat = BitVec.allOnes 64 ∧ (w.ctx b).getG (o.ra.toNat + 1) = 0
              ∧ (o.p ≠ 0 → (w.ctx b).getP o.p = false)))
    ∧ (∀ (t : State) (j : SpanNo) (w : Bool) (k m : Nat) (v : Bool),
        (t.setBit j w k v).bit j w m = if m = k then v && decide (k < 0x3F040) else t.bit j w m)

/-- BR, CALL, JR, RET and CALLR go to their target, and a call writes G31 (R223); a taken branch, jump or return pops the levels that it
leaves, and a call pops none (R187); a target that is not a multiple of 4, or lies above the limit of S0, raises its cause (R224). -/
def Obligations.ControlTransfers : Prop :=
  ∀ (s : State) (f : FerryNo) (b : BerthNo) (o : LA) (d : LB),
    let c := s.ctx b
    let x := atEffect s f b .other
    let near := c.pc.setWidth 64 + 4 * d.disp.signExtend 64
    let good := fun (t : W64) => t.toNat % 4 = 0 ∧ t.toNat ≤ (c.seg 0).limit.toNat
    let went := fun (call : Bool) (t : W64) => retiredHere s f b .other 1 (countEv (x.modCtx b fun c =>
      { (if call then c.setG 31 ((c.pc + 4).setWidth 64) else { c with loops := popLoops c.pc (t.setWidth 32) c.loops }) with pc := t.setWidth 32 }) b 4)
    let jumps := fun (i : Instr) (d : Dec) (call : Bool) (t : W64) => runs s f b d = true →
      (good t → exec i s = .next (went call t))
      ∧ (t.toNat % 4 ≠ 0 → ∀ w, raised s f b x { cause := 0x08, info := t, info2 := 0 } c.pc = some w → exec i s = .next w)
      ∧ (t.toNat % 4 = 0 → (c.seg 0).limit.toNat < t.toNat →
          ∀ w, raised s f b x { cause := 0x06, info := t, info2 := 0 } c.pc = some w → exec i s = .next w)
    jumps (.br f d) { word := wordB d 0x14, major := 0x14, g := d.g } false near
    ∧ jumps (.call f d) { word := wordB d 0x15, major := 0x15, g := d.g } true near
    ∧ jumps (.jr f o) (jumpDec o 0 true) false (c.getG o.ra.toNat)
    ∧ jumps (.ret f o) (jumpDec o 1 false) false (c.getG 31)
    ∧ jumps (.callr f o) (jumpDec o 2 true) true (c.getG o.ra.toNat)
    ∧ (∀ (pc t : W32) (l : Loop) (r : List Loop), popLoops pc t (l :: r) =
        if (l.start ≤ pc ∧ pc ≤ l.stop) ∧ ¬(l.start ≤ t ∧ t ≤ l.stop) then popLoops pc t r else l :: r)

/-- LOOP with a count pushes its level and goes on at the next instruction; with count 0 it pushes nothing and goes on past its end, whose
end test is made when that is the innermost level's end too; four levels in use raise cause 0x0D (R186, R225). -/
def Obligations.LoopPushesLevel : Prop :=
  ∀ (s : State) (f : FerryNo) (b : BerthNo) (o : LBl),
    let c := s.ctx b
    let x := atEffect s f b .other
    let n := (c.getG o.ra.toNat).setWidth 32
    let stop := c.pc + 4 * (BitVec.ofNat 32 (o.e.toNat + 1))
    let d : Dec := { word := wordBl o 0x17, major := 0x17, g := o.g, fieldBad := o.res != 0 }
    let here := fun (h : Ctx → Ctx) => Host.Outcome.next (φ := Fault) (ρ := Refusal) (retiredHere s f b .other 1 (x.modCtx b h))
    runs s f b d = true →
      (n ≠ 0 → c.loops.length < 4 → exec (.loop f o) s =
        here fun c => { c with loops := { start := c.pc + 4, stop := stop, count := n } :: c.loops, pc := c.pc + 4 })
      ∧ (n ≠ 0 → 4 ≤ c.loops.length → ∀ w,
          raised s f b x { cause := 0x0D, info := d.word.setWidth 64, info2 := 0 } c.pc = some w → exec (.loop f o) s = .next w)
      ∧ (n = 0 → (∀ l r, c.loops = l :: r → l.stop ≠ stop) → exec (.loop f o) s = here fun c => { c with pc := stop + 4 })
      ∧ (n = 0 → ∀ l r, c.loops = l :: r → l.stop = stop → l.count ≠ 1 → exec (.loop f o) s =
          here fun c => { c with loops := { l with count := l.count - 1 } :: r, pc := l.start })

/-! ### Segments, system registers and system instructions (R176, R179, R183, R211, R212, R226, R227, R237 to R257) -/

/-- MTSB and MTSA write a segment's base and attribute register, MFSB and MFSA read them with their reserved bits zero (R176, R226); an
attribute that names the other world grants nothing and is logged (R179). -/
def Obligations.SegmentRegisterMoves : Prop :=
  ∀ (s : State) (f : FerryNo) (b : BerthNo) (o : LA),
    let c := s.ctx b
    let x := atEffect s f b .other
    let n := o.rb.toNat
    let v := c.getG o.ra.toNat
    let out := fun (w : State) => Host.Outcome.next (φ := Fault) (ρ := Refusal) (retired s f b .other 1 w)
    let mine := v.getLsbD 4 = c.north
    let y : Seg := { base := (c.seg n).base, limit := v.extractLsb' 32 32, north := c.north
                     x := decide mine && v.getLsbD 2, w := decide mine && v.getLsbD 1, r := decide mine && v.getLsbD 0 }
    let q := c.seg n
    let attr := q.limit.toNat * 2 ^ 32 + q.north.toNat * 16 + q.x.toNat * 4 + q.w.toNat * 2 + q.r.toNat
    (runs s f b (segDec o 0 (o.rd != 0)) = true →
      exec (.mtsb f o) s = out (x.modCtx b fun c => c.setSeg n { c.seg n with base := v.setWidth 48 }))
    ∧ (runs s f b (segDec o 1 (o.rd != 0)) = true → mine → exec (.mtsa f o) s = out (x.modCtx b fun c => c.setSeg n y))
    ∧ (runs s f b (segDec o 1 (o.rd != 0)) = true → ¬ mine →
        exec (.mtsa f o) s = out (clampLog (x.modCtx b fun c => c.setSeg n y) (srcCode (fwSrc x b)) 3 (fidSeg false n b.val) v 0))
    ∧ (runs s f b (segDec o 2 (o.ra != 0)) = true →
        exec (.mfsb f o) s = out (x.modCtx b fun c => c.setG o.rd.toNat (q.base.setWidth 64)))
    ∧ (runs s f b (segDec o 3 (o.ra != 0)) = true → ∃ r : W64, r.toNat = attr ∧
        exec (.mfsa f o) s = out (x.modCtx b fun c => c.setG o.rd.toNat r))
    ∧ (∀ (k : Ctx) (m p : Nat) (z : Seg), (k.setSeg m z).seg p = if p = m then z else k.seg p)

/-- MFSR brings a system register's value to G(r), whatever register its number names (R227): STATUS of the Berth (R237), the world's vector base, gate and slack-water
registers, the interrupt and timer registers of the Berth, the lifeboat set of the world, the watchdog limit, the features, BCVAL, and the
counters. -/
def Obligations.SystemRegisterReads : Prop :=
  ∀ (s : State) (f : FerryNo) (b : BerthNo) (o : LIs),
    let x := atEffect s f b .other
    let c := x.ctx b
    let w := (s.span (berthSpan b)).world c.north
    let lb := (s.ferry f).lb c.north
    let n := o.num.toNat
    let gives := fun (p : W64 → Prop) => ∃ v, p v ∧
      exec (.mfsr f o) s = .next (retired s f b .other 1 (x.modCtx b fun c => c.setG o.r.toNat v))
    runs s f b (sysDec o.g (wordIs o 0x19 false) n o.res) = true →
      (gives fun _ => True)
      ∧ (n = 0 → gives fun v => v.toNat = b.val * 2 ^ 32 + c.north.toNat * 2 ^ 31 + c.home.toNat * 2 ^ 30 + c.gate.toNat * 2 ^ 29
        + c.slack.toNat * 2 ^ 28 + c.sup.toNat * 2 ^ 24 + c.ipl.toNat * 2 ^ 20 + c.ie.toNat * 2 ^ 19 + c.dzt.toNat * 2 ^ 18)
      ∧ (n = 1 → gives fun v => v.toNat = w.vbar.toNat) ∧ (n = 2 → gives fun v => v.toNat = c.intPend.toNat)
      ∧ (n = 3 → gives fun v => v.toNat = c.intRoute.toNat) ∧ (n = 4 → gives fun v => v = 0)
      ∧ (n = 5 → gives fun v => v = c.timerCmp) ∧ (n = 6 → gives fun v => v.toNat = w.gateEn.toNat)
      ∧ (n = 7 → gives fun v => v.toNat = w.gateSp.toNat) ∧ (n = 8 → gives fun v => v.toNat = w.gateLim.toNat)
      ∧ (∀ k < 8, n = 0x10 + k → gives fun v => v.toNat = (Table.get Seg.zero w.gateSegs k).base.toNat)
      ∧ (n = 0x20 → gives fun v => v.toNat = w.slackLim.toNat) ∧ (n = 0x21 → gives fun v => v.toNat = w.slackStat.toNat)
      ∧ (∀ k < 16, n = 0x30 + k → gives fun v => v = BitVec.ofNat 64 (natOfBytes ((lb.frame.drop (8 * k)).take 8)))
      ∧ (n = 0x40 → gives fun v => v.toNat = lb.berth.toNat * 2 ^ 32 + lb.pcause.toNat * 2 ^ 8 + lb.occ.toNat)
      ∧ (n = 0x41 → gives fun v => v = lb.addr) ∧ (n = 0x80 → gives fun v => v.toNat = c.wdogLim.toNat)
      ∧ (n = 0x81 → gives fun v => v = 0) ∧ (n = 0x110 → gives fun v => v = c.bcval)
      ∧ (∀ k < 8, n = 0x200 + k → gives fun v => v = Table.get 0 c.cntCfg k)
      ∧ (∀ k < 8, n = 0x208 + k → gives fun v => v.toNat = (Table.get 0 c.cntVal k).toNat)
      ∧ (n = 0x219 → gives fun v => v.toNat = c.smp.pc.toNat) ∧ (n = 0x21A → gives fun v => v.toNat = c.smp.addr.toNat)

/-- MTSR writes a system register (R227): of STATUS ipl, ie and dzt alone (R237), VBAR's page (R238), INT_PEND by ones (R254), GATE_LIM
and SLACK_LIM within their ranges (R252, R256), the watchdog with its reload (R257); a read-only register ignores the write. The rows
that name their register: INT_SOFT sets INT_PEND.soft (R254), WDOG_KICK reloads the Berth watchdog (R257), BWDOG_KICK reloads the block
watchdog from its limit and clears expired (R499), and FERRY_CTL starts the refloat of the selected Ferry that is aground (R249). -/
def Obligations.SystemRegisterWrites : Prop :=
  (∀ (s : State) (f : FerryNo) (b : BerthNo) (o : LIs),
      let x := atEffect s f b .other
      let v := (s.ctx b).getG o.r.toNat
      let n := o.num.toNat
      let does := fun (w : State) => exec (.mtsr f o) s = .next (retired s f b .other 1 w)
      let ctx := fun (h : Ctx → Ctx) => does (x.modCtx b h)
      let world := fun (h : WorldRegs → WorldRegs) => does (x.modSpan (berthSpan b) fun i => i.modWorld (s.ctx b).north h)
      runs s f b (sysDec o.g (wordIs o 0x19 true) n o.res) = true →
        (n = 0 → ctx fun c => { c with ipl := v.extractLsb' 20 4, ie := v.getLsbD 19, dzt := v.getLsbD 18 })
        ∧ (n = 1 → ∃ p : W32, p.toNat = v.toNat % 2 ^ 32 / 4096 * 4096 ∧ world fun w => { w with vbar := p })
        ∧ (n = 2 → ctx fun c => { c with intPend := c.intPend &&& ~~~(v.setWidth 6) })
        ∧ (n = 3 → ctx fun c => { c with intRoute := v.setWidth 24 })
        ∧ (n = 4 → ctx fun c => { c with intPend := c.intPend ||| 8 })
        ∧ (n = 5 → v ≠ 0 → v.toNat ≤ s.time.count.toNat →
            ctx fun c => { c with timerCmp := v, timerArmed := false, intPend := c.intPend ||| 1 })
        ∧ (n = 5 → (v = 0 ∨ s.time.count.toNat < v.toNat) → ctx fun c => { c with timerCmp := v, timerArmed := true })
        ∧ (n = 6 → world fun w => { w with gateEn := v.setWidth 32 })
        ∧ (n = 7 → ∃ p : W32, p.toNat = v.toNat % 2 ^ 32 / 64 * 64 ∧ world fun w => { w with gateSp := p })
        ∧ (n = 8 → 1000 ≤ v.toNat % 2 ^ 32 → v.toNat % 2 ^ 32 ≤ 4000000 → world fun w => { w with gateLim := v.setWidth 32 })
        ∧ (n = 0x20 → v.toNat % 2 ^ 14 ≤ 8192 → world fun w => { w with slackLim := v.setWidth 14 })
        ∧ (n = 0x20 → 8192 < v.toNat % 2 ^ 14 → ∃ t, exec (.mtsr f o) s = .next t ∧
            ((t.span (berthSpan b)).world (s.ctx b).north).slackLim = 8192)
        ∧ (n = 0x21 → world fun w => { w with slackStat := 0 })
        ∧ (n = 0x80 → ctx fun c => { c with wdogLim := v.setWidth 32, wdogRem := v.setWidth 32 })
        ∧ (n = 0x60 → does (x.modSpan (berthSpan b) fun i => { i with ferrySel := v.setWidth 8 }))
        ∧ (n = 0x41 ∨ (0x30 ≤ n ∧ n ≤ 0x3F) ∨ n = 0x61 ∨ (0x100 ≤ n ∧ n ≤ 0x108) ∨ n = 0x110 ∨ n = 0x210 → does x))
  ∧ (∀ (s : State) (f : FerryNo) (b : BerthNo) (o : LIk),
      let x := atEffect s f b .other
      let v := (s.ctx b).getG o.r.toNat
      let dec := fun (n : BitVec 12) => sysDec o.g (wordIs { g := o.g, r := o.r, res := o.res, num := n } 0x19 true) n.toNat o.res
      let out := fun (w : State) => Host.Outcome.next (φ := Fault) (ρ := Refusal) (retired s f b .other 1 w)
      let i := berthSpan b
      let g := ferryOf (16 * i.val + (s.span i).ferrySel.toNat % 16)
      (runs s f b (dec 0x004) = true → exec (.intSoft f o) s = out (x.modCtx b fun c => { c with intPend := c.intPend ||| 8 }))
      ∧ (runs s f b (dec 0x081) = true → exec (.wdogKick f o) s = out (x.modCtx b fun c => { c with wdogRem := c.wdogLim }))
      ∧ (runs s f b (dec 0x082) = true → ∃ w, exec (.bwdogKick f o) s = out w ∧ w.gw.bwExpired = false
          ∧ w.gw.bwRem = BitVec.ofNat 32 ((s.hreg 0x5F0020).toNat % 2 ^ 32) ∧ w.berths = x.berths ∧ w.mem = s.mem)
      ∧ (runs s f b (dec 0x062) = true →
          (v.getLsbD 0 = false → exec (.ferryCtl f o) s = out x)
          ∧ (v.getLsbD 0 = true → (x.ferry g).agr.aground = true → (x.ferry g).refloat = false →
              exec (.ferryCtl f o) s = out (x.modFerry g fun y => { y with refloat := true }))))

/-- FENCE ends once no store of its Berth is outstanding, and TFENCE once no access of the Span checked under an older epoch is, and holds its
Ferry until then (R183, R354); YIELD gives up the Ferry and stays ready, or goes on while its lifeboat set is occupied (R233, R248), SLACK opens the window of
SLACK_LIM ticks and SLACKEND closes it (R256), HALT makes the Berth idle and frees its Ferry (R212) or, inside a gate, raises cause 0x0F
(R252), SIGNAL sets the signal bit of Berth j (R184, R233). -/
def Obligations.OrderSlackYieldSignalHalt : Prop :=
  ∀ (s : State) (f : FerryNo) (b : BerthNo) (o : LS) (a : LA),
    let x := atEffect s f b .other
    let i := berthSpan b
    let w := (s.span i).world (s.ctx b).north
    let out := fun (w : State) => Host.Outcome.next (φ := Fault) (ρ := Refusal) (retired s f b .other 1 w)
    let none3 := o.ra != 0 || o.pd != 0 || o.imm != 0
    let j := ((s.ctx b).getG a.ra.toNat).toNat
    let t := spanBerth i ⟨j % 64, Nat.mod_lt _ (by decide)⟩
    let epoch := (s.span i).epoch
    (runs s f b (sysS o 0x01 none3 false) = true →
        ((∀ p ∈ x.ports.stgWrites, p.berth ≠ b.val) → exec (.fence f o) s = out x)
        ∧ ((∃ p ∈ x.ports.stgWrites, p.berth = b.val) → ∃ t, exec (.fence f o) s = .next t ∧ (t.ctx b).pc = (s.ctx b).pc ∧ t.mem = s.mem))
    ∧ (runs s f b (sysS o 0x02 none3 true) = true →
        (olderAccess x i epoch = false → exec (.tfence f o) s = out x)
        ∧ (olderAccess x i epoch = true → exec (.tfence f o) s =
            .next (stepEnd ((settle x b (s.ctx b).late).modBerth b fun y => { y with wait := .fence epoch }) f (s.ferry f).step)))
    ∧ (runs s f b (sysS o 0x0A none3 true) = true →
        ((s.ctx b).slack = true → exec (.slack f o) s = out x)
        ∧ ((s.ctx b).slack = false → w.slackLim ≠ 0 → s.time.lost = false →
            exec (.slack f o) s = out (x.modCtx b fun c => { c with slack := true, slackRem := w.slackLim.toNat }))
        ∧ ((s.ctx b).slack = false → w.slackLim = 0 ∨ s.time.lost = true →
            ∃ v, exec (.slack f o) s = .next v ∧ (v.ctx b).slack = false ∧ v.mem = s.mem))
    ∧ (runs s f b (sysS o 0x0B none3 true) = true →
        exec (.slackend f o) s = out (x.modCtx b fun c => { c with slack := false, slackRem := 0 }))
    ∧ (runs s f b (sysS o 0x0C none3 true) = true →
        ((s.berth b).gate = none → mayLeave s b = true → ∃ v, exec (.haltI f o) s = .next v ∧ (v.berth b).st = .idle ∧ (v.berth b).ferry = none
          ∧ ∀ g, (s.berth b).ferry = some g → (v.ferry g).berth = none)
        ∧ (∀ g, (s.berth b).gate = some g → ∀ v,
            raised s f b x { cause := 0x0F, info := g.n.setWidth 64, info2 := 4 } (s.ctx b).pc = some v → exec (.haltI f o) s = .next v))
    ∧ (runs s f b (berthDec a 0 (a.rd != 0 || a.ra != 0 || a.rb != 0)) = true → 
        (((s.ferry f).lb (s.ctx b).north).occ = false → mayLeave s b = true →
          ∃ v, exec (.yield f a) s = .next v ∧ (v.berth b).st = .ready ∧ (v.berth b).ferry = none
            ∧ (∀ g, (s.berth b).ferry = some g → (v.ferry g).berth = none) ∧ b ∈ readyQ v i (berthPrio s b))
        ∧ (((s.ferry f).lb (s.ctx b).north).occ = true → exec (.yield f a) s = out x))
    ∧ (runs s f b (berthDec a 1 (a.rb != 0)) = true →
        (63 < j → exec (.signal f a) s = out (x.modCtx b fun c => c.setG a.rd.toNat 1))
        ∧ (j ≤ 63 → (s.ctx t).home ≠ (s.ctx b).north → exec (.signal f a) s = out (x.modCtx b fun c => c.setG a.rd.toNat 2))
        ∧ (j ≤ 63 → (s.ctx t).home = (s.ctx b).north →
            exec (.signal f a) s = out ((x.setBit i (s.ctx t).home (0x3F000 + j) true).modCtx b fun c => c.setG a.rd.toNat 0)))

/-- WAIT and WAITT retire at once when their bit is 1, WAITT with P(pd) the bit's value also when its deadline has passed; else the
Berth waits (R212). BAR waits for the members of its group; a Berth that is no member retires with P(pd) := 0, and so does everyone at a
barrier with the twin that cannot be met (R394); BCAST reaches every
member's BCVAL, INT_PEND.bcast and signal bit; CKPT waits, or retires with P(pd) := 0 where it cannot be taken. A Berth that waits
gives up its Ferry, unless the lifeboat set of its world is occupied (R212, R248): it is waiting, at the instruction. -/
def Obligations.WaitInstructions : Prop :=
  (∀ (s : State) (f : FerryNo) (b : BerthNo) (o : LS),
      let c := s.ctx b
      let x := atEffect s f b .other
      let a := (c.getG o.ra.toNat).toNat % 262144
      let set := s.bit (berthSpan b) c.north a
      let d := c.getG (o.ra.toNat + 1)
      let g := o.imm.toNat % 16
      let out := fun (w : State) => Host.Outcome.next (φ := Fault) (ρ := Refusal) (retired s f b .other 1 w)
      let pd := fun (v : Bool) => out (x.modCtx b fun c => c.setP o.pd v)
      let ep := episode s g
      (runs s f b (sysS o 0x06 (o.pd != 0 || o.imm != 0) false) = true →
        (set = true → exec (.wait f o) s = out x)
        ∧ (set = false → exec (.wait f o) s = .next (waits s f b x (.bit (BitVec.ofNat 18 a)))))
      ∧ (runs s f b (sysS o 0x07 (o.ra.toNat % 2 != 0 || o.imm != 0) false) = true →
        (set = true → exec (.waitt f o) s = pd true)
        ∧ (set = false → d.toNat ≤ s.time.count.toNat → exec (.waitt f o) s = pd false)
        ∧ (set = false → s.time.count.toNat < d.toNat → exec (.waitt f o) s = .next (waits s f b x (.bitT (BitVec.ofNat 18 a) d o.pd))))
      ∧ (runs s f b (sysS o 0x03 (o.ra != 0 || o.imm.extractLsb' 4 4 != 0) false) = true →
        (b ∉ ep.members → exec (.bar f o) s = pd false)
        ∧ (b ∈ ep.members → ep.twin = true → s.via.st ≠ .paired ∨ s.via.hbLost = true →
            exec (.bar f o) s = out ((releaseBarrier x g false).modCtx b fun c => c.setP o.pd false))
        ∧ (b ∈ ep.members → ep.twin = false ∨ (s.via.st = .paired ∧ s.via.hbLost = false) → ∃ w, exec (.bar f o) s = .next (waits s f b w (.bar (BitVec.ofNat 4 g) o.pd none))
            ∧ w = { x with barriers := Table.put s.barriers g { ep with arrived := ep.arrived.filter (· != b) ++ [b] } }))
      ∧ (runs s f b (sysS o 0x04 (o.pd != 0 || o.imm.extractLsb' 4 4 != 0) false) = true →
        ∃ w, exec (.bcast f o) s = out w ∧ ∀ m ∈ groupMembers s g, (w.ctx m).bcval = c.getG o.ra.toNat
          ∧ (w.ctx m).intPend.getLsbD 5 = true ∧ w.bit (berthSpan m) (s.ctx m).home (0x3F000 + m.val % 64) = true)
      ∧ (runs s f b (sysS o 0x05 (o.ra != 0 || o.imm != 0) false) = true →
        (ckptGoes s b = false → exec (.ckpt f o) s = pd false)
        ∧ (ckptGoes s b = true → exec (.ckpt f o) s = .next (waits s f b x (.ckpt o.pd 0 none)))
        ∧ (s.via.st ≠ .paired ∨ s.via.role = .mirror → ckptGoes s b = false))
      ∧ (∀ (m : BerthNo), m ∈ groupMembers s g ↔ (s.hreg (0x010000 + (m.val / 64) * 0x1000 + 0x100 + 8 * g)).getLsbD (m.val % 64) = true))
  ∧ (∀ (s u : State) (f : FerryNo) (b : BerthNo) (w : Wait), (u.ferry f).berth = some b → (∀ p n v, w ≠ .ckpt p n v) → (u.berth b).st = .running → mayLeave u b = true →
      let t := waits s f b u w
      (((u.ferry f).lb (u.ctx b).north).occ = false →
        (t.berth b).st = .waiting ∧ (t.berth b).wait = w ∧ (t.berth b).ferry = none ∧ (∀ g, (u.berth b).ferry = some g → (t.ferry g).berth = none)
        ∧ (t.ctx b).pc = (u.ctx b).pc ∧ (t.ctx b).slack = false ∧ t.mem = u.mem)
      ∧ (((u.ferry f).lb (u.ctx b).north).occ = true →
        (t.berth b).st = .running ∧ (t.berth b).wait = w ∧ (t.ferry f).berth = some b ∧ t.mem = u.mem))

/-! ### Exceptions (R209, R238 to R246, R250) -/

/-- Taking an exception (R238, R242 to R244), when its vector can be fetched and its frame pushed: 128 bytes at the supervisor's G30 less
128 through S7, with the PC, STATUS, cause, predicates, FLAGS, loops and infos; then supervisor level, slack water closed, the loop stack
empty, no LOCK hold, and execution at VBAR + 64 times the cause; ipl takes an interrupt's level, and ie, dzt and FLAGS stay. Where the push or
the fetch fails, the frame goes to the lifeboat set of the world, or the Ferry goes aground if that is occupied (R245, R247, R248). -/
def Obligations.ExceptionEntry : Prop :=
  ∀ (s : State) (b : BerthNo) (f : FerryNo) (e : Exc) (pc : W32), memOk s = true → (s.ctx b).late = [] → e.cause < 64 →
    let c := s.ctx b
    let v := ((s.span (berthSpan b)).world c.north).vbar + BitVec.ofNat 32 (e.cause * 64)
    let sp := Table.get 0 c.g 32 - 128
    let a := (c.seg 7).base.toNat + sp.toNat
    -- the vector can be fetched, and the frame lies in a Pontoon that takes it
    (enters s b f e pc = true → 0x10000000 ≤ a → a + 128 ≤ 0x18000000 → ∃ t, takeExc s b f e pc = some t
      ∧ (t.ctx b).pc = v ∧ (t.ctx b).sup = true ∧ (t.ctx b).slack = false ∧ (t.ctx b).loops = [] ∧ (t.ctx b).lock = none
      ∧ Table.get 0 (t.ctx b).g 32 = sp ∧ (t.ctx b).ie = c.ie ∧ (t.ctx b).dzt = c.dzt
      ∧ (t.ctx b).ipl = (if 0x20 < e.cause ∧ e.cause < 0x30 then BitVec.ofNat 4 (e.cause - 0x20) else c.ipl)
      ∧ (t.ctx b).flags = c.flags ∧ (t.ctx b).p = c.p ∧ (t.ctx b).segs = c.segs ∧ (t.ctx b).north = c.north
      ∧ (∀ k, k ≠ 32 → Table.get 0 (t.ctx b).g k = Table.get 0 c.g k)
      ∧ (∀ k, (k < a ∨ a + 128 ≤ k) → memGet t.mem k = memGet s.mem k)
      ∧ (let field := fun (o n : Nat) => natOfBytes ((List.range n).map fun k => memGet t.mem (a + o + k))
         field 0 8 = pc.toNat ∧ field 8 8 = (c.status b).toNat ∧ field 16 1 = e.cause
         ∧ field 17 1 = c.slackMark.toNat + 4 * c.long.toNat ∧ field 18 1 = (c.p ||| 1).toNat ∧ field 19 1 = c.flags.byte
         ∧ field 20 1 = c.loops.length % 256 ∧ field 24 8 = e.info.toNat ∧ field 80 8 = s.time.count.toNat ∧ field 88 8 = e.info2.toNat
         ∧ field 96 16 = 0 ∧ field 112 16 = 0))
    -- the push or the fetch fails with cause `z`
    ∧ (∀ w z, storeClean s f = true → (s.ferry f).agr.aground = false → entry s b f e pc = (w, .exc z) → ∃ t, takeExc s b f e pc = some t
      ∧ (((s.ferry f).lb c.north).occ = true → (t.ferry f).agr.aground = true ∧ (t.ferry f).agr.cause = 0x1A)
      ∧ (((s.ferry f).lb c.north).occ = false → let q := (t.ferry f).lb c.north
          q.occ = true ∧ q.berth = BitVec.ofNat 10 b.val ∧ q.pcause = BitVec.ofNat 6 z.cause ∧ q.addr = z.info
          ∧ q.frame.take 8 = bytesOfNat 8 pc.toNat ∧ (t.ctx b).sup = true ∧ (t.ctx b).ie = false ∧ (t.ctx b).loops = []
          ∧ ((t.ferry f).agr.aground = true ∨ (t.ctx b).pc = v - BitVec.ofNat 32 (e.cause * 64) + 64 * 0x13)))
    -- nothing is taken while the push waits
    ∧ (∀ w, storeClean s f = true → (s.ferry f).agr.aground = false → entry s b f e pc = (w, .wait) → takeExc s b f e pc = none)

/-- The decoder's checks in their order, whatever the guard (R208, R209): cause 0x01, 0x05, 0x02, 0x04, 0x03, with the word as info and the PC
of the word in the frame; so a word in no assigned slot raises cause 0x01, and KEY in the South bank at user level raises 0x04. -/
def Obligations.DecodeChecksInOrder : Prop :=
  ∀ (s t : State) (f : FerryNo) (b : BerthNo) (o : LA) (m : LM) (q : LS) (w : W32),
    let c := s.ctx b
    let faults := fun (i : Instr) (d : Dec) =>
      let on := fun (k : Nat) (j : Nat) => (featReg s k).getLsbD j
      let cause := if d.enumBad then some 0x01
        else if on 0 d.major = false ∨ (∃ k, d.group = some k ∧ on 4 k = false) then some 0x05
        else if d.fieldBad then some 0x02
        else if d.north = true ∧ c.north = false then some 0x04
        else if d.priv = true ∧ c.sup = false then some 0x03 else none
      ∀ k, quiet s f b = true → cause = some k →
        raised s f b (fetched s f b) { cause := k, info := d.word.setWidth 64, info2 := 0 } c.pc = some t → exec i s = .next t
    faults (.add f o) (aluDec o 0x00 none false) ∧ faults (.neg f o) (aluDec o 0x02 none true)
    ∧ faults (.mulh f o) (aluDec o 0x19 (some 0) false) ∧ faults (.ldD f m) (decM m 0x0C 3) ∧ faults (.ldw64 f m) (wideDec m 2 8)
    ∧ faults (.mtsb f o) (segDec o 0 (o.rd != 0)) ∧ faults (.keyInfo f o) (decKey o false 0) ∧ faults (.pkEcdh f o) (decKey o true 8)
    ∧ faults (.cwr f o) (cntDec o 1 7 (o.rd != 0) true)
    ∧ faults (.trap f q) (sysS q 0x08 (q.ra != 0 || q.pd != 0) (decide (224 ≤ q.imm.toNat)))
    ∧ (isNop w = false → slotAssigned w = false →
        faults (.nop f w) { word := w, major := w.toNat / 2 ^ 22 % 64, g := guardOf w, cls := .alu, enumBad := true })

/-- TRAP n below 224 takes cause 0x30 with n as info and the next PC in the frame (R212, R250). TRAP n from 224 on enters the gate of the other
world where that is enabled and valid, with a scrubbed context of which G1 to G7 alone are the caller's, and raises cause 0x0F in a gate, where
it is not enabled, and where it is not valid (R251, R252). RETX at the gate frame is the gate return, which restores the caller but for G1 to G7;
elsewhere it restores PC, predicates, FLAGS, loops, level, ipl, ie and dzt from the 128 bytes at G30, which rises by 128, or raises cause 0x10 for
a frame that does not fit (R246, R251). -/
def Obligations.TrapAndReturn : Prop :=
  ∀ (s : State) (f : FerryNo) (b : BerthNo) (o : LS),
    let c := s.ctx b
    let x := atEffect s f b .other
    let n := o.imm.toNat
    let sp := c.getG 30
    let here := (settle x b c.late).modFerry f fun y => { y with lockWait := false }
    let traps := runs s f b (sysS o 0x08 (o.ra != 0 || o.pd != 0) (decide (224 ≤ n))) = true
    let returns := runs s f b (sysS o 0x09 (o.ra != 0 || o.pd != 0 || o.imm != 0) true) = true
    let e : Exc := { cause := 0x30, info := o.imm.setWidth 64, info2 := 0 }
    let w := (s.span (berthSpan b)).world (!c.north)
    let refused := fun (d : W64) => ∀ t, takeExc (settle x b c.late) b f { cause := 0x0F, info := o.imm.setWidth 64, info2 := d } c.pc = some t →
      exec (.trap f o) s = .next (stepEnd t f (s.ferry f).step)
    let callee := gateCall (settle x b c.late) b f o.imm
    let load := segLoad x b f 7 sp 128 false
    let u := load.1
    let l := bytesGot load
    let st := BitVec.ofNat 64 (natOfBytes ((l.drop 8).take 8))
    let byte := fun (k : Nat) => natOfBytes ((l.drop k).take 1)
    let bad := if st.extractLsb' 29 3 ≠ (c.status b).extractLsb' 29 3 then some 1
      else if 4 < byte 20 then some 2
      else if natOfBytes (l.take 4) % 4 ≠ 0 then some 3 else none
    let plain := ∀ g, (s.berth b).gate = some g → c.gate = true → g.frame ≠ sp
    (traps → n < 224 → enters here b f e (c.pc + 4) = true → ∃ t, takeExc here b f e (c.pc + 4) = some t
      ∧ exec (.trap f o) s = .next (stepEnd t f (s.ferry f).step))
    ∧ (traps → n < 224 → ∀ t, raised s f b x e (c.pc + 4) = some t → exec (.trap f o) s = .next t)
    ∧ (traps → 224 ≤ n → c.gate = true → refused 2)
    ∧ (traps → 224 ≤ n → c.gate = false → w.gateEn.getLsbD (n - 224) = false → refused 1)
    ∧ (traps → 224 ≤ n → c.gate = false → w.gateEn.getLsbD (n - 224) = true → w.gateSp = 0 ∨ (Table.get Seg.zero w.gateSegs 0).x = false → refused 3)
    ∧ (traps → 224 ≤ n → c.gate = false → w.gateEn.getLsbD (n - 224) = true → w.gateSp ≠ 0 → (Table.get Seg.zero w.gateSegs 0).x = true →
      c.late = [] → callee.1.isSome = true → ∃ t, exec (.trap f o) s = .next t ∧ (t.ctx b).north = !c.north ∧ (t.ctx b).home = c.home
        ∧ (t.ctx b).gate = true ∧ (t.ctx b).sup = true ∧ (t.ctx b).ie = false ∧ (t.ctx b).ipl = 0 ∧ (t.ctx b).loops = [] ∧ (t.ctx b).lock = none
        ∧ (t.ctx b).segs = w.gateSegs ∧ (∀ r, 1 ≤ r → r ≤ 7 → Table.get 0 (t.ctx b).g r = Table.get 0 c.g r)
        ∧ (∀ r, 8 ≤ r → r ≤ 31 → Table.get 0 (t.ctx b).g r = 0) ∧ (t.berth b).gate.map (·.caller.pc) = some (c.pc + 4)
        ∧ (t.berth b).gate.map (·.n) = some o.imm)
    ∧ (returns → ∀ g, (s.berth b).gate = some g → c.gate = true → g.frame = sp → c.late = [] → ∃ t, exec (.retx f o) s = .next t
      ∧ (t.berth b).gate = none ∧ (t.ctx b).gate = false ∧ (t.ctx b).pc = g.caller.pc ∧ (t.ctx b).north = g.caller.north
      ∧ (t.ctx b).sup = g.caller.sup ∧ (t.ctx b).ipl = g.caller.ipl ∧ (t.ctx b).ie = g.caller.ie ∧ (t.ctx b).flags = g.caller.flags
      ∧ (t.ctx b).p = g.caller.p ∧ (t.ctx b).loops = g.caller.loops ∧ (t.ctx b).segs = g.caller.segs
      ∧ (∀ r, 1 ≤ r → r ≤ 7 → Table.get 0 (t.ctx b).g r = Table.get 0 c.g r) ∧ (∀ r, 8 ≤ r → Table.get 0 (t.ctx b).g r = Table.get 0 g.caller.g r)
      ∧ t.mem = s.mem ∧ (t.ferry f).localMem = [])
    ∧ (returns → plain → passed load = true →
      (bad = none → ∃ w, exec (.retx f o) s = .next (retiredHere s f b .other 1 w) ∧ w.mem = u.mem
        ∧ (w.ctx b).pc = BitVec.ofNat 32 (natOfBytes (l.take 4)) ∧ (w.ctx b).p = BitVec.ofNat 8 (byte 18)
        ∧ (w.ctx b).flags = Flags.ofByte (byte 19) ∧ (w.ctx b).loops.length = byte 20
        ∧ (w.ctx b).sup = st.getLsbD 24 ∧ (w.ctx b).ipl = st.extractLsb' 20 4 ∧ (w.ctx b).ie = st.getLsbD 19
        ∧ (w.ctx b).dzt = st.getLsbD 18 ∧ (w.ctx b).slack = (u.ctx b).slack
        ∧ Table.get 0 (w.ctx b).g (if c.sup then 32 else 30) = sp + 128)
      ∧ (∀ d, bad = some d → ∀ t, raised s f b u { cause := 0x10, info := sp, info2 := BitVec.ofNat 64 d } c.pc = some t →
          exec (.retx f o) s = .next t))

/-! ### Work given to others (R228 to R234) -/

/-- The ten issue instructions (R79, R228): once the descriptor is read and fewer than four jobs of the Berth are open at the unit, the job
is accepted, G(rd) is the count of jobs accepted from this Berth and extension vector 3 is called (R286); issue.W then retires with the done bit,
or waits for it with the PC moved on. With four jobs open the instruction waits to be accepted. A descriptor outside the Span's Pontoon raises
cause 0x07, and one that is not aligned cause 0x08; any other that may be read is read. -/
def Obligations.IssueAcceptsJob : Prop :=
  ∀ (s : State) (f : FerryNo) (b : BerthNo) (o : LM),
    let c := s.ctx b
    let i := berthSpan b
    let x := atEffect s f b .other
    let off := c.getG o.ra.toNat + o.disp.signExtend 64 * 64
    let a := (c.seg o.sa.toNat).base.toNat + off.toNat
    let desc := readDesc x b f o
    let u := desc.1
    let l := bytesGot desc
    let got := passed desc = true
    let dec := fun (major w : Nat) => ({ word := wordM o major w, major := major, g := o.g } : Dec)
    let took := fun (e : Engine) => countEv (acceptJob u e b l (boundGeos u b e l)) b 5
    let count := fun (e : Engine) => ((Table.get 0 ((u.span i).unit e).accepted b.val + 1).setWidth 64)
    let done := natOfBytes ((l.drop 28).take 4) / 2 * 2 % 262144
    let gives := fun (e : Engine) => callVector ((took e).modCtx b fun c => c.setG o.rd.toNat (count e)) f b 3
      (BitVec.ofNat 64 (engineIdx e + 1)) (BitVec.ofNat 64 (a % 2 ^ 32))
    let aligned := ((c.seg o.sa.toNat).base.setWidth 64 + off).toNat % 64 = 0
    let q := ferAcc x b f false
    let rows := [(Instr.truss f o, 0x20, Engine.truss), (.sealU f o, 0x21, .sealU), (.cmpr f o, 0x22, .cmpr), (.hash f o, 0x23, .hash),
          (.xfer f o, 0x1C, .tender)]
    let rowsW := [(Instr.trussW f o, 0x20, Engine.truss), (.sealUW f o, 0x21, .sealU), (.cmprW f o, 0x22, .cmpr), (.hashW f o, 0x23, .hash),
          (.xferW f o, 0x1C, .tender)]
    (∀ p ∈ rows, runs s f b (dec p.2.1 0) = true → got → openJobs ((u.span i).unit p.2.2) b < 4 →
        exec p.1 s = .next (retired s f b .other 1 (gives p.2.2)))
    ∧ (∀ p ∈ rowsW, runs s f b (dec p.2.1 1) = true → got → openJobs ((u.span i).unit p.2.2) b < 4 →
        let v := (gives p.2.2).modCtx b Ctx.advance
        exec p.1 s = .next (if v.bit i (v.ctx b).north done then retiredHere s f b .other 1 v
          else waits s f b v (.unit p.2.2 (BitVec.ofNat 18 done))))
    ∧ (∀ p ∈ rows ++ rowsW, runs s f b (dec p.2.1 (if p ∈ rows then 0 else 1)) = true → got → 4 ≤ openJobs ((u.span i).unit p.2.2) b →
        ∃ t, exec p.1 s = .next t ∧ (t.ctx b).pc = c.pc ∧ t.spans = s.spans ∧ t.mem = s.mem)
    ∧ (∀ e, let old := (u.span i).unit e
        let job : Job := { berth := b, north := (u.ctx b).north, sup := (u.ctx b).sup, desc := l, geos := boundGeos u b e l,
                           seq := old.nextSeq, started := false, await := none, prog := none, touched := [] }
        ((acceptJob u e b l (boundGeos u b e l)).span i).unit e =
          { old with jobs := old.jobs ++ [job], nextSeq := old.nextSeq + 1,
                     accepted := Table.put old.accepted b.val (Table.get 0 old.accepted b.val + 1) })
    ∧ (got → inPontoon i a = true ∧ a % 64 = 0)
    ∧ (aligned → segCheck (x.ctx b) o.sa.toNat off 64 .r = .ok a → inPontoon i a = true → (∀ p ∈ x.ports.stgWrites, p.berth ≠ b.val) →
        (gateOnce x q (busyKey q) false .read a 64).2 = none → (piecesFault x q false (wordsOf 3 a 64)).2 = none → got)
    ∧ (¬ aligned → desc = (x, .exc { cause := 0x08, info := off, info2 := BitVec.ofNat 64 o.sa.toNat }))
    ∧ (aligned → segCheck (x.ctx b) o.sa.toNat off 64 .r = .ok a → inPontoon i a = false →
        desc = (x, .exc { cause := 0x07, info := BitVec.ofNat 64 a, info2 := BitVec.ofNat 64 o.sa.toNat }))

/-- RND brings 64 bits of the DRBG and status 0, or 0 and the status of a DRBG that is stopped; while the DRBG starts, or waits for a seed, it
holds its Ferry (R232, R367). POST queues one Landing frame of its header and payload, waits for room in the Span's outbound buffer, or answers
its status and sends nothing (R233). -/
def Obligations.RandomAndPost : Prop :=
  ∀ (s : State) (f : FerryNo) (b : BerthNo) (o : LA),
    let c := s.ctx b
    let x := atEffect s f b .other
    let out := fun (w : State) => Host.Outcome.next (φ := Fault) (ρ := Refusal) (retired s f b .other 1 w)
    let drew := draws x b [8]
    let fresh := ∀ q ∈ s.ent.waits, q.berth ≠ b
    let decR : Dec := { word := wordA o 0x26 0, major := 0x26, g := o.g, fieldBad := o.ra != 0 || o.f }
    let a := (c.getG o.ra.toNat).toNat
    let v := c.getG o.rb.toNat
    let kind := (v.extractLsb' 0 4).toNat
    let port := (v.extractLsb' 4 2).toNat
    let len := (v.extractLsb' 32 32).toNat
    let lo := 0x10000000 + (b.val / 64) * 0x800000
    let posts := fun (n : Nat) => ∀ room, exec (.post f o room) s = out (x.modCtx b fun c => c.setG o.rd.toNat (BitVec.ofNat 64 n))
    let read := ferRead x b f false .read a (64 + len)
    let u := read.1
    let l := bytesGot read
    (runs s f b decR = true →
      (s.ent.st = .running → s.ent.served < 1048576 ∨ s.ent.seed ≠ none → fresh → ∃ l, drew.2 = .ok [l] ∧ exec (.rnd f o) s =
        out (drew.1.modCtx b fun c => (c.setG o.rd.toNat (BitVec.ofNat 64 (natOfBytes l))).setG o.rb.toNat 0))
      ∧ (s.ent.st = .stopped ∨ s.ent.st = .locked → fresh → exec (.rnd f o) s =
        out ((dropWait x b).modCtx b fun c => (c.setG o.rd.toNat 0).setG o.rb.toNat 0x0D))
      ∧ (s.ent.st = .starting ∨ (s.ent.st = .running ∧ 1048576 ≤ s.ent.served ∧ s.ent.seed = none) → fresh → ∃ w, exec (.rnd f o) s = .next w ∧ (w.ferry f).berth = some b
          ∧ (w.berth b).wait = .rnd o.rd o.rb ∧ (∃ q ∈ w.ent.waits, q.berth = b) ∧ (w.ctx b).pc = c.pc))
    ∧ (runs s f b (berthDec o 2 false) = true →
      (kind < 2 ∨ 4 < kind → posts 1)
      ∧ (2 ≤ kind → kind ≤ 4 → (a % 64 ≠ 0 ∨ a < lo ∨ lo + 0x800000 ≤ a) → posts 2)
      ∧ (2 ≤ kind → kind ≤ 4 → a % 64 = 0 → lo ≤ a → a < lo + 0x800000 → 65472 < len → posts 3)
      ∧ (2 ≤ kind → kind ≤ 4 → a % 64 = 0 → lo ≤ a → a + 64 + len ≤ lo + 0x800000 → len ≤ 65472 → v.extractLsb' 6 26 ≠ 0 → posts 4)
      ∧ (2 ≤ kind → kind ≤ 4 → a % 64 = 0 → lo ≤ a → a < lo + 0x800000 → lo + 0x800000 < a + 64 + len → len ≤ 65472 →
          v.extractLsb' 6 26 = 0 → posts 2)
      ∧ (2 ≤ kind → kind ≤ 4 → a % 64 = 0 → lo ≤ a → a + 64 + len ≤ lo + 0x800000 → len ≤ 65472 → v.extractLsb' 6 26 = 0 →
          exec (.post f o false) s = .next (waits s f b x .post) ∧ (passed read = true →
          ∃ (w : State) (fr : OutFrame), exec (.post f o true) s = out (w.modCtx b fun c => c.setG o.rd.toNat 0)
            ∧ w.ports.landOut = Table.put u.ports.landOut port (Table.get [] u.ports.landOut port ++ [fr]) ∧ w.mem = u.mem
            ∧ fr.kind = kind ∧ fr.dest = b.val ∧ l.drop 64 <+: fr.beats.drop 64)))

/-- CRD, CWR, CFGR and CFGW read and write the counters of the Berth and their configurations; FREEZE and THAW set and clear the freeze bit of
a global group (R234, R510). -/
def Obligations.CounterInstructions : Prop :=
  ∀ (s : State) (f : FerryNo) (b : BerthNo) (o : LA),
    let x := atEffect s f b .other
    let c := x.ctx b
    let k := o.rb.toNat % 16
    let v := c.getG o.ra.toNat
    let out := fun (w : State) => Host.Outcome.next (φ := Fault) (ρ := Refusal) (retired s f b .other 1 w)
    (runs s f b (cntDec o 0 8 (o.ra != 0) false) = true →
      (k < 8 → exec (.crd f o) s = out (x.modCtx b fun c => c.setG o.rd.toNat ((Table.get 0 c.cntVal k).setWidth 64)))
      ∧ (k = 8 → exec (.crd f o) s =
          out (x.modCtx b fun c => c.setG o.rd.toNat (BitVec.ofNat 64 (s.time.ticks - (s.ferry f).tickBase)))))
    ∧ (runs s f b (cntDec o 1 7 (o.rd != 0) true) = true →
      exec (.cwr f o) s = out (x.modCtx b fun c => { c with cntVal := Table.put c.cntVal k (v.setWidth 48) }))
    ∧ (runs s f b (cntDec o 2 7 (o.ra != 0) true) = true →
      exec (.cfgr f o) s = out (x.modCtx b fun c => c.setG o.rd.toNat (Table.get 0 c.cntCfg k)))
    ∧ (runs s f b (cntDec o 3 7 (o.rd != 0) true) = true →
      ∃ (w : State) (r : W64), exec (.cfgw f o) s = out (w.modCtx b fun c => { c with cntCfg := Table.put c.cntCfg k r }) ∧ w.mem = s.mem
        ∧ r.getLsbD 63 = v.getLsbD 63 ∧ (∀ q, (w.ctx q).g = (x.ctx q).g))
    ∧ (runs s f b (cntDec o 4 15 (o.rd != 0 || o.ra != 0) true) = true →
      ∃ w, exec (.freeze f o) s = out w ∧ (w.hreg 0x5F0030).getLsbD k = true
        ∧ ∀ j < 16, j ≠ k → (w.hreg 0x5F0030).getLsbD j = (s.hreg 0x5F0030).getLsbD j)
    ∧ (runs s f b (cntDec o 5 15 (o.rd != 0 || o.ra != 0) true) = true →
      ∃ w, exec (.thaw f o) s = out w ∧ (w.hreg 0x5F0030).getLsbD k = false
        ∧ ∀ j < 16, j ≠ k → (w.hreg 0x5F0030).getLsbD j = (s.hreg 0x5F0030).getLsbD j)

/-! ### Keys, tickets and the public-key unit (R104 to R118, R134 to R139, R229 to R231) -/

/-- KEY makes its operation and the Berth waits for its completion, with the status for G1 and the results (R108 to R114, R117, R118, R229,
R231), whatever its operands. On a block that is Provisioned or Field and not of a twin each operation is given on its good operands, and the
statuses of the references that name nothing. Requests below the stretch limit of a running DRBG are served (R365, R367). -/
def Obligations.KeyOperations : Prop :=
  (∀ (s : State) (b : BerthNo) (ns : List Nat), s.ent.st = .running → s.ent.served + ns.length ≤ 1048576 → (∀ q ∈ s.ent.waits, q.berth ≠ b) →
    drewOk (draws s b ns) = true ∧ (drewGot (draws s b ns)).length = ns.length)
  ∧ ∀ (s : State) (f : FerryNo) (b : BerthNo) (o : LA),
    let x := atEffect s f b .other
    let g := (s.ctx b).getG
    let n := (g 2).toNat
    let done := fun (i : Instr) (w : State) (outs : List (Nat × W64)) =>
      exec i s = .next (waits s f b (countBlock w 6 2 1) (.key (.done outs)))
    let on := fun (fn : Nat) => runs s f b (decKey o false fn) = true
    let k := s.slot n
    let code := match k.st with | .empty => 0 | .loaded => 1 | .erasing => 2
    let kind := if k.st = .empty then 0 else k.kind
    let read := keyRead x b (g 3) 80
    let u := read.1
    let l := ioGot read
    let write := keyWrite x b (g 3) (wrapKey x k.kind (if n = 3 then 1 else 0) k.keyId k.key)
    let gen := (g 3).toNat
    let drew := draws x b (if gen = 7 then [32, 64] else if gen = 6 then [64] else [32])
    let fill := fun (q : State) (m kd : Nat) (id : W64) (key : List Byte) =>
      q.setSlot m { q.slot m with st := .loaded, kind := kd, keyId := id, key := key, erec := none, mirrored := false }
    let alone := s.via.role = .none ∧ (s.lc.state = 1 ∨ s.lc.state = 2)
    (∀ p ∈ [(Instr.keyInfo f o, 0), (.keyImport f o, 1), (.keyExport f o, 2), (.keyGen f o, 3), (.keyErase f o, 4), (.keyIssue f o, 5),
        (.keyRevoke f o, 6), (.keyQuery f o, 7)], on p.2 →
      exec p.1 s = .next (waits s f b (countBlock (keyOpRun x b false p.2).1 6 2 1) (.key (keyOpRun x b false p.2).2)))
    ∧ (on 0 → n < 4096 → kind < 16 → ∃ v : W64, v.toNat = kind + code * 16 + k.inst.toNat * 2 ^ 32 ∧
      done (.keyInfo f o) x [(1, 0), (2, v), (3, k.keyId), (4, (k.erec.getD (0, 0)).1), (5, (k.erec.getD (0, 0)).2.setWidth 64),
        (6, if k.erec.isSome then 1 else 0)])
    ∧ (on 0 → 4096 ≤ n → done (.keyInfo f o) x [(1, 2)])
    ∧ (on 1 → alone → 8 ≤ n → n < 4096 → slotLoaded s 0 = true → ioPassed read = true → k.st = .empty →
      (∀ kd id m, unwrapKey u n l = some (kd, id, m) → done (.keyImport f o) (fill u n kd id m) [(1, 0)])
      ∧ (unwrapKey u n l = none → done (.keyImport f o) u [(1, 6)]))
    ∧ (on 2 → alone → n < 4096 → k.st = .loaded → k.kind = 2 ∨ k.kind = 3 ∨ k.kind = 7 → slotLoaded s 0 = true →
      ioPassed write = true → done (.keyExport f o) write.1 [(1, 0)])
    ∧ (on 3 → alone → (∀ q ∈ s.ent.waits, q.berth ≠ b) → drewOk drew = true →
      (8 ≤ n → n < 4096 → gen = 2 ∨ gen = 3 ∨ gen = 6 → k.st = .empty →
        done (.keyGen f o) (fill drew.1 n gen (g 4) ((drewGot drew).headD [])) [(1, 0)])
      ∧ (s.lc.state = 1 → n = 2 → gen = 7 → k.st = .empty → (s.slot 3).st = .empty →
        done (.keyGen f o) (fill (fill drew.1 2 7 (g 4) ((drewGot drew).getD 0 [])) 3 7 (g 4)
          (bytesOfNatBE 48 (ecScalar ((drewGot drew).getD 1 [])))) [(1, 0)]))
    ∧ (on 4 → alone → 8 ≤ n → n < 4096 → k.st = .loaded → ∃ w, done (.keyErase f o) w [(1, 0)]
        ∧ w.slot n = { KeySlot.empty with inst := k.inst + 1, erec := some (k.keyId, k.inst) }
        ∧ (∀ m, m ≠ n → w.slot m = s.slot m) ∧ ∀ e ∈ w.keys.tickets, e ∈ s.keys.tickets ∧ e.2.slot ≠ n)
    ∧ (on 5 → alone → n < 4096 → k.st = .loaded → k.kind = 2 ∨ k.kind = 3 → (g 3).toNat < 1024 → (g 5 = 0 ∨ s.time.count.toNat < (g 5).toNat) →
      (∃ e, 1 ≤ e ∧ e < 16384 ∧ Table.has s.keys.tickets e = false ∧ Table.get 0 s.keys.gens e < 0x3FFFF) →
      ∃ (w : State) (e : Nat), 1 ≤ e ∧ e < 16384 ∧ Table.has s.keys.tickets e = false
        ∧ (∀ d, 1 ≤ d → d < e → Table.has s.keys.tickets d = true ∨ 0x3FFFF ≤ Table.get 0 s.keys.gens d)
        ∧ done (.keyIssue f o) w [(1, 0), (2, BitVec.ofNat 64 (Table.get 0 s.keys.gens e * 16384 + e))]
        ∧ w.keys.tickets = Table.put s.keys.tickets e
            { slot := n, inst := k.inst, berth := (g 3).toNat, mask := g 4 &&& 0x3F, expiry := g 5, gen := Table.get 0 s.keys.gens e })
    ∧ (on 6 → liveTicket s n = none → done (.keyRevoke f o) x [(1, 9)])
    ∧ (∀ t, on 6 → liveTicket s n = some t → ∃ w, done (.keyRevoke f o) w [(1, 0)] ∧ w.keys.tickets = Table.del s.keys.tickets (n % 16384)
        ∧ Table.get 0 w.keys.gens (n % 16384) = Table.get 0 s.keys.gens (n % 16384) + 1)
    ∧ (on 7 → liveTicket s n = none → done (.keyQuery f o) x [(1, 9)])
    ∧ (∀ t, on 7 → liveTicket s n = some t → done (.keyQuery f o) x [(1, 0), (2, BitVec.ofNat 64 t.slot), (3, BitVec.ofNat 64 t.berth),
        (4, t.mask), (5, t.expiry), (6, t.inst.setWidth 64)])
    ∧ (∀ t, liveTicket s n = some t → n % 16384 ≠ 0 ∧ Table.find s.keys.tickets (n % 16384) = some t ∧ t.gen = n / 16384)

/-- PK makes its operation and the Berth waits for its completion, with its status for G1 (R134 to R139, R230, R231): behind what reached its
engines before it, or at once where they are free. Each operation is given on good operands, with what it writes to memory and to the Keystone, and
the statuses of a missing identity, of a signing that stops, of a failing signature, of a bad point and key, and of an over-long message. -/
def Obligations.PublicKeyOperations : Prop :=
  ∀ (s : State) (f : FerryNo) (b : BerthNo) (o : LA),
    let x := pkJoin (atEffect s f b .other) b
    let g := (s.ctx b).getG
    let n := (g 2).toNat
    let done := fun (i : Instr) (w : State) (st : W64) => exec i s = .next (waits s f b (countBlock w 6 3 1) (.key (.done [(1, st)])))
    let written := fun (i : Instr) (w : State × KeyIo Unit) (k : State → State) => ioPassed w = true → done i (k w.1) 0
    let dec := fun (fn : Nat) => runs s f b (decKey o true fn) = true
    let on := fun (fn : Nat) => dec fn ∧ pkBehind x b fn = false
    let open1 := 8 ≤ n ∧ n < 4096 ∧ (s.slot n).st = .empty
    let keep := fun (key : List Byte) (q : State) =>
      (q.setSlot n { q.slot n with st := .loaded, kind := 6, keyId := q.freeWord, key := key, erec := none, mirrored := false }).drawn
    -- the statement of a receipt of kind `kd` with the Unit's fields filled in, signed with the randomness `r` and `k`
    let stmt := fun (q : State) (kd : Byte) (st : List Byte) =>
      overlay (overlay (overlay st 0 (bytesOfNat 4 0x54524850 ++ [kd, 1])) 83 [0]) 104
        (bytesOfNat 8 q.time.count.toNat ++ bytesOfNat 4 q.keys.receipts ++ padTo 4 (q.keys.nonce.getD []))
    let signed := fun (i : Instr) (q : State) (kd : Byte) (a : W64) (st r k : List Byte) =>
      let sig := nestedSign q (stmt q kd st) (asciiBytes "PHIRA-RCPT") r (fun _ => k)
      (sig = [] → done i q 0x11)
      ∧ (sig ≠ [] → written i (keyWrite q b a (padTo 3584 (stmt q kd st ++ sig))) fun w =>
          { w with keys := { w.keys with receipts := w.keys.receipts + 1 } })
    -- with a boot nonce the receipt draws two numbers, and without one the nonce first
    let receipt := fun (i : Instr) (q : State) (kd : Byte) (a : W64) (st : List Byte) =>
      let fresh := needsNonce q
      let drew := draws q b (if fresh then [4, 32, 64] else [32, 64])
      let num := fun (j : Nat) => (drewGot drew).getD (if fresh then j + 1 else j) []
      (∀ q ∈ s.ent.waits, q.berth ≠ b) → drewOk drew = true → signed i (if fresh then
        { drew.1 with keys := { drew.1.keys with nonce := (drewGot drew).head?, receipts := 0 } } else drew.1) kd a st (num 0) (num 1)
    let read := fun (k len : Nat) => keyRead x b (g k) len
    let mldsa := keyReads x b [(g 2, 1952), (g 3, (g 4).toNat), (g 5, 3309), (g 6, (g 7).toNat)]
    let ecdsa := keyReads x b [(g 2, 97), (g 3, (g 4).toNat), (g 5, 96)]
    let drewK := draws x b [64]
    let seed := (drewGot drewK).headD []
    let ek := ioGot (read 2 1568)
    let enc := freeBytes32 (read 2 1568).1
    let peer := read 3 97
    let drewE := draws peer.1 b [64]
    let scalar := ecScalar ((drewGot drewE).headD [])
    let allowed := s.lc.state = 1 ∨ s.lc.state = 2
    (∀ p ∈ [(Instr.pkPubkey f o, 0), (.pkReceipt f o, 1), (.pkShred f o, 2), (.pkVerifyMldsa f o, 3), (.pkVerifyEcdsa f o, 4), (.pkKemGen f o, 5),
        (.pkKemEnc f o, 6), (.pkKemDec f o, 7), (.pkEcdh f o, 8)],
      (dec p.2 → exec p.1 s = .next (waits s f b (countBlock (keyOpRun x b true p.2).1 6 3 1) (.key (keyOpRun x b true p.2).2)))
      ∧ (dec p.2 → pkBehind x b p.2 = true → exec p.1 s = .next (waits s f b (countBlock x 6 3 1) (.key (.drbg true p.2)))))
    ∧ (on 0 → hasIdentity s = false → done (.pkPubkey f o) x 5)
    ∧ (on 0 → hasIdentity s = true → written (.pkPubkey f o) (keyWrite x b (g 2) ((identityKeys x).1 ++ (identityKeys x).2)) id)
    ∧ (on 1 → allowed → hasIdentity s = false → done (.pkReceipt f o) x 5)
    ∧ (on 1 → allowed → hasIdentity s = true → keyAddrOk x b (g 2) 3584 = true → ioPassed (read 2 128) = true →
        receipt (.pkReceipt f o) (read 2 128).1 1 (g 2) (ioGot (read 2 128)))
    ∧ (on 2 → allowed → hasIdentity s = true → n < 4096 → (s.slot n).st = .empty → ∀ id inst, (s.slot n).erec = some (id, inst) →
        keyAddrOk x b (g 3) 3584 = true → ioPassed (read 3 128) = true →
        receipt (.pkShred f o) (read 3 128).1 2 (g 3)
          (zeros 8 ++ bytesOfNat 8 id.toNat ++ zeros 84 ++ bytesOfNat 4 n ++ zeros 16 ++ (ioGot (read 3 128)).drop 120))
    ∧ (on 3 → (16777216 < (g 4).toNat ∨ 255 < (g 7).toNat) → done (.pkVerifyMldsa f o) x 0x0E)
    ∧ (on 3 → (g 4).toNat ≤ 16777216 → (g 7).toNat ≤ 255 → ioPassed mldsa = true →
        let m := fun (j : Nat) => (ioGot mldsa).getD j []
        done (.pkVerifyMldsa f o) mldsa.1 (if mldsaVerify (m 0) (m 1) (m 3) (m 2) then 0 else 0x10))
    ∧ (on 4 → 16777216 < (g 4).toNat → done (.pkVerifyEcdsa f o) x 0x0E)
    ∧ (on 4 → (g 4).toNat ≤ 16777216 → ioPassed ecdsa = true →
        let m := fun (j : Nat) => (ioGot ecdsa).getD j []
        (ecPoint (m 0) ≠ none → done (.pkVerifyEcdsa f o) ecdsa.1 (if ecdsaVerify (m 0) (m 1) (m 2) then 0 else 0x10))
        ∧ (ecPoint (m 0) = none → done (.pkVerifyEcdsa f o) ecdsa.1 0x0F))
    ∧ (on 5 → open1 → keyAddrOk x b (g 3) 1568 = true → drewOk drewK = true →
        written (.pkKemGen f o) (keyWrite drewK.1 b (g 3) (mlkemKeyGen (seed.take 32) (seed.drop 32)).1) (keep seed))
    ∧ (on 6 → ioPassed (read 2 1568) = true →
        (mlkemEkValid ek = true → written (.pkKemEnc f o) (keyWrite enc.1 b (g 3) (mlkemEncaps ek enc.2).1) id)
        ∧ (mlkemEkValid ek = false → done (.pkKemEnc f o) (read 2 1568).1 0x0F))
    ∧ (on 7 → n < 8 ∨ 4096 ≤ n → done (.pkKemDec f o) x 2)
    ∧ (on 7 → 8 ≤ n → n < 4096 → (s.slot n).st = .loaded → (s.slot n).kind = 6 → ioPassed (read 3 1568) = true →
        done (.pkKemDec f o) (read 3 1568).1 0)
    ∧ (on 8 → open1 → ioPassed peer = true → ecPoint (ioGot peer) ≠ none → keyAddrOk peer.1 b (g 4) 97 = true → drewOk drewE = true →
        written (.pkEcdh f o) (keyWrite drewE.1 b (g 4) (ecBytes (ecPub scalar))) (keep (bytesOfNatBE 48 scalar)))

/-- KEY_PK_COMPLETE: the registers of a completed operation are written and the instruction retires; the Berth that waited becomes ready, at the
tail of the queue of its priority (R231, R296, R302). -/
def Obligations.KeyOperationCompletes : Prop :=
  ∀ (s : State) (b : BerthNo) (outs : List (Nat × W64)), (s.berth b).wait = .key (.done outs) → (s.berth b).st = .waiting →
    (s.berth b).cmd = none → ∃ t, exec (.keyPkComplete b) s = .next t ∧ (t.berth b).st = .ready ∧ (t.berth b).wait = .none
      ∧ t.mem = s.mem ∧ (∀ x, x ≠ b → t.berth x = s.berth x)
      ∧ readyQ t (berthSpan b) (berthPrio s b) = readyQ s (berthSpan b) (berthPrio s b) ++ [b]
      ∧ ((s.ctx b).loops = [] → (t.ctx b).pc = (s.ctx b).pc + 4)
      ∧ (∀ k, k ∉ outs.map (fun e => (s.ctx b).key e.1) → Table.get 0 (t.ctx b).g k = Table.get 0 (s.ctx b).g k)
      ∧ ((outs.map fun e => (s.ctx b).key e.1).Nodup → ∀ e ∈ outs, e.1 ≠ 0 → (t.ctx b).getG e.1 = e.2)

/-! ### Berths, Ferries and what happens to them (R248 to R257, R280, R296 to R304, R488) -/

/-- A Ferry of the Span free, the Pilot places the head of the highest ready queue on the lowest free Ferry, its local data unwritten (R204, R302),
after the switch-in routine with its extension vector 0 (R259, R286), which keeps all but counters where no routine is loaded there; an error in
the word at its entry puts the Ferry aground (R279); none free, a more urgent ready Berth makes it request the switch-out of a victim of lower priority (R303). -/
def Obligations.PilotPlacesAndPreempts : Prop :=
  ∀ (s : State) (i : SpanNo), s.power.st = .underWay → s.power.target = none → s.ldr.state = 5 → s.tamper.hold = false →
    (s.span i).pilotFault = false →
    (∀ (f : FerryNo) (p : Nat) (b : BerthNo) (rest : List BerthNo), ferrySpan f = i → ferryFree s f = true →
      (∀ g, ferrySpan g = i → g < f → ferryFree s g = false) → p < 4 → readyQ s i p = b :: rest → (∀ q < p, readyQ s i q = []) →
      (1 ∈ (s.ferry f).cs.poison → ∃ t, exec (.berthDispatch i) s = .next t ∧ (t.ferry f).agr.aground = true ∧ (t.ferry f).agr.cause = 0x19)
      ∧ (storeClean s f = true → ∃ t, exec (.berthDispatch i) s = .next t ∧ (t.berth b).st = .running ∧ (t.berth b).ferry = some f ∧ (t.ferry f).berth = some b
        ∧ (t.ferry f).localMem = [] ∧ (t.berth b).wait = .none ∧ (t.ctx b).pc = (s.ctx b).pc ∧ (t.ctx b).g = (s.ctx b).g ∧ t.mem = s.mem
        ∧ (berthSpan b = i → b ∉ readyQ t i p) ∧ (∀ x, x ≠ b → t.berth x = s.berth x)
        ∧ ((s.ctx b).segSrc = [] → noVector s f 0 = true → t.ctx b = s.ctx b ∧ ∀ g, g ≠ f → t.ferry g = s.ferry g)))
    ∧ ((∀ g, ferrySpan g = i → ferryFree s g = false) → (∀ v ∈ runningOf s i, (s.berth v).switchReq = false) →
      ((∀ v ∈ runningOf s i, ∀ q < berthPrio s v, readyQ s i q = []) → exec (.berthDispatch i) s = .next s)
      ∧ ((∃ v ∈ runningOf s i, ∃ q < berthPrio s v, readyQ s i q ≠ []) →
        ∃ v ∈ runningOf s i, exec (.berthDispatch i) s = .next (s.modBerth v fun x => { x with switchReq := true })
          ∧ ∀ u ∈ runningOf s i, berthPrio s u < berthPrio s v
            ∨ (berthPrio s u = berthPrio s v ∧ (s.berth v).heldSince ≤ (s.berth u).heldSince)))

/-- A Berth whose quantum has run out is asked to switch out where one of the same or a higher priority is ready, and runs on with a fresh
quantum elsewhere (R303); a PARK, STOP or switch request takes effect at the dispatch, the context kept (R297, R304). -/
def Obligations.QuantumAndSwitchOut : Prop :=
  ∀ (s : State) (f : FerryNo) (b : BerthNo), (s.ferry f).berth = some b →
    let i := ferrySpan f
    let q := (s.hreg (0x010000 + i.val * 0x1000 + 0x800)).toNat % 2 ^ 32
    let up := (List.range (berthPrio s b + 1)).flatMap (readyQ s i)
    (q ≤ (s.berth b).quantum → (s.span i).pilotFault = false →
      exec (.quantumExpiry f) s = .next (s.modBerth b fun x => if up = [] then { x with quantum := 0 } else { x with switchReq := true }))
    ∧ (atBoundary s f b true = true → (s.berth b).wait = .none → offered s b (s.ferry f).stepMask = none → postponed s b = false →
      (s.ferry f).step = false → mayLeave s b = true →
      (∀ dst, (s.berth b).cmd = some dst → ∃ t, exec (.berthSwitchOut f) s = .next t ∧ (t.berth b).st = dst ∧ (t.berth b).cmd = none
        ∧ (t.berth b).ferry = none ∧ (t.ctx b).pc = (s.ctx b).pc ∧ t.mem = s.mem)
      ∧ ((s.berth b).cmd = none → (s.berth b).switchReq = true → ∃ t, exec (.berthSwitchOut f) s = .next t ∧ (t.berth b).st = .ready
        ∧ (t.berth b).ferry = none ∧ (t.ctx b).pc = (s.ctx b).pc ∧ b ∈ readyQ t (berthSpan b) (berthPrio s b) ∧ t.mem = s.mem)
      ∧ ((s.berth b).cmd = none → (s.berth b).switchReq = false → exec (.berthSwitchOut f) s = .next s))

/-- What the boundary of a running Ferry offers is taken there: the watchdog before the gate limit before an interrupt (R241); an interrupt only
where its level is above ipl, ie is set, slack water and LOCK are closed and no gate is open, with cause 0x20 + its level and INT_PEND as info
(R253). -/
def Obligations.BoundaryExceptions : Prop :=
  ∀ (s : State) (f : FerryNo) (b : BerthNo), (s.ferry f).berth = some b → atBoundary s f b false = true →
    let c := s.ctx b
    let lvl := pendLevel c
    let can := c.ipl.toNat < lvl ∧ c.ie = true ∧ c.slack = false ∧ c.lock = none ∧ c.gate = false
    let x := s.modFerry f fun y => { y with skipBrk := false, step := false, stepMask := false }
    (∀ e, offered s b (s.ferry f).stepMask = some e →
      (enters (offerTaken (abandonRoutine x b f) b e) b f e c.pc = true → ∃ t, takeOffered x b f e = some t
        ∧ exec (.interruptTaken f) s = .next (stepEnd t f (s.ferry f).step))
      ∧ (∀ t, takeOffered x b f e = some t → exec (.interruptTaken f) s = .next (stepEnd t f (s.ferry f).step)))
    ∧ (offered s b (s.ferry f).stepMask = none → exec (.interruptTaken f) s = .next s)
    ∧ (c.wdogPend = true → offered s b false = some { cause := 0x0E, info := c.wdogAt, info2 := 0 })
    ∧ (c.wdogPend = false → (∀ g, (s.berth b).gate = some g → g.due = true → c.slack = true) →
        (can → offered s b false = some { cause := 0x20 + lvl, info := c.intPend.setWidth 64, info2 := 0 })
        ∧ (¬ can → offered s b false = none) ∧ offered s b true = none)
    ∧ (∀ k < 6, c.intPend.getLsbD k = true → (c.intRoute.toNat / 2 ^ (4 * k)) % 16 ≤ lvl)
    ∧ (lvl ≠ 0 → ∃ k < 6, c.intPend.getLsbD k = true ∧ (c.intRoute.toNat / 2 ^ (4 * k)) % 16 = lvl)

/-- A Ferry told to halt is halted at its stop point, its loads complete (R488, R489); a refloat that succeeds clears AGROUND.aground and copies the
donor's store, and one without a donor leaves the Ferry aground with cause 0x19 (R280). -/
def Obligations.HaltsAndRefloats : Prop :=
  ∀ (s : State) (f : FerryNo),
    ((s.ferry f).halt = .halting → (s.ferry f).agr.aground = false → (s.ferry f).refloat = false → (s.ferry f).step = false →
      ((s.ferry f).berth = none → ∃ t, exec (.ferryHalted f) s = .next t ∧ (t.ferry f).halt = .halted ∧ t.berths = s.berths ∧ t.mem = s.mem)
      ∧ (∀ b, (s.ferry f).berth = some b → (s.ctx b).lock = none → haltsBerth s b = true → (s.berth b).wait = .none →
          ∃ t, exec (.ferryHalted f) s = .next t ∧ (t.ferry f).halt = .halted ∧ (t.ferry f).berth = some b ∧ (t.ctx b).late = []
            ∧ (t.ctx b).pc = (s.ctx b).pc ∧ (t.berth b).st = (s.berth b).st ∧ t.mem = s.mem))
    ∧ ((s.ferry f).refloat = true → testsRun s = true → s.tamper.hold = false →
      (∀ g bad, ferrySpan g = ferrySpan f → g ≠ f → (s.ferry g).agr.aground = false → (s.ferry g).refloat = false →
        (s.ferry f).cs.spares.length + bad.length ≤ 2 →
        ∃ t, exec (.refloatComplete f bad none) s = .next t ∧ (t.ferry f).agr.aground = false ∧ (t.ferry f).refloat = false
          ∧ (t.ferry f).cs.poison = [] ∧ t.mem = s.mem)
      ∧ (∀ bad, (∀ g, ferrySpan g = ferrySpan f → g ≠ f → (s.ferry g).agr.aground = true ∨ (s.ferry g).refloat = true) →
        ∃ t, exec (.refloatComplete f bad none) s = .next t ∧ (t.ferry f).agr.aground = true ∧ (t.ferry f).refloat = false
          ∧ (t.ferry f).agr.cause = 0x19))

/-- Time counted at a Berth (R252, R254, R256, R498): the row of an expiry lets the ticks pass that are left, and `n` ticks at a running Berth
close slack water when its limit is over, run the watchdog down to its expiry, raise cause 0x11 once when the gate's limit is over, and set
INT_PEND.timer when the count reaches TIMER_CMP. -/
def Obligations.TicksRunOut : Prop :=
  ∀ (s : State) (b : BerthNo) (n : Nat),
    let x := s.berth b
    let c := s.ctx b
    let lim := ((s.span (berthSpan b)).world c.north).gateLim.toNat
    let t := berthTicks n s b
    (c.slack = true → exec (.slackLimitExpiry b) s = .next (passTicks (max 1 c.slackRem) s))
    ∧ (c.wdogLim ≠ 0 → c.wdogPend = false → exec (.berthWatchdogExpiry b) s = .next (passTicks (max 1 c.wdogRem.toNat) s))
    ∧ (∀ g, x.gate = some g → g.raised = false → exec (.gateLimit b) s = .next (passTicks (max 1 (lim - g.ticks)) s))
    ∧ (c.timerArmed = true → c.timerCmp ≠ 0 → s.time.count.toNat < c.timerCmp.toNat →
        exec (.timerCmpReached b) s = .next (passTicks (c.timerCmp.toNat - s.time.count.toNat) s))
    ∧ (x.st = .running → onHalted s x = false → s.power.st = .underWay →
        (c.slack = true → c.slackRem ≤ n → (t.ctx b).slack = false ∧ (t.ctx b).slackMark = true
          ∧ ((t.span (berthSpan b)).world c.north).slackStat.toNat = min (2 ^ 32 - 1) (((s.span (berthSpan b)).world c.north).slackStat.toNat + 1))
        ∧ (c.slack = true → n < c.slackRem → (t.ctx b).slack = true ∧ (t.ctx b).slackRem = c.slackRem - n)
        ∧ (c.wdogLim ≠ 0 → c.wdogPend = false → c.wdogRem.toNat ≤ n → (t.ctx b).wdogPend = true)
        ∧ (c.wdogLim ≠ 0 → c.wdogPend = false → n < c.wdogRem.toNat →
            (t.ctx b).wdogPend = false ∧ (t.ctx b).wdogRem.toNat = c.wdogRem.toNat - n)
        ∧ (∀ g, x.gate = some g → g.raised = false → lim ≤ g.ticks + n → ∃ g', (t.berth b).gate = some g' ∧ g'.due = true ∧ g'.raised = true)
        ∧ (∀ g, x.gate = some g → g.raised = true → ∃ g', (t.berth b).gate = some g' ∧ g'.due = g.due ∧ g'.ticks = g.ticks + n))
    ∧ (c.timerArmed = true → c.timerCmp ≠ 0 → c.timerCmp.toNat ≤ s.time.count.toNat →
        (t.ctx b).intPend.getLsbD 0 = true ∧ (t.ctx b).timerArmed = false)
    ∧ (∀ y, y ≠ b → t.berth y = s.berth y) ∧ t.mem = s.mem

/-- A wait ends when what it waits for has come (R212, R296): the instruction retires, and the Berth becomes ready at the tail of its queue; a
takeable interrupt makes a Berth ready with its PC at the waiting instruction (R254); TFENCE retires once no older access is outstanding
(R354); a barrier whose members have all arrived releases them with
P(pd) := 1. -/
def Obligations.WaitsEnd : Prop :=
  (∀ (s : State) (b : BerthNo) (e : W32), (s.berth b).wait = .fence e → (s.berth b).st = .running →
    (olderAccess s (berthSpan b) e = true → exec (.berthWake b) s = .next s)
    ∧ (olderAccess s (berthSpan b) e = false → ∃ t, exec (.berthWake b) s = .next t ∧ (t.berth b).st = .running ∧ (t.berth b).wait = .none
      ∧ ((s.ctx b).loops = [] → (t.ctx b).pc = (s.ctx b).pc + 4) ∧ (t.ctx b).g = (s.ctx b).g ∧ t.mem = s.mem))
  ∧ ∀ (s : State) (b : BerthNo), (s.berth b).st = .waiting → (s.berth b).cmd = none →
    let c := s.ctx b
    let set := fun (a : BitVec 18) => s.bit (berthSpan b) c.north a.toNat
    let ends := fun (i : Instr) (p : Ctx → Prop) => ∃ t, exec i s = .next t ∧ (t.berth b).st = .ready ∧ (t.berth b).wait = .none
      ∧ b ∈ readyQ t (berthSpan b) (berthPrio s b) ∧ (∀ x, x ≠ b → t.berth x = s.berth x) ∧ t.mem = s.mem ∧ p (t.ctx b)
    let moved := fun (k : Ctx) => (c.loops = [] → k.pc = c.pc + 4) ∧ k.g = c.g
    (∀ a, (s.berth b).wait = .bit a → set a = true → ends (.berthWake b) moved)
    ∧ (∀ e a, (s.berth b).wait = .unit e a → set a = true → ends (.berthWake b) fun k => k.pc = c.pc ∧ k.g = c.g)
    ∧ (∀ a d pd, (s.berth b).wait = .bitT a d pd → set a = true → ends (.berthWake b) fun k => moved k ∧ k.getP pd = true)
    ∧ (∀ a d pd, (s.berth b).wait = .bitT a d pd → d.toNat ≤ s.time.count.toNat →
        ends (.waittDeadline b) fun k => moved k ∧ k.getP pd = (decide (pd = 0) || set a))
    ∧ (∀ a, (s.berth b).wait = .bit a → set a = false → takeable c = true → ends (.berthWake b) fun k => k = c)
    ∧ (∀ (g : BitVec 4) (peer : Bool) (pd : BitVec 3) (ep : Barrier), Table.find s.barriers g.toNat = some ep → b ∈ ep.arrived →
        (s.berth b).wait = .bar g pd none → (∀ m ∈ ep.members, m ∈ ep.arrived) → (ep.twin = true → peer = true) →
        ∃ t, exec (.barrierRelease g peer) s = .next t ∧ (t.berth b).st = .ready ∧ (t.berth b).wait = .none ∧ moved (t.ctx b)
          ∧ (t.ctx b).getP pd = true ∧ t.mem = s.mem)
    ∧ (∀ (g : BitVec 4) (peer : Bool) (ep : Barrier) (m : BerthNo), Table.find s.barriers g.toNat = some ep → m ∈ ep.members → m ∉ ep.arrived →
        exec (.barrierRelease g peer) s = .next s)

/-! ### Jobs of the units and the Tender (R60 to R168, R330 to R334, R384, R385) -/

/-- A row of a unit takes the job that its scheduler may finish, runs its work from where it stands, and completes it, in the order of acceptance
of its Berth and class: the job leaves the unit, its status record is written, its done bit rises, and with a status of 2 or more, or without a
record, its error bit and INT_PEND.uniterr rise (R71, R72, R80, R254). Work that has sent its frames leaves the job waiting (R334, R385), an access
that waits leaves it under way (R81), and without such a job, or where its turn would end before its work, nothing happens. -/
def Obligations.JobRowsComplete : Prop :=
  ∀ (s : State) (b : BerthNo) (k : JobKind), k ∈ jobKinds b →
    let i := berthSpan b
    let comes := fun (t : State) => exec k.row s = .next (rowAfter b k.e k.row t)
    (unitsRun s = false ∨ pickJob s k.e b k.op = none → comes s)
    ∧ ∀ j, unitsRun s = true → pickJob s k.e b k.op = some j →
      let r := workOf k j s
      let v := spent r.2.s k.e j r.2.credit
      let a := doneBit j
      (∀ st d, stopStatus r = some (st, d) →
        let w := r.2.ends st d true
        let t := completeJob v k.e j w
        let p := physWrite v (jobAcc k.e j) false (j.fld 32 8) (recordBytes st d r.2.mid r.2.clamps)
        let good := r.2.recOk = true ∧ p.2 = .ok ()
        comes (endJob v k.e j w)
        ∧ (openBefore ((v.span i).unit k.e) j = true → ∀ x ∈ (((endJob v k.e j w).span i).unit k.e).jobs, x.seq = j.seq → x.await = some w)
        ∧ (openBefore ((v.span i).unit k.e) j = false → endJob v k.e j w = completeReady t i k.e)
        ∧ (r.2.recOk = false ∨ p.2 ≠ .error .wait →
          (∀ x ∈ ((t.span i).unit k.e).jobs, x.seq ≠ j.seq)
          ∧ (bitReserved a = false → t.bit i j.north a = true)
          ∧ (bitReserved a = false → 2 ≤ st ∨ ¬ good → t.bit i j.north (a + 1) = true)
          ∧ (2 ≤ st ∨ ¬ good → (t.ctx b).intPend.getLsbD 4 = true)
          ∧ (good → t.mem = p.1.mem ∧ (st < 2 → t.bit i j.north (a + 1) = p.1.bit i j.north (a + 1)))))
      ∧ (∀ st d, r.1 = .error (.await st d) → comes (setAwait v k.e j (r.2.ends st d false))
          ∧ (setAwait v k.e j (r.2.ends st d false)).mem = r.2.s.mem
          ∧ ∀ x ∈ (((setAwait v k.e j (r.2.ends st d false)).span i).unit k.e).jobs, x.seq = j.seq → x.await = some (r.2.ends st d false))
      ∧ (r.1 = .error .wait → comes (staysOn k.e j r.2)
          ∧ ∀ x ∈ (((staysOn k.e j r.2).span i).unit k.e).jobs, x.seq = j.seq → x.started = true)
      ∧ (r.1 = .error .pause → comes s)

/-- NOP writes a status record of OK and nothing else in every unit (R60, R71); GEO.REG reads a descriptor, checks it and puts it into the
table, once and up to 256 of them; GEO.DEL takes it out; GEO.READ writes it out (R51, R52, R70). -/
def Obligations.NopAndGeometryJobs : Prop :=
  ∀ (s : State) (b : BerthNo) (e : Engine) (j : Job), unitsRun s = true → j.prog = none → j.fld 3 1 ≤ 3 → j.fld 32 8 % 32 = 0 →
    (e = .cmpr → j.fld 40 4 ≤ 2097152) →
    (if e = .truss then inOpen (berthSpan b) (j.fld 32 8) 32 || inStg s (j.fld 32 8) 32
     else if e = .sealU then inPon (berthSpan b) (j.fld 32 8) 32 || inStg s (j.fld 32 8) 32
     else inPon (berthSpan b) (j.fld 32 8) 32) = true →
    let i := berthSpan b
    let q := jobAcc e j
    let picks := fun (op : Nat) => pickJob s e b op = some j ∧ j.fld 0 2 = op
    let ends := fun (c : Instr) (v : State) (st d : Nat) =>
      exec c s = .next (rowAfter b e c (endJob (spent v e j (creditNow s e j)) e j
        { status := st, detail := d, mid := if e = .truss ∨ e = .sealU then trussMid else zeros 26, clamps := 0, recOk := true, ready := true }))
    let nop := fun (x : Engine) (c : Instr) => e = x → picks 0 → ends c s 0 0
    let geos := fun (v : State) => (v.span i).geos
    nop .truss (.trussNop b) ∧ nop .sealU (.sealNop b) ∧ nop .cmpr (.cmprNop b) ∧ nop .hash (.hashNop b) ∧ nop .tender (.tenderNop b)
    ∧ (e = .truss → picks 1 → trussAddr s j 64 (j.fld 8 8) 256 = true → ∀ d, (physRead s q (j.fld 8 8) 256).2 = .ok d →
        let u := (physRead s q (j.fld 8 8) 256).1
        (∀ x ∈ geoFields d, x.2.2.1 ≤ fieldAt d x.1 x.2.1 ∧ fieldAt d x.1 x.2.1 ≤ x.2.2.2) →
        let id := fieldAt d 0 2
        let v := u.modSpan i fun x => { x with geos := Table.put x.geos id (geoNormal d) }
        (∀ n, geoBad d = some n → ends (.geoReg b) u 0x50 n)
        ∧ (geoBad d = none → Table.has (geos u) id = true → ends (.geoReg b) u 0x51 0)
        ∧ (geoBad d = none → Table.has (geos u) id = false → 256 ≤ (geos u).length → ends (.geoReg b) u 0x52 0)
        ∧ (geoBad d = none → Table.has (geos u) id = false → (geos u).length < 256 →
            ends (.geoReg b) v 0 0 ∧ Table.find (geos v) id = some (geoNormal d) ∧ ∀ k, k ≠ id → Table.find (geos v) k = Table.find (geos u) k))
    ∧ (e = .truss → picks 2 →
        (Table.has (geos s) (j.fld 60 2) = true →
          ends (.geoDel b) (s.modSpan i fun x => { x with geos := Table.del x.geos (j.fld 60 2) }) 0 0)
        ∧ (Table.has (geos s) (j.fld 60 2) = false →
          ends (.geoDel b) (clampLog s 5 3 (fidDesc .truss 60 b) (BitVec.ofNat 64 (j.fld 60 2)) 0) 0x11 1))
    ∧ (e = .truss → picks 3 → ∀ d, Table.find (geos s) (j.fld 60 2) = some d → d ≠ [] → trussAddr s j 64 (j.fld 16 8) 256 = true →
        (physWrite s q false (j.fld 16 8) d).2 = .ok () → ends (.geoRead b) (physWrite s q false (j.fld 16 8) d).1 0 0)

/-- What a copy, a hash job and a full encoding leave in memory, once their work is done, with no destination that overlaps what the job
reads or that firmware has written (R73, R74), and every staging port open (R331, R159 to R164, R55, R64): the bytes moved; the digest of the stream, or the stream kept open; in every row, each parity of the row's data. -/
def Obligations.CopyHashEncodeContents : Prop :=
  ∀ (s : State) (j : Job) (w : JobRun) (mid : List Byte), memOk s = true → j.prog = none → w.loose = false →
    s.ports.stgWrites = [] → (∀ p, flagAt s.ports.stgRst p = false) →
    let done := fun (e : Engine) (m : JobM Unit) => goOn s e j mid m none = (.ok (), w)
    let src := j.fld 8 8
    let dst := j.fld 16 8
    let i := berthSpan j.berth
    (jobOp .tender j = 0x10 ∨ jobOp .tender j = 0x11 → mid = zeros 26 → done .tender (copyJob j) →
      let n := min 16777216 (j.fld 24 4)
      (∀ a, memGet w.s.mem a = if dst ≤ a ∧ a < dst + n then memGet s.mem (src + (a - dst)) else memGet s.mem a)
      ∧ fieldAt w.mid 0 4 = n)
    ∧ (jobOp .hash j ≠ 0 → j.flag 6 = false → done .hash (hashJob j) →
      let l := memRead s.mem src (min 16777216 (j.fld 24 4))
      let p := memRead s.mem (j.fld 40 8) 128
      let kmac := jobOp .hash j = 0x14
      let at0 := pontoonBase i + j.fld 4 4
      let fresh : HashStream := { op := jobOp .hash j, msg := l, key := if kmac then p.take (min 64 (j.fld 50 1)) else []
                                  custom := if kmac then (p.drop 64).take (min 64 (j.fld 51 1)) else [], damaged := false }
      ∃ h : HashStream, (j.flag 5 = true → h = fresh)
        ∧ (j.flag 5 = false → ∃ h0, Table.find (s.span i).hashes at0 = some h0 ∧ h0.op = jobOp .hash j ∧ h = { h0 with msg := h0.msg ++ l })
        ∧ (j.flag 4 = true → Table.find (w.s.span i).hashes at0 = none
            ∧ ∀ k < (streamDigest h (hashOut j)).length, memGet w.s.mem (dst + k) = (streamDigest h (hashOut j)).getD k 0)
        ∧ (j.flag 4 = false → Table.find (w.s.span i).hashes at0 = some h))
    ∧ (1 ≤ jobRows j → done .truss (encFull j) →
      let x := geoOf (jobGeo j 0)
      let col := fun (t p : Nat) => fieldAt (memRead s.mem (t + 8 * p) 8) 0 8
      let outs := (List.range (x.l + x.g)).map (x.k + ·)
      let row := fun (r : Nat) => (List.range x.k).map fun p => (p, symsOf (memRead s.mem (col src p + 4096 * r) 4084))
      (∀ p ∈ outs, ∀ q ∈ outs, p ≠ q → col dst p ≠ 0 → col dst q ≠ 0 →
        overlaps (col dst p, 4096 * jobRows j) (col dst q, 4096 * jobRows j) = false) →
      ∀ r < jobRows j, ∀ p ∈ outs, col dst p ≠ 0 →
        memRead w.s.mem (col dst p + 4096 * r) 4096 = padTo 4096 (symBytes (parityOf x (row r) p)))

/-! ### Memory events, ports and frames (R81, R294, R306 to R315, R323, R328, R340, R409, R410, R416) -/

/-- What the memories and the units' schedulers report (R80, R81, R279, R294, R321 to R323, R328, R340, R413). An attempt of an access that meets
another counts a BUSY answer where R322 gives it one, up to four, when the access fails once; any other attempt ends the retries. A staging beat
that answers no read is counted and reported, as a failed one of a landing is; any other waits for its read, and a corrected one is counted. A test
row comes at its pace, corrects and counts its single-bit errors, counts its bad words, moves the test on, and remaps a failing row while spares
last. A Pilot reads a word that one copy cannot give from the other, which rewrites it, and stops at a word that neither can. A pipe that changes
jobs puts its own aside for a more urgent one, with its progress kept, and turns to the next eligible job of the Berth in turn, which has then started. -/
def Obligations.MemoryAndUnitEvents : Prop :=
  ∀ (s : State) (i : SpanNo),
    (∀ (m : MasterNo) (x : Meeting) (a : Nat), let k := (masterKey m).1
      let n := Table.get 0 s.ports.busy k
      let others := fun (t : State) => t.mem = s.mem ∧ ∀ k', k' ≠ k → Table.get 0 t.ports.busy k' = Table.get 0 s.ports.busy k'
      (meetsBusy m x = true → ∃ t, exec (.accessRetry m (some x)) s = .next t ∧ Table.get 0 t.ports.busy k = min 4 (n + 1) ∧ others t
        ∧ t.ports.gwMet = if m = .gangway then x.bytes else s.ports.gwMet)
      ∧ (∀ y : Option Meeting, y = none ∨ (y = some x ∧ meetsBusy m x = false) →
          ∃ t, exec (.accessRetry m y) s = .next t ∧ Table.get 0 t.ports.busy k = 0 ∧ others t)
      ∧ (inAnyPontoon a = true → ∀ q, let r := takeBusy s q k a
          r.2 = decide (4 ≤ n) ∧ (4 ≤ n → Table.get 0 r.1.ports.busy k = 0)))
    ∧ (∀ (m : MasterNo) (x : Meeting), meetsBusy m x = true ↔
        (x.write = true ∧ x.other = true ∧ onPortA m = false)
        ∨ (x.write ≠ x.other ∧ (x.first = some false ∨ (x.first = none ∧ onPortA m = false))))
    ∧ (∀ (p : BitVec 4) (r : BitVec 2) (tag : Byte), p.toNat < 12 → flagAt s.ports.stgRst p.toNat = false → s.portsUp = true →
      let key := errKey 0x1000 p.toNat
      let up := fun (j : Nat) => s.errs.put (key j) (min (2 ^ 32 - 1) (Table.get 0 s.errs (key j) + 1))
      let failed := Host.Outcome.next (raise { s with errs := up 1 } 1357 p.toNat)
      let stands := Host.Outcome.next { s with
        errs := if r = 1 then up 0 else s.errs
        ports := { s.ports with stgRerr := s.ports.stgRerr.put p.toNat (Table.get [] s.ports.stgRerr p.toNat ++ [r.toNat]) } }
      exec (.stagingReadBeat p r .stray) s = failed ∧ exec (.stagingReadBeat p r (.read tag)) s = stands
      ∧ exec (.stagingReadBeat p r (.landing tag)) s = if 2 ≤ r.toNat then failed else stands)
    ∧ (∀ (p : BitVec 4) (r : BitVec 2) (a : BeatFor),
        12 ≤ p.toNat ∨ flagAt s.ports.stgRst p.toNat = true ∨ s.portsUp = false → exec (.stagingReadBeat p r a) s = .next s)
    ∧ (∀ r : RowTest, testsRun s = true → (s.span i).pon.shadow = none → (s.span i).pon.next < 8192 → fld (s.hreg (spanOff i 0x900)) 31 0 ≠ 0 →
      let x := (s.span i).pon
      let pace := fld (s.hreg (spanOff i 0x900)) 31 0
      let z := r.hits.foldl (fun s h => strikeWord s (pontoonBase i / 64 + h.1 % 131072) h.2) (passUntil x.since pace s)
      let a := pontoonBase i + x.next * 1024
      let errs := fun (j top n : Nat) (t : State) =>
        Table.get 0 t.errs (errKey 0 i.val j) = min top (Table.get 0 s.errs (errKey 0 i.val j) + n)
      ∃ t, exec (.pontoonTestRow i r) s = .next t ∧ t.mem = s.mem
        ∧ (heldByOther s none a 1024 = true → t = z)
        ∧ (heldByOther s none a 1024 = false →
          (t.span i).pon.next = (x.next + 1) % 8192 ∧ t.poison = z.poison
          ∧ (t.span i).pon.since = t.time.ticks ∧ (ticking s = true → x.since + pace ≤ t.time.ticks)
          ∧ (∀ k < 16, Table.find t.soft (a / 64 + k) = none)
          ∧ (Table.get 0 s.errs (errKey 0 i.val 0) < 2 ^ 32 → errs 0 (2 ^ 32 - 1) (softIn z false a 1024).length t)
          ∧ (Table.get 0 s.errs (errKey 0 i.val 1) < 2 ^ 16 →
              errs 1 (2 ^ 16 - 1) ((List.range 16).filter fun k => z.poison.contains (a / 64 + k)).length t)
          ∧ (r.fail = false → (t.span i).pon.spares = x.spares ∧ (t.span i).pon.shadow = none)
          ∧ (r.fail = true → x.spares.length < 64 → (t.span i).pon.spares = x.spares ++ [x.next] ∧ (t.span i).pon.shadow = none)
          ∧ (r.fail = true → 64 ≤ x.spares.length → (t.span i).pon.spares = x.spares ∧ (t.span i).pon.shadow = some x.next)))
    ∧ (∀ f r, testsRun s = true → s.ldr.state = 5 → refloating s = false → (s.ferry f).cs.shadow = none →
      let c := cstoreRow (s.ferry f).cs 64 r (passUntil (s.ferry f).cs.since 40000 s).time.ticks
      ∃ t, exec (.cstoreTestRow (.ferry f) false r) s = .next t ∧ (t.ferry f).cs = c.1 ∧ t.mem = s.mem
        ∧ (t.ferry f).csErr = BitVec.ofNat 32 (min (2 ^ 32 - 1) ((s.ferry f).csErr.toNat + c.2)))
    ∧ (∀ cp r, testsRun s = true → s.ldr.state = 5 → refloating s = false → (if cp then (s.span i).cs1 else (s.span i).cs0).shadow = none →
      let old := if cp then (s.span i).cs1 else (s.span i).cs0
      let c := cstoreRow old 32 r (passUntil old.since 40000 s).time.ticks
      let o := if cp then (s.span i).cs0 else (s.span i).cs1
      ∃ t, exec (.cstoreTestRow (.pilot i) cp r) s = .next t ∧ t.mem = s.mem
        ∧ ((t.span i).pilotFault = true →
            (s.span i).pilotFault = true ∨ ∃ w, c.1.unreadable w = true ∧ o.unreadable w = true)
        ∧ ((∀ w, c.1.unreadable w = false ∧ o.unreadable w = false) →
            (if cp then (t.span i).cs1 else (t.span i).cs0) = c.1 ∧ (if cp then (t.span i).cs0 else (t.span i).cs1) = o
            ∧ (t.span i).csErr = BitVec.ofNat 32 (min (2 ^ 32 - 1) ((s.span i).csErr.toNat + c.2))))
    ∧ (∀ w, let x := s.span i
      let t := pilotReads s i w
      let bad0 := x.cs0.unreadable w
      let bad1 := x.cs1.unreadable w
      (bad0 = false → bad1 = false → t = s) ∧ (bad0 = true → bad1 = true → (t.span i).pilotFault = true)
      ∧ (bad0 = true → bad1 = false → (t.span i).cs0.unreadable w = false ∧ (t.span i).cs1 = x.cs1 ∧ (t.span i).pilotFault = x.pilotFault)
      ∧ (bad0 = false → bad1 = true → (t.span i).cs1.unreadable w = false ∧ (t.span i).cs0 = x.cs0 ∧ (t.span i).pilotFault = x.pilotFault))
    ∧ (∀ e, (unitsRun s = false → exec (.unitJobChange i e) s = .next s)
      ∧ (unitsRun s = true → exec (.unitJobChange i e) s = .next
          ((sidesOf e).foldl (fun s side => (pipesOf e side).foldl (changePipe i e side) s) s)))
    ∧ (∀ e side pipe, let u := (s.span i).unit e
      let t := changePipe i e side s pipe
      (onPipe u pipe = none → nextJob e u side = none → t = s)
      ∧ (∀ j, onPipe u pipe = none → nextJob e u side = some j →
          j ∈ u.jobs ∧ jobEligible e u j = true ∧ jobSide e j = side ∧ inTurn e u j = true
          ∧ Table.find ((t.span i).unit e).current pipe = some j.seq
          ∧ (∀ x ∈ ((t.span i).unit e).jobs, x.seq = j.seq → x.started = true) ∧ ((t.span i).unit e).lastRR = j.berth.val % 64)
      ∧ (∀ j, onPipe u pipe = some j → overtaken e u j = false → othersWait e u j = false → t = s)
      ∧ (∀ j w v p c, berthSpan j.berth = i → overtaken e u j = true → toBoundary s e j = some w → w.base = (v, some p, c) → p.parts = [] →
          let r := writeArea v e j (saveArea e).1 (saveArea e).2 p.next
          r.2 = .ok () →
          let y := (leavePipe i e j s).span i
          (leavePipe i e j s).mem = r.1.mem ∧ (∀ c ∈ (y.unit e).current, c.2 ≠ j.seq)
          ∧ ∀ x ∈ (y.unit e).jobs, x.seq = j.seq → x.started = true ∧ x.prog = some { p with aside := true }))

/-- Landing frames (R289, R306 to R309). A frame for a Berth that accepts it, within its credit, becomes one record of its ring, and a command sets
INT_PEND.frame; a frame whose words are held keeps its port's READY low, with what comes after it. Every other frame is discarded whole, with drops,
a log entry and event 1,359, over its credit with the Berth's own event too. While Ashore, image bytes reach the loader. A record filed in a ring
(R308): its bytes stand in the ring at prod, or at offset 0 where it would pass the end, behind a pad record over the rest; prod and the received
bytes move past it, the Berth's signal bit is set, and memory outside the ring stays. It is filed whenever the Tollgate lets the landing write the
ring and no other access meets it. -/
def Obligations.LandingFrames : Prop :=
  (∀ (s : State) (port : BitVec 2) (b : BerthNo) (kind : BitVec 4) (beats : List Byte),
      let p := port.toNat
      let rows := [(Instr.landingCommandFrame port b beats, 1), (.landingDataFrame port b beats, 2)]
      let all := rows ++ (if kind = 1 ∨ kind = 2 then [] else [(.landingFrameDiscarded port b kind beats, kind.toNat)])
        ++ (if s.ldr.state = 5 then [] else [(.loaderDmaFrame port b kind beats, kind.toNat)])
      let l := padTo (64 * max 1 (ceilDiv beats.length 64)) beats
      let n := min 65472 (fieldAt l 0 4)
      let got := min n (l.length - 64)
      let head := fun (k : Nat) => bytesOfNat 4 got ++ [BitVec.ofNat 8 k, port.setWidth 8, 0, 0] ++ (l.take 64).drop 8
      let body := (l.drop 64).take (64 * ceilDiv got 64)
      let s1 := countBlock s 1 p (l.length / 64)
      let log := fun (v : State) (x y : Nat) => if x = y then v else clampLog v 6 1 (fidFrame 6 0 p b.val) (BitVec.ofNat 64 x) (BitVec.ofNat 64 y)
      let s2 := log (log s1 (fieldAt l 0 4) n) n got
      let gone := fun (k : Nat) => discardLanding s1 b p k
      (∀ c ∈ all, landingRuns s = false ∨ flagAt s.ports.landRst p = true → exec c.1 s = .next s)
      ∧ (landingRuns s = true → flagAt s.ports.landRst p = false →
        (∀ c ∈ all, laneHeld s p = true → exec c.1 s = .next (holdCmd s (.landing p b c.2 beats)))
        ∧ (laneHeld s p = false →
          (s.ldr.state = 5 → (s.span (berthSpan b)).pilotFault = false → ringQ s b ≠ 0 → ∀ c ∈ rows,
            ((s.berth b).received + l.length ≤ (s.berth b).granted →
              let r := fileRecord s2 b (head c.2 ++ body) (64 + 64 * ceilDiv n 64)
              let t := countSpan r.1 (berthSpan b) 4 3 (landAcc r.1 b).who none 1
              (r.2 = .ok → exec c.1 s = .next (if c.2 = 1 then t.modCtx b fun x => { x with intPend := x.intPend ||| 4 } else t))
              ∧ (r.2 = .refused → exec c.1 s = .next (discardLanding r.1 b p c.2))
              ∧ (r.2 = .wait → exec c.1 s = .next (holdCmd (stillWaiting s r.1) (.landing p b c.2 beats))))
            ∧ ((s.berth b).granted < (s.berth b).received + l.length → exec c.1 s = .next (raiseBerth (gone c.2) b 3)))
          ∧ (s.ldr.state = 5 → ∀ c ∈ all, (s.span (berthSpan b)).pilotFault = true ∨ ringQ s b = 0 ∨ (c.2 ≠ 1 ∧ c.2 ≠ 2) →
              exec c.1 s = .next (gone c.2))
          ∧ (s.ldr.state ≠ 5 → ∀ c ∈ all, exec c.1 s = .next
              (if p = 0 ∧ b.val = 1023 ∧ c.2 = 2 ∧ s.ldr.state = 1 ∧ s.ldr.dma = true then ldrDeliver s1 ((l.drop 64).take got) else s1))))
      ∧ ∀ k : Nat, let t := discardLanding s b p k
        t.mem = s.mem ∧ (t.berth b).prod = (s.berth b).prod ∧ (t.berth b).received = (s.berth b).received
        ∧ (t.berth b).drops.toNat = min 65535 ((s.berth b).drops.toNat + 1))
  ∧ (∀ (s : State) (b : BerthNo) (l : List Byte) (space : Nat), memOk s = true →
      let r := fileRecord s b l space
      let u := r.1
      let x := s.berth b
      let p := x.prod
      let size := ringSize s b
      let base := ringBase s b
      let wraps := size < p + space
      let start := if wraps then 0 else p
      p < size → p % 64 = 0 → l.length ≤ space → space ≤ size →
      (r.2 = .ok →
        (∀ k < l.length, memGet u.mem (base + start + k) = l.getD k 0)
        ∧ (wraps → l.length ≤ p → memRead u.mem (base + p) 5 = bytesOfNat 4 (size - p - 64) ++ [0])
        ∧ (∀ a, a < base ∨ base + size ≤ a → memGet u.mem a = memGet s.mem a)
        ∧ (u.berth b).prod = (start + l.length) % size
        ∧ (u.berth b).received = x.received + (if wraps then size - p else 0) + l.length
        ∧ u.bit (berthSpan b) (s.ctx b).home (signalBit b) = true
        ∧ pontoonBase (berthSpan b) + 0x600000 ≤ base ∧ base + size ≤ pontoonBase (berthSpan b) + 0x800000)
      ∧ ((∀ a, base ≤ a → a < base + size → judge s (landAcc s b) false .write a = none) → heldByOther s none base size = false →
          Table.get 0 s.ports.busy (busyKey (landAcc s b)) < 4 → r.2 = .ok))

/-- Credit (R310, R311): a Berth below its low mark is granted the most units its ring and its high mark hold, when the pool has them, in one
credit frame with the sum granted; other Berths get nothing. A frame that has left its port leaves the queue, and the job whose last frame it was
completes, in its order (R80, R334). -/
def Obligations.CreditAndOutboundFrames : Prop :=
  ∀ (s : State) (b : BerthNo),
    let i := berthSpan b
    let x := s.berth b
    let n := grantWant s b
    let w := s.hreg (bteOff b 0x10)
    let q := ringQ s b
    let hi := min (fld w 20 16) q
    let lo := min (fld w 12 8) hi
    let p := fld (s.hreg (bteOff b 0)) 23 22
    let g := x.granted + 65536 * n
    let ahead : Int := x.granted - x.received
    let unread : Int := x.granted - x.consumed
    (landingRuns s = true → s.ldr.state = 5 → (s.span i).pilotFault = false → grantAble s b = true →
      (grantNext s i = none ∨ grantNext s i = some b) →
      ∃ t, exec (.creditGrant b) s = .next t ∧ (t.berth b).granted = g ∧ (t.berth b).grants = x.grants + BitVec.ofNat 32 n ∧ t.mem = s.mem
        ∧ ∃ f : OutFrame, Table.get [] t.ports.landOut p = Table.get [] s.ports.landOut p ++ [f] ∧ f.kind = 5 ∧ f.dest = b.val
          ∧ f.beats.length = 64 ∧ fieldAt f.beats 0 4 = 0 ∧ fieldAt f.beats 16 8 = g % 2 ^ 64 ∧ fieldAt f.beats 24 2 = n)
    ∧ (1 ≤ n → x.st ≠ .idle ∧ x.st ≠ .parked ∧ ahead < (lo * 65536 : Nat)
        ∧ unread + (65536 * n : Nat) ≤ (65536 * q : Nat) ∧ ahead + (65536 * n : Nat) ≤ (65536 * hi : Nat)
        ∧ (((65536 * q : Nat) : Int) < unread + (65536 * (n + 1) : Nat) ∨ ((65536 * hi : Nat) : Int) < ahead + (65536 * (n + 1) : Nat)))
    ∧ (grantAble s b = true → 1 ≤ n ∧ n ≤ poolFree s i)
    ∧ (grantAble s b = false → exec (.creditGrant b) s = .next s)
    ∧ ∀ (slip : Bool) (port : BitVec 2) (f : OutFrame) (rest : List OutFrame),
        let out := fun (v : State) => Table.get [] (if slip then v.ports.slipOut else v.ports.landOut) port.toNat
        let closed := flagAt (if slip then s.ports.slipRst else s.ports.landRst) port.toNat
        (s.portsUp = false ∨ closed = true → exec (.outboundFrameSent slip port) s = .next s)
        ∧ (s.portsUp = true → closed = false →
          (out s = [] → exec (.outboundFrameSent slip port) s = .next s)
          ∧ (out s = f :: rest → ∃ v, out v = rest ∧ v.mem = s.mem ∧ v.berths = s.berths ∧ v.spans = s.spans
              ∧ (f.job = none ∨ (∃ y ∈ rest, y.job = f.job) → exec (.outboundFrameSent slip port) s = .next v)
              ∧ (∀ a, f.job = some a → (∀ y ∈ rest, y.job ≠ f.job) →
                  exec (.outboundFrameSent slip port) s = .next (completeAwaiting v a.1 a.2 none none)
                  ∧ let known := ((v.span (berthSpan a.1)).unit .tender).jobs.find? fun j => j.seq == a.2 && j.await.isSome
                    (known = none → completeAwaiting v a.1 a.2 none none = v)
                    ∧ (∀ j w, known = some j → j.await = some w → completeAwaiting v a.1 a.2 none none = endJob v .tender j { w with ready := true }))))

/-- Slipway frames (R313 to R315, R409): a frame of a received type and length, in a session of the port, is filed as a record of its Berth; the
data of a data frame that the session's window holds go there, the window moves on, and a full window signals the Berth; without room in the
ring, or while its words are held, the frame waits with its port's READY low; any other frame is discarded with event 1,360. -/
def Obligations.SlipwayFrames : Prop :=
  ∀ (s : State) (port : BitVec 2) (n : SessNo) (sata : Bool) (kind : BitVec 4) (code : Byte) (l : List Byte),
    let p := port.toNat
    let stp := if sata then 3 else 2
    let b := sessBerth s n.val
    let o := 0x108000 + 0x20 * n.val
    let win := fld (s.hreg (o + 8)) 47 0
    let left := fld (s.hreg (o + 0x10)) 31 0
    let rows := [(Instr.sspDataIn port n l, 1, 0x01), (.sspXferRdyIn port n l, 1, 0x05), (.sspResponseIn port n l, 1, 0x07),
      (.fisRegisterD2hIn port n sata l, stp, 0x34), (.fisDmaActivateIn port n sata l, stp, 0x39), (.fisDmaSetupIn port n sata l, stp, 0x41),
      (.fisDataIn port n sata l, stp, 0x46), (.fisPioSetupIn port n sata l, stp, 0x5F), (.fisSetDeviceBitsIn port n sata l, stp, 0xA1)]
    let bad := Instr.slipwayFrameDiscarded port kind { session := n, proto := code } l
    let beats := 1 + ceilDiv l.length 64
    let s1 := countBlock s 2 p beats
    let record := fun (proto : Nat) => bytesOfNat 4 l.length ++ [1, BitVec.ofNat 8 (0x80 + p)] ++ bytesOfNat 2 n.val ++ zeros 8
      ++ [BitVec.ofNat 8 proto] ++ zeros 47 ++ padTo (64 * ceilDiv l.length 64) l
    let up := s.ldr.state = 5 ∧ (s.span (berthSpan b)).pilotFault = false
    let nameless := raise (countBlock (clampLog s 6 3 (fidFrame 7 6 p n.val) (BitVec.ofNat 64 n.val) 0) 2 p beats) 1360 p
    (landingRuns s = false ∨ flagAt s.ports.slipRst p = true →
      (∀ r ∈ rows, exec r.1 s = .next s) ∧ exec bad s = .next s ∧ exec (.slipwayAbortedFrame port) s = .next s)
    ∧ (∀ r ∈ rows, fieldAt l 0 1 ≠ r.2.2 → exec r.1 s = .next s)
    ∧ (landingRuns s = true → flagAt s.ports.slipRst p = false →
      (∀ r ∈ rows, fieldAt l 0 1 = r.2.2 → laneHeld s (4 + p) = true → exec r.1 s = .next (holdCmd s (.slip p n.val r.2.1 l)))
      ∧ (laneHeld s (4 + p) = false → ∀ r ∈ rows, fieldAt l 0 1 = r.2.2 →
        let holds := fun (t : State) => exec r.1 s = .next (holdCmd (stillWaiting s t) (.slip p n.val r.2.1 l))
        let files := fun (v : State) =>
          let size := ringSize s b
          let pad := if size < (s.berth b).prod + (record r.2.1).length then size - (s.berth b).prod else 0
          let room := (s.berth b).received - (s.berth b).consumed + pad + (record r.2.1).length
          let z := fileRecord v b (record r.2.1) (record r.2.1).length
          (ringQ s b = 0 → exec r.1 s = .next (discardSlipRing v p n.val b))
          ∧ (ringQ s b ≠ 0 → size ≤ room → exec r.1 s = .next (holdCmd s (.slip p n.val r.2.1 l)))
          ∧ (ringQ s b ≠ 0 → room < size →
            (z.2 = .ok → exec r.1 s = .next (countSpan z.1 (berthSpan b) 4 4 (landAcc z.1 b).who none 1))
            ∧ (z.2 = .refused → exec r.1 s = .next (dropFrame z.1 b 1360 p))
            ∧ (z.2 = .wait → holds z.1))
        (¬ (up ∧ slipReceivable r.2.1 l = true) → exec r.1 s = .next (raise s1 1360 p))
        ∧ (up → slipReceivable r.2.1 l = true →
          (sessionOk s n.val p = false → exec r.1 s = .next nameless)
          ∧ (sessionOk s n.val p = true →
            let h := if r.2.1 = 1 then 24 else 4
            let data := l.drop h
            let k := data.length
            (r.2.2 ≠ 0x01 → r.2.2 ≠ 0x46 → files s1)
            ∧ (r.2.2 = 0x01 ∨ r.2.2 = 0x46 →
              (left < k → files s1)
              ∧ (k ≤ left → s.inStaging win = false →
                  files (countBlock (clampLog s 5 3 (fidReg (o + 8) 6) (BitVec.ofNat 64 (fld (s.hreg (o + 8)) 47 6)) 0) 2 p beats))
              ∧ (k ≤ left → s.inStaging win = true →
                  let z := landWrites s1 (landAcc s b) (if data.isEmpty then [] else [(win, data)])
                  let v := (z.1.setHreg (o + 8) (at' (win + k) 47 0)).setHreg (o + 0x10) (at' (left - k) 31 0)
                  (z.2 = none → exec r.1 s = .next (if left = k ∧ left ≠ 0 then signal v b else v))
                  ∧ (z.2 = some .wait → holds z.1)
                  ∧ (∀ e, z.2 = some e → e ≠ .wait → exec r.1 s = .next (dropFrame z.1 b 1360 p)))))))
      ∧ exec (.slipwayAbortedFrame port) s = .next (raise s 1360 p)
      ∧ (kind = 2 → exec bad s = .next s)
      ∧ (kind ≠ 1 → kind ≠ 2 → exec bad s = .next (raise s1 1360 p))
      ∧ (kind = 1 → slipReceivable code.toNat l = true → sessionOk s n.val p = true → exec bad s = .next s)
      ∧ (kind = 1 → slipReceivable code.toNat l = false ∨ sessionOk s n.val p = false →
        (laneHeld s (4 + p) = true → exec bad s = .next (holdCmd s (.slip p n.val code.toNat l)))
        ∧ (laneHeld s (4 + p) = false → exec bad s = .next (if up ∧ slipReceivable code.toNat l = true then nameless else raise s1 1360 p))))
    ∧ ∀ (v : State), (discardSlipRing v p n.val b).mem = v.mem
        ∧ ((discardSlipRing v p n.val b).berth b).drops.toNat = min 65535 ((v.berth b).drops.toNat + 1)
/-! ### The Viaduct (R374 to R398) -/

/-- The frames of a pairing (R380, R381): HELLO is checked in the spec's order and kept, and a Lead answers with KEX1; a Mirror answers KEX1
with KEX2 and CONFIRM, a Lead KEX2 with CONFIRM, each under the link keys derived from both shared secrets; a CONFIRM that verifies loads the link
slots, erases the ephemeral ones, and the pairing is Syncing. Every failure, that of a signing among them, leaves it Unpaired with its reason. A
frame waits while the engines have older requests, and a frame that the pairing does not wait for changes nothing. -/
def Obligations.PairingFrames : Prop :=
  ∀ (s : State) (h : ViaHeader) (body : List Byte), s.portsUp = true → viaLive s = true → laneHeld s 8 = false → s.via.st = .pairing →
    (pkBusy s = true → ∀ r ∈ viaRows h body, viaType h = r.2 →
      exec r.1 s = .next (holdCmd (stillWaiting (viaCounted s body) (pairJoin (viaCounted s body))) (.via h body)))
    ∧ (pkBusy s = false → viaHeaderOk h body = false → ∀ r ∈ viaRows h body, viaType h = r.2 →
        exec r.1 s = .next (pairLeave (viaCounted s body)))
    ∧ (pkBusy s = false → viaHeaderOk h body = true →
    let v := s.via
    let e := v.eslot
    let fails := fun (i : Instr) (r : Nat) => ∃ t, exec i s = .next t ∧ t.via.st = .unpaired ∧ t.via.reason = BitVec.ofNat 8 r
      ∧ t.via.linkKeys = [] ∧ (t.slot e).st = .empty ∧ (t.slot (e + 1)).st = .empty ∧ t.via.items = []
    let kept := (pairLeave s).keys
    let finger := (List.range 4).flatMap fun i => bytesOfNat 8 (s.hreg (0x300020 + 8 * i)).toNat
    let scalar := ecScalar (s.keyOf (e + 1))
    let keys := fun (t : State) (ssk sse : List Byte) => t.via.transcript = sha3_512 (hellos s ++ t.via.kex1 ++ t.via.kex2)
      ∧ t.via.linkKeys = kmac256 (ssk ++ sse) t.via.transcript 96 (asciiBytes "PHIRA-LINK")
    let signature := fun (k1 k2 : List Byte) =>
      let k := s.keyOf (e + 1)
      let m := sha3_512 (hellos s ++ k1 ++ k2)
      nestedSign s m (asciiBytes "PHIRA-PAIR") (kmac256 k m 32 (asciiBytes "PHIRA-PAIR-R")) fun x => kmac256 k x 64 (asciiBytes "PHIRA-PAIR-K")
    (∀ r ∈ viaRows h body, viaType h = r.2 → 5 ≤ r.2 ∨ (r.2 ≤ 3 ∧ viaProt h = true) ∨ (r.2 = 1 ∧ v.helloPeer ≠ [])
        ∨ (r.2 = 2 ∧ (v.role ≠ .mirror ∨ v.helloPeer = [] ∨ v.kex1 ≠ [])) ∨ (r.2 = 3 ∧ (v.role ≠ .lead ∨ v.kex1 = [] ∨ v.kex2 ≠ [])) →
      exec r.1 s = .next (pairLeave (viaCounted s body)))
    ∧ (viaType h = 1 → viaProt h = false → v.helloPeer = [] →
      (fieldAt body 0 4 ≠ 0x401 → fails (.viaHello h body) 0x0D)
      ∧ (fieldAt body 0 4 = 0x401 →
        (fieldAt body 4 1 = roleCode v.role → fails (.viaHello h body) 0x08)
        ∧ (fieldAt body 4 1 ≠ roleCode v.role →
          (fieldAt body 8 4 ≠ v.epoch.toNat → fails (.viaHello h body) 0x06)
          ∧ (fieldAt body 8 4 = v.epoch.toNat →
            (sha3_256 (body.drop 16) ≠ finger → fails (.viaHello h body) 0x07)
            ∧ (sha3_256 (body.drop 16) = finger →
              (body.length ≠ 2065 ∨ ecPoint (body.drop 1968) = none → fails (.viaHello h body) 0x09)
              ∧ (body.length = 2065 → ecPoint (body.drop 1968) ≠ none → ∃ t, exec (.viaHello h body) s = .next t ∧ t.via.helloPeer = body
                  ∧ t.via.st = .pairing ∧ t.mem = s.mem ∧ t.keys = kept
                  ∧ (v.role ≠ .lead → t.via.out = v.out)
                  ∧ (v.role = .lead → viaSent s t 0x02 ∧ t.via.kex1 = (mlkemKeyGen ((s.keyOf e).take 32) ((s.keyOf e).drop 32)).1 ++ ecBytes (ecPub scalar))))))))
    ∧ (viaType h = 2 → viaProt h = false → v.role = .mirror → v.helloPeer ≠ [] → v.kex1 = [] →
      (body.length ≠ 1665 → fails (.viaKex1 h body) 0x09)
      ∧ (body.length = 1665 → match (if mlkemEkValid (body.take 1568) then ecdhSecret scalar (body.drop 1568) else none) with
        | none => fails (.viaKex1 h body) 0x09
        | some z =>
        let r := mlkemEncaps (body.take 1568) (kmac256 (s.keyOf e) (hellos s ++ body) 32 (asciiBytes "PHIRA-KEM-M"))
        let k2 := r.1 ++ ecBytes (ecPub scalar)
        (signature body k2 = [] → fails (.viaKex1 h body) 0x0A)
        ∧ (signature body k2 ≠ [] → ∃ t x y, exec (.viaKex1 h body) s = .next t ∧ t.via.kex1 = body ∧ t.via.kex2 = k2 ∧ keys t r.2 z
          ∧ t.via.out = v.out ++ [x, y] ∧ fieldAt x.hdr 2 1 = 3 ∧ x.body = k2 ∧ fieldAt y.hdr 2 1 = 4 ∧ t.via.st = .pairing ∧ t.keys = kept)))
    ∧ (viaType h = 3 → viaProt h = false → v.role = .lead → v.kex1 ≠ [] → v.kex2 = [] →
      (body.length ≠ 1665 → fails (.viaKex2 h body) 0x09)
      ∧ (body.length = 1665 → match ecdhSecret scalar (body.drop 1568) with
        | none => fails (.viaKex2 h body) 0x09
        | some z =>
        (signature v.kex1 body = [] → fails (.viaKex2 h body) 0x0A)
        ∧ (signature v.kex1 body ≠ [] → ∃ t, exec (.viaKex2 h body) s = .next t ∧ t.via.kex2 = body ∧ t.via.kex1 = v.kex1
          ∧ keys t (mlkemDecaps (pairKem s).2 (body.take 1568)) z ∧ viaSent s t 4 ∧ t.via.st = .pairing ∧ t.keys = kept)))
    ∧ (viaType h = 4 → 8 ≤ e → e ≤ 4094 →
      let good := !v.linkKeys.isEmpty && viaProt h && fieldAt h.hdr 8 8 == 0 && pairIdOk s h && (viaOpen s h body).any (confirmOk s)
      if good then ∃ t, exec (.viaConfirm h body) s = .next t ∧ t.via.st = .syncing ∧ t.via.rxSeq = 1 ∧ t.via.linkKeys = []
          ∧ (∀ k < 3, (t.slot (4 + k)).st = .loaded ∧ (t.slot (4 + k)).kind = 4 ∧ (t.slot 4).key = v.linkKeys.take 32
              ∧ (t.slot 5).key = (v.linkKeys.drop 32).take 32 ∧ (t.slot 6).key = v.linkKeys.drop 64)
          ∧ (t.slot e).st = .empty ∧ (t.slot (e + 1)).st = .empty ∧ (v.role ≠ .lead → t.via.out = v.out)
      else fails (.viaConfirm h body) 0x0A))

/-- A frame in Syncing, Paired or Detaching that fails a check of R377 breaks the pairing with reason 0x11 and is counted; a valid one moves the
sequence on and ends heartbeat loss (R393), and HEARTBEAT does no more. An ACK completes what it covers (R383, R385, R388, R390), a NACK fails its
batch, SYNC_END applies the initial sync whole and makes a Mirror with idle Berths Paired, DETACH ends the pairing (R397), a higher epoch supersedes
a Lead (R396). A frame behind one that waits waits too, and none arrives while LINK_UP or VD_RST_N is low (R403). -/
def Obligations.ViaductControlFrames : Prop :=
  ∀ (s : State) (h : ViaHeader) (body l : List Byte),
    let v := s.via
    let t0 := viaTaken s body
    let u := { t0 with via := { t0.via with items := [] } }
    let breaks := fun (i : Instr) (tag seq : Nat) => ∃ t, exec i s = .next t ∧ t.via.st = .broken ∧ t.via.reason = 0x11
      ∧ t.via.tagfail = tag ∧ t.via.seqerr = seq
    let bump := fun (n : Nat) => min 65535 (n + 1)
    let n := fieldAt l 0 8
    let ends := fun (i : Instr) (role : Role) (f : State → Prop) => ∃ t, exec i s = .next t ∧ t.via.st = .unpaired ∧ t.via.role = role
      ∧ t.via.superseded = false ∧ (∀ k < 3, (t.slot (4 + k)).st = .empty) ∧ f t
    (∀ r ∈ viaRows h body, s.portsUp = false ∨ viaLive s = false ∨ (viaType h ≠ r.2 ∧ viaTypes.contains (viaType h) = true) →
      exec r.1 s = .next s)
    ∧ (∀ r ∈ viaRows h body, viaType h = r.2 → s.portsUp = true → viaLive s = true → laneHeld s 8 = true →
      exec r.1 s = .next (holdCmd (viaCounted s body) (.via h body)))
    ∧ (∀ r ∈ viaRows h body, viaType h = r.2 → s.portsUp = true → viaLive s = true → laneHeld s 8 = false →
      ((v.st = .syncing ∨ v.st = .paired ∨ v.st = .detaching) →
        (viaHeaderOk h body = false ∨ viaProt h = false → breaks r.1 (bump v.tagfail) v.seqerr)
        ∧ (viaHeaderOk h body = true → viaProt h = true →
          (fieldAt h.hdr 8 8 ≠ v.rxSeq → breaks r.1 v.tagfail (bump v.seqerr))
          ∧ (fieldAt h.hdr 8 8 = v.rxSeq → viaOpen s h body = none ∨ pairIdOk s h = false → breaks r.1 (bump v.tagfail) v.seqerr)
          ∧ (fieldAt h.hdr 8 8 = v.rxSeq → viaOpen s h body = some l → pairIdOk s h = true → viaTypeOk v.role r.2 = false →
              breaks r.1 v.tagfail (bump v.seqerr))))
      ∧ (v.st = .unpaired ∨ v.st = .broken → (v.epoch.toNat ≤ fieldAt h.hdr 16 4 → exec r.1 s = .next (viaCounted s body))
          ∧ (h.damaged = false → fieldAt h.hdr 16 4 < v.epoch.toNat → ∃ t, exec r.1 s = .next t ∧ t.via = { v with nRefused := bump v.nRefused })))
    ∧ (t0.via.rxSeq = v.rxSeq + 1 ∧ t0.via.hbLost = false ∧ t0.via.lastRx = s.time.ticks ∧ t0.mem = s.mem)
    ∧ (viaPasses s 0x10 h body l → exec (.viaHeartbeat h body) s = .next t0)
    ∧ (viaPasses s 0x05 h body l → v.role = .mirror →
      (v.st ≠ .syncing → exec (.viaSyncEnd h body) s = .next t0)
      ∧ (v.st = .syncing → syncApplied t0 = none →
          ∃ t, exec (.viaSyncEnd h body) s = .next t ∧ t.via.st = .broken ∧ t.via.reason = 0x10)
      ∧ (v.st = .syncing → v.sync = [] → ∃ x, syncApplied t0 = some x ∧ x.berths = s.berths ∧ ∀ b, viaMarked x b = viaMarked s b)
      ∧ (∀ x, v.st = .syncing → syncApplied t0 = some x → (∀ b, viaMarked x b = true → (x.berth b).st = .idle) →
          exec (.viaSyncEnd h body) s = .next (viaAckSend { x with via := { x.via with st := .paired } }))
      ∧ (∀ x, v.st = .syncing → syncApplied t0 = some x → (∃ b, viaMarked x b = true ∧ (x.berth b).st ≠ .idle) →
          ∃ t, exec (.viaSyncEnd h body) s = .next t ∧ t.via.st = .unpaired ∧ t.via.reason = 0x10))
    ∧ (viaPasses s 0x11 h body l → v.role = .lead → ∀ q it, v.items = [(q, it)] → q ≤ n →
      (∀ b seq first, it = .batch b seq first →
        exec (.viaAck h body) s = .next (detachGo (ckptPump (completeAwaiting u b seq none none))))
      ∧ (∀ b pd x y, it = .ckpt b → (s.berth b).wait = .ckpt pd x y →
          ∃ t, exec (.viaAck h body) s = .next t ∧ (t.ctx b).getP pd = true ∧ (t.berth b).wait = .none)
      ∧ (∀ b slot k q' own, it = .keyload b slot k → (s.berth b).wait = .key (.ack q' own) → ∃ t, exec (.viaAck h body) s = .next t
          ∧ (t.slot slot).st = .loaded ∧ (t.slot slot).key = k.key ∧ (t.slot slot).keyId = k.keyId ∧ (t.berth b).wait = .key (.done own))
      ∧ (∀ b q' own, it = .keyerase b → (s.berth b).wait = .key (.ack q' own) →
          ∃ t, exec (.viaAck h body) s = .next t ∧ (t.berth b).wait = .key (.done own))
      ∧ (it = .syncEnd → ∃ t, exec (.viaAck h body) s = .next t ∧ t.via.st = .paired))
    ∧ (viaPasses s 0x12 h body l → v.role = .lead → ∀ q b seq first, v.items = [(q, .batch b seq first)] →
      let x := { u with via := { u.via with nacks := bump v.nacks } }
      (first = n → exec (.viaNack h body) s = .next (detachGo (ckptPump (completeAwaiting x b seq (some 0x22) (some 5)))))
      ∧ (first ≠ n → exec (.viaNack h body) s = .next { t0 with via := { t0.via with nacks := bump v.nacks } }))
    ∧ (viaPasses s 0x30 h body l →
      (v.role = .mirror → ends (.viaDetach h body) .mirror fun t => viaSent s t 0x30)
      ∧ (v.role = .lead → v.st = .detaching → ends (.viaDetach h body) .lead fun t => t.via.out = v.out)
      ∧ (v.role = .lead → v.st ≠ .detaching → ends (.viaDetach h body) .lead fun t => viaSent s t 0x30))
    ∧ (viaPasses s 0x31 h body l → v.role = .lead →
      (v.epoch.toNat < fieldAt l 0 4 → ∃ t, exec (.viaPromoted h body) s = .next t ∧ t.via.superseded = true ∧ t.via.st = .broken)
      ∧ (fieldAt l 0 4 ≤ v.epoch.toNat → exec (.viaPromoted h body) s = .next t0))

/-- What a Mirror does with the Lead's data (R383 to R392): a batch's record and cells go into its channel's window, which moves on at the last
byte, when the Berth is signalled and the batch acknowledged, or the batch is refused with a NACK; a whole checkpoint is applied to its idle Berth,
with its working state and its custody mark (R492); a mirrored key is loaded into its empty slot or erased; a mirrored register is written as the
Lead's firmware or host wrote it; each is acknowledged, and what cannot be applied breaks the pairing with reason 0x10. In Syncing keys and registers
are kept for SYNC_END (R380). A frame whose words are held waits (R325). -/
def Obligations.MirrorDataFrames : Prop :=
  ∀ (s : State) (h : ViaHeader) (body l : List Byte), s.via.role = .mirror →
    let v := viaTaken s body
    let breaks := fun (i : Instr) => ∃ t, exec i s = .next t ∧ t.via.st = .broken ∧ t.via.reason = 0x10
    let ctl := fun (c x : Nat) => s.hreg (0x303000 + c * 0x20 + x)
    let win := fun (c : Nat) => fld (ctl c 8) 47 0
    let left := fun (c : Nat) => fld (ctl c 0x10) 31 0
    let owner := fun (c : Nat) => berthOf (fld (ctl c 0) 9 0)
    let holds := fun (i : Instr) (t : State) => exec i s = .next (holdCmd (stillWaiting (viaCounted s body) t) (.via h body))
    let puts := fun (i : Instr) (b : BerthNo) (a : Nat) (l : List Byte) (done : State → State) =>
      let z := viaWrite v b a l
      (z.2 = .ok () → exec i s = .next (done z.1)) ∧ (z.2 = .error .wait → holds i z.1)
      ∧ (∀ e, z.2 = .error e → e ≠ .wait → breaks i)
    (viaPasses s 0x20 h body l →
      let c := fieldAt l 4 2
      let n := 128 + 4096 * fieldAt l 8 4
      let nack := fun (v : State) (r : Nat) =>
        let x := { v with via := { v.via with nacks := min 65535 (s.via.nacks + 1), batch := if n = 128 then none else some (none, n - 128, 0) } }
        exec (.viaBatch h body) s = .next (viaSend x 0x12 true (bytesOfNat 8 s.via.rxSeq ++ [BitVec.ofNat 8 r]))
      (l.length ≠ 128 ∨ fieldAt l 0 4 ≠ 0x42545754 ∨ 63 < c → breaks (.viaBatch h body))
      ∧ (l.length = 128 → fieldAt l 0 4 = 0x42545754 → c ≤ 63 →
        (tb (ctl c 0) 63 = false → nack v 1)
        ∧ (tb (ctl c 0) 63 = true → s.inStaging (win c) = false →
            nack (clampLog v 4 3 (fidReg (0x303008 + c * 0x20) 6) (BitVec.ofNat 64 (win c / 64)) 0) 1)
        ∧ (tb (ctl c 0) 63 = true → s.inStaging (win c) = true → left c < n → nack v 2)
        ∧ (tb (ctl c 0) 63 = true → s.inStaging (win c) = true → n ≤ left c →
            puts (.viaBatch h body) (owner c) (win c) (overlay l 64 (bytesOfNat 8 s.via.rxSeq ++ (h.hdr.drop 16).take 4)) fun w =>
              if n = 128 then batchEnd w c 128 else { w with via := { w.via with batch := some (some c, n - 128, 128) } })))
    ∧ (viaPasses s 0x21 h body l →
      (s.via.batch = none → breaks (.viaCells h body))
      ∧ (∀ ch more done, s.via.batch = some (ch, more, done) →
        (¬ ((l.length = 4096 ∨ l.length = 8192) ∧ l.length ≤ more) → breaks (.viaCells h body))
        ∧ ((l.length = 4096 ∨ l.length = 8192) → l.length ≤ more →
          (ch = none → exec (.viaCells h body) s = .next { v with via := { v.via with
              batch := if more = l.length then none else some (none, more - l.length, 0) } })
          ∧ (∀ c, ch = some c → puts (.viaCells h body) (owner c) (win c + done) l fun w =>
              if more = l.length then batchEnd w c (done + l.length)
              else { w with via := { w.via with batch := some (some c, more - l.length, done + l.length) } }))))
    ∧ (∀ (w : State) (c n : Nat), c ≤ 63 → n % 64 = 0 → viaLive w = true → let t := batchEnd w c n
        let at' := fun (x : State) (o : Nat) => x.hreg (0x303000 + c * 0x20 + o)
        fld (at' t 8) 47 6 = ((at' w 8).toNat + n) % 2 ^ 48 / 64 ∧ fld (at' t 0x10) 31 0 = fld (at' w 0x10) 31 0 - n
        ∧ t.via.batch = none ∧ viaSent w t 0x11 ∧ t.mem = w.mem
        ∧ (let b := berthOf (fld (at' w 0) 9 0); t.bit (berthSpan b) (w.ctx b).home (signalBit b) = true))
    ∧ (viaPasses s 0x22 h body l → ∀ b parts got part, 16 ≤ l.length → fieldAt l 0 2 = b → b ≤ 1023 → fieldAt l 2 2 = part → fieldAt l 4 2 = parts →
      part < parts → (∀ x ∈ (l.drop 6).take 10, x = 0) →
      (s.via.ckpt = some (b, part, parts, got) ∨ (s.via.ckpt = none ∧ part = 0 ∧ got = [])) →
      let all := got ++ l.drop 16
      let z := berthOf b
      let k := ckptWindow s z
      all.length ≤ 66560 →
      (part + 1 < parts → exec (.viaCkpt h body) s = .next { v with via := { v.via with ckpt := some (b, part + 1, parts, all) } })
      ∧ (part + 1 = parts → all.length = 1024 + k.2 → (s.berth z).st = .idle ∨ (s.berth z).st = .parked →
          let r := viaWrite { v with via := { v.via with ckpt := none } } z k.1 (all.drop 1024)
          let w := r.1
          (r.2 = .error .wait → holds (.viaCkpt h body) w) ∧ (∀ e, r.2 = .error e → e ≠ .wait → breaks (.viaCkpt h body))
          ∧ (r.2 = .ok () → ∃ t, exec (.viaCkpt h body) s = .next t ∧ t.mem = w.mem ∧ viaSent w t 0x11
            ∧ (t.ctx z).work = (all.take 1024).drop 648 ∧ (t.ctx z).custody = (all.getD 648 0).getLsbD 0
            ∧ (t.ctx z).pc = BitVec.ofNat 32 (fieldAt all 264 4)
            ∧ (∀ r < 31, Table.get 0 (t.ctx z).g (r + 1) = BitVec.ofNat 64 (fieldAt all (8 * (r + 1)) 8))
            ∧ (t.ctx z).home = (BitVec.ofNat 64 (fieldAt all 272 8)).getLsbD 30 ∧ (∀ y, y ≠ z → t.berth y = w.berth y)))
      ∧ (part + 1 = parts → all.length ≠ 1024 + k.2 ∨ ((s.berth z).st ≠ .idle ∧ (s.berth z).st ≠ .parked) → breaks (.viaCkpt h body)))
    ∧ (s.via.st = .syncing → ∀ r ∈ viaRows h body, r.2 = 0x23 ∨ r.2 = 0x24 ∨ r.2 = 0x25 → viaPasses s r.2 h body l →
        exec r.1 s = .next { v with via := { v.via with sync := s.via.sync ++ [(r.2, l)] } })
    ∧ (viaPasses s 0x23 h body l → s.via.st ≠ .syncing →
      let n := fieldAt l 0 2
      (kwUnwrap (s.keyOf 6) (l.drop 16) = none → breaks (.viaKeyload h body))
      ∧ (∀ p, kwUnwrap (s.keyOf 6) (l.drop 16) = some p → l.length = 80 → 8 ≤ n → n < 4096 → fieldAt l 2 1 = 2 ∨ fieldAt l 2 1 = 3 →
          (s.slot n).st = .empty → natOfBytes (p.take 8) = fieldAt l 8 8 → fieldAt l 3 5 = 0 →
          ∃ t, exec (.viaKeyload h body) s = .next t ∧ viaSent s t 0x11 ∧ (t.slot n).st = .loaded ∧ (t.slot n).kind = fieldAt l 2 1
            ∧ (t.slot n).keyId = BitVec.ofNat 64 (fieldAt l 8 8) ∧ (t.slot n).key = (p.drop 8).take 32 ∧ (t.slot n).mirrored = true
            ∧ ∀ m, m ≠ n → t.slot m = s.slot m))
    ∧ (viaPasses s 0x24 h body l → s.via.st ≠ .syncing → let n := fieldAt l 0 2
      (l.length = 2 → 8 ≤ n → n < 4096 → ∃ t, exec (.viaKeyerase h body) s = .next t ∧ viaSent s t 0x11 ∧ (t.slot n).st = .empty
        ∧ ∀ m, m ≠ n → t.slot m = s.slot m)
      ∧ (l.length ≠ 2 ∨ n < 8 ∨ 4096 ≤ n → breaks (.viaKeyerase h body)))
    ∧ (viaPasses s 0x25 h body l → s.via.st ≠ .syncing → let o := fieldAt l 0 4
      let ok := l.length = 16 ∧ mirroredReg o = true ∧ regExists o = true ∧ fieldAt l 4 1 < 2 ∧ fieldAt l 5 3 = 0
      (ok → fieldAt l 4 1 = 0 → exec (.viaConfig h body) s = .next (regWrite v (.viaduct none) o (BitVec.ofNat 64 (fieldAt l 8 8)) 0xFF).1)
      ∧ (∀ r, ok → fieldAt l 4 1 = 1 → mirrorSrc v o = some r →
          exec (.viaConfig h body) s = .next (regWrite r.1 r.2 o (BitVec.ofNat 64 (fieldAt l 8 8)) 0xFF).1)
      ∧ (ok → fieldAt l 4 1 = 1 → (mirrorSrc v o = none ↔ 0x300000 ≤ o))
      ∧ (¬ ok ∨ (fieldAt l 4 1 = 1 ∧ 0x300000 ≤ o) → breaks (.viaConfig h body)))

/-- What the host commands and time bring about on the Viaduct (R379, R380, R388, R393, R395, R397, R398): PAIR begins a pairing or names why not;
PROMOTE makes a Mirror a Lead of a higher epoch; DETACH ends a pairing; heartbeats are sent and missed; a pairing, a lagging checkpoint and a
detachment time out; the link rises, falls and is reset, when frames that have not left and frames that wait are discarded (R418, R419). -/
def Obligations.ViaductCommandsAndTime : Prop :=
  ∀ (s : State),
    let v := s.via
    let arg := s.hreg 0x300008
    let e := fld arg 27 16
    let epoch := BitVec.ofNat 32 (fld arg 63 32)
    let hb := s.hreg 0x300060
    let gone := fun (t : State) (lo n : Nat) => ∀ k < n, (t.slot (lo + k)).st = .empty
    let reason := fun (i : Instr) (r : Nat) => ∃ t, exec i s = .next t ∧ t.via.reason = BitVec.ofNat 8 r ∧ t.via.st = v.st ∧ t.via.role = v.role
    let after := fun (t0 n : Nat) => passUntil t0 n s
    let synced := v.st = .syncing ∨ v.st = .paired
    let pair := fun (i : Instr) (lead : Bool) =>
      (∀ r, pairRefusal s lead = some r → reason i r)
      ∧ (pairRefusal s lead = none → v.linkUp = true → ∃ t, exec i s = .next t ∧ t.via.st = .pairing ∧ t.via.role = (if lead then .lead else .mirror)
          ∧ t.via.epoch = epoch ∧ t.via.eslot = e ∧ gone t 4 4 ∧ t.via.txSeq = 0 ∧ t.via.rxSeq = 0 ∧ t.mem = s.mem
          ∧ (s.ports.vdRst = false → viaSent s t 0x01) ∧ (s.ports.vdRst = true → t.via.out = v.out))
      ∧ (pairRefusal s lead = none → v.linkUp = false → ∃ t, exec i s = .next t ∧ t.via.st = .unpaired ∧ t.via.reason = 0x0C)
    let served := s.hostUp = true ∧ s.ports.cpRst = false
    let discards := fun (t : State) => t.via.out = [] ∧ laneHeld t 8 = false
    (served → pair .pairLead true ∧ pair .pairMirror false
      ∧ (v.role = .mirror → v.st = .unpaired ∨ v.st = .paired ∨ v.st = .broken → v.epoch.toNat < epoch.toNat →
          ∃ t, exec .promote s = .next t ∧ t.via.role = .lead ∧ t.via.st = .unpaired ∧ t.via.epoch = epoch ∧ gone t 4 3
            ∧ (v.st ≠ .paired → t.via.out = v.out) ∧ (v.st = .paired → viaLive s = true → viaSent s t 0x31))
      ∧ (v.role ≠ .mirror ∨ epoch.toNat ≤ v.epoch.toNat → reason .promote 0x0E)
      ∧ (v.st = .detaching ∨ (v.st = .unpaired ∧ v.role ≠ .mirror) → reason .detach 1)
      ∧ (v.role = .mirror → v.st = .unpaired ∨ v.st = .paired → ∃ t, exec .detach s = .next t ∧ t.via.role = .none ∧ t.via.st = .unpaired ∧ gone t 4 3
          ∧ (v.st = .paired → viaLive s = true → viaSent s t 0x30) ∧ (v.st = .unpaired → t.via.out = v.out))
      ∧ (v.role = .lead → v.st = .paired → ∃ t, exec .detach s = .next t ∧ t.via.st = .detaching ∧ t.via.superseded = false
          ∧ (v.items = [] → (∀ b, viaMarked s b = false) → (viaLive s = true → viaSent s t 0x30) ∧ t.via.detachAt = some s.time.ticks))
      ∧ (v.st = .pairing ∨ v.st = .syncing ∨ v.st = .broken → ∃ t, exec .detach s = .next t ∧ t.via.st = .unpaired ∧ t.via.reason = 0x12
          ∧ gone t v.eslot 2 ∧ gone t 4 3)
      ∧ ∃ t, exec .linkReset s = .next t ∧ t.via.linkUp = v.linkUp ∧ discards t
          ∧ t.via.st = if v.st = .unpaired ∨ v.st = .broken then v.st else .broken)
    ∧ (¬ served → ∀ i ∈ [Instr.pairLead, .pairMirror, .promote, .detach, .linkReset], exec i s = .next s)
    ∧ (ticking s = true →
      (synced → exec .heartbeatSend s = .next (viaSend (after v.lastTx (fld hb 31 0)) 0x10 true []))
      ∧ (v.st = .pairing → v.helloPeer = [] → exec .heartbeatSend s = .next (viaSend (after v.lastTx (fld hb 31 0)) 0x01 false v.helloOwn))
      ∧ (synced → v.hbLost = false → ∃ t, exec .heartbeatLoss s = .next t ∧ t.via.hbLost = true ∧ t.via.st = v.st
          ∧ t.via.items = v.items.filter (fun x => decide (x.2 = .syncEnd)) ∧ (∀ b, let x := (after v.lastRx (fld hb 63 32)).berth b
              ∀ pd y z, x.wait = .ckpt pd y z → Table.has s.berths b.val = true → (t.berth b).wait = .none ∧ (pd ≠ 0 → (t.ctx b).getP pd = false)))
      ∧ (v.st = .pairing ∨ v.st = .syncing → ∃ t, exec .pairingTimeout s = .next t ∧ t.via.st = .unpaired ∧ t.via.reason = 0x0B ∧ gone t v.eslot 2)
      ∧ (∀ b t0, firstLag v.lags = some (b, t0) →
          let u := after t0 (fld (s.hreg 0x300068) 31 0 + 1)
          exec .checkpointLag s = .next (raise { u with via := { u.via with lags := v.lags.put b (t0, true) } } 1371 (b / 64)))
      ∧ (∀ t0, v.detachAt = some t0 → ∃ t, exec .detachTimeout s = .next t ∧ t.via.st = .unpaired ∧ t.via.role = .lead ∧ gone t 4 3))
    ∧ (¬ synced → (v.st = .pairing → v.helloPeer ≠ []) → exec .heartbeatSend s = .next s)
    ∧ (v.linkUp = false → (∃ t, exec .linkUpRise s = .next t ∧ t.via = { v with linkUp := true }) ∧ exec .linkUpFall s = .next s)
    ∧ (v.linkUp = true → exec .linkUpRise s = .next s ∧ ∃ t, exec .linkUpFall s = .next t ∧ t.via.linkUp = false ∧ discards t
        ∧ (v.st = .pairing → t.via.st = .unpaired ∧ t.via.reason = 0x0C)
        ∧ (synced ∨ v.st = .detaching → t.via.st = .broken) ∧ (v.st = .unpaired ∨ v.st = .broken → t.via.st = v.st))
    ∧ (s.ports.vdRst = true → exec .viaductPortReset s = .next { s with ports := { s.ports with vdRst := false } })
    ∧ (s.ports.vdRst = false → ∃ t, exec .viaductPortReset s = .next t ∧ t.ports.vdRst = true ∧ t.via.linkUp = v.linkUp ∧ discards t
        ∧ t.via.st = if v.st = .unpaired ∨ v.st = .broken then v.st else .broken)

/-! ### Power, resets, life cycle, tamper, timebase and entropy (R21, R359 to R371, R416, R432 to R463, R497, R499) -/

/-- The power states (R440, R442 to R447, R497): a command is carried out, begins its sequence of supply lines, or is refused with a reason; each
acknowledged line lets the next be driven, and the last one ends the sequence in its state; Laid up keeps staging memory alone. At Holding every job
under way is put aside at its next boundary (R444); a loss of power cuts jobs off (R76). -/
def Obligations.PowerStates : Prop :=
  ∀ (s : State),
    let p := s.power
    let refused := fun (i : Instr) (r : Nat) => ∃ t, exec i s = .next t ∧ t.power = { p with reason := BitVec.ofNat 8 r } ∧ t.mem = s.mem
    let all := [Instr.underWay, .holding, .moored, .laidUp]
    (¬ cpServes s → ∀ i ∈ all, exec i s = .next s)
    ∧ (cpServes s →
      (p.emul ≠ 0 → ∀ i ∈ all, refused i 1)
      ∧ (p.emul = 0 → p.target ≠ none → ∀ i ∈ all, refused i 2)
      ∧ (p.emul = 0 → p.target = none → p.st = .underWay → exec .underWay s = .next (cpTook s)
          ∧ exec .holding s = .next { cpTook s with power := { p with target := some .holding } } ∧ refused .moored 1 ∧ refused .laidUp 1)
      ∧ (p.emul = 0 → p.target = none → p.st = .holding → exec .holding s = .next (cpTook s)
          ∧ (∃ t, exec .underWay s = .next t ∧ t.power = { p with st := .underWay } ∧ t.mem = s.mem)
          ∧ (anyLifeboat s = true → refused .moored 3)
          ∧ (anyLifeboat s = false → ∃ t, exec .moored s = .next t ∧ t.ent.key = [] ∧ t.ent.seed = none ∧ t.keys = s.keys
              ∧ (∀ b, (s.berth b).st = .running → mayLeave s b = true → (t.berth b).st ≠ .running)
              ∧ (emulates s = true → t.power = { p with st := .moored, emul := 3 })
              ∧ (emulates s = false → p.req.getLsbD 3 = true ∨ p.ack.getLsbD 3 = true → t.power.target = some .moored ∧ t.power.req.getLsbD 3 = false
                  ∧ t.power.seq = [(3, false), (1, false), (0, false)] ∧ t.power.fin = some .moored))
          ∧ ∃ t, exec .laidUp s = .next t ∧ t.via.st = .unpaired ∧ (∀ n, (t.slot n).st = .empty)
              ∧ (∀ i a, pontoonBase i + 0x600000 ≤ a → a < pontoonBase i + 0x800000 → memGet t.mem a = 0)
              ∧ (emulates s = true → t.power = { p with st := .laidUp, emul := 4 })
              ∧ (emulates s = false → p.req.getLsbD 3 = true ∨ p.ack.getLsbD 3 = true → t.power.target = some .laidUp ∧ t.power.req.getLsbD 3 = false
                  ∧ t.power.seq = [(3, false), (1, false), (0, false), (2, false)] ∧ t.power.fin = some .laidUp)))
    ∧ (p.st = .underWay → p.target = some .holding →
      (enginesStopped s = true → ∃ t, exec .holdingReached s = .next t ∧ t.power = { p with st := .holding, target := none }
        ∧ t = raise { holdUnits s with power := t.power } 1362 2)
      ∧ (enginesStopped s = false → exec .holdingReached s = .next s))
    ∧ ((∀ i e, ((s.span i).unit e).current = []) → holdUnits s = s)
    ∧ (∀ e j w v q c, toBoundary s e j = some w → w.base = (v, some q, c) → q.parts = [] →
        (writeArea v e j (saveArea e).1 (saveArea e).2 q.next).2 = .ok () →
        let y := ((stopJob e j s).span (berthSpan j.berth)).unit e
        (∀ c ∈ y.current, c.2 ≠ j.seq) ∧ ∀ x ∈ y.jobs, x.seq = j.seq → x.prog = some { q with aside := true })
    ∧ (∀ (l : BitVec 2) (v : Bool), let n := l.toNat
      (p.good = false ∨ p.req.getLsbD n ≠ v ∨ p.ack.getLsbD n = v → exec (.powerAck l v) s = .next s)
      ∧ (p.good = true → p.req.getLsbD n = v → p.ack.getLsbD n ≠ v →
        (∀ k w rest, p.seq = (n, v) :: (k, w) :: rest → k < 4 → k ≠ n → (p.req.getLsbD k ≠ w ∨ p.ack.getLsbD k ≠ w) →
          ∃ t, exec (.powerAck l v) s = .next t ∧ t.power.ack.getLsbD n = v ∧ t.power.req.getLsbD k = w ∧ t.power.seq = (k, w) :: rest
            ∧ t.mem = s.mem ∧ t.keys = s.keys)
        ∧ (p.seq = [(n, v)] → ∃ t, exec (.powerAck l v) s = .next t
            ∧ (p.fin = some .moored → t.power.st = .moored ∧ t.power.target = none ∧ t.keys = s.keys ∧ t.mem = s.mem)
            ∧ (p.fin = some .laidUp → t.power.st = .laidUp ∧ t.power.target = none ∧ (∀ n, (t.slot n).st = .empty)
                ∧ (∀ a, a < stagingBase → memGet t.mem a = 0)
                ∧ (jobless s = true → ∀ a, stagingBase ≤ a → memGet t.mem a = memGet s.mem a) ∧ t.tamper = s.tamper ∧ t.lc.otp = s.lc.otp)
            ∧ (p.fin = some .woken → t.power.st = .holding ∧ t.power.target = none ∧ t.lc.req = false)
            ∧ (p.fin = some .restored → n ≠ 3 → p.req.getLsbD 3 = false → t.power.st = .holding ∧ t.power.req.getLsbD 3 = true
                ∧ t.power.fin = some .woken ∧ t.power.seq = [(3, true)] ∧ t.keys = s.keys)
            ∧ (p.fin = some .started → s.lc.latch = none → t.power.st = .underWay ∧ t.power.fin = none ∧ t.keys.kpWait = !s.tamper.hold))))
    ∧ (isMoored s = false → exec .wake s = .next s)
    ∧ (isMoored s = true → ∃ t, exec .wake s = .next t ∧ t.keys = s.keys ∧ t.mem = s.mem
        ∧ (p.emul = 3 → t.power.st = .holding ∧ t.power.emul = 0)
        ∧ (p.emul ≠ 3 → p.req.getLsbD 0 = false → t.power.target = some .holding ∧ t.lc.req = true ∧ t.power.req.getLsbD 0 = true
            ∧ t.power.seq = [(0, true), (1, true)] ∧ t.power.fin = some .restored))
    ∧ (p.good = false → exec .powerLoss s = .next s)
    ∧ (p.good = true → ∃ t, exec .powerLoss s = .next t ∧ t.power = { p with good := false } ∧ (∀ i e, ((t.span i).unit e).jobs = [])
        ∧ (jobless s = true → t = { s with power := { p with good := false } }))
    ∧ (p.good = true → exec .powerReturn s = .next s)
    ∧ (p.good = false → ∃ t, exec .powerReturn s = .next t ∧ t.power.good = true ∧ t.rstCause = 1
        ∧ (∀ a, a < stagingBase → memGet t.mem a = 0)
        ∧ (jobless s = true → ∀ a, stagingBase ≤ a → memGet t.mem a = memGet s.mem a))

/-- What the resets leave (R416, R423, R441, R450 to R453): a cold reset keeps staging memory and the OTP; a block reset also the program stores,
B-space and the timebase, and counts itself with its cause; a Span reset clears its Span's Berths, Ferries and secure partition; a Ferry reset parks
its Berth and begins a refloat; ports in reset hold their traffic back, frames that wait there are discarded, beats of unfinished reads that are
missing count as failed, and staging writes follow at the release; jobs that a reset cuts off leave their memory as it was but for what they had
written (R76). -/
def Obligations.ResetsLeave : Prop :=
  ∀ (s : State),
    let cleared := fun (t : State) (top cause : Nat) => (∀ a, a < top → memGet t.mem a = 0)
      ∧ (jobless s = true → ∀ a, top ≤ a → memGet t.mem a = memGet s.mem a) ∧ jobless t = true
      ∧ t.rstCause = BitVec.ofNat 4 cause ∧ (∀ b, (t.berth b).st = .idle ∧ t.ctx b = Ctx.zero) ∧ (∀ n, (t.slot n).st = .empty) ∧ t.barriers = []
      ∧ t.via.st = .unpaired ∧ t.via.role = .none ∧ t.lc.otp = s.lc.otp ∧ t.pending = s.pending ∧ t.logs.clamps = []
    let block := fun (i : Instr) (cause : Nat) => ∃ t, exec i s = .next t ∧ cleared t 0x20000000 cause
      ∧ t.rstCount = min 65535 (s.rstCount + 1) ∧ (∀ i n a, t.bit i n a = s.bit i n a) ∧ t.time = s.time ∧ t.tamper = s.tamper
    (∃ t, exec .coldReset s = .next t ∧ cleared t stagingBase (if s.power.st = .laidUp then 2 else 0) ∧ t.rstCount = 0
      ∧ (∀ i n a, t.bit i n a = false) ∧ t.time.count = 0 ∧ t.power.good = true)
    ∧ (s.power.good = true → s.power.st = .underWay ∨ s.power.st = .holding → block .resetReq 4)
    ∧ (cpServes s → s.power.emul = 0 → block .blockReset 3)
    ∧ (s.power.st = .moored ∨ s.power.st = .laidUp → exec .resetReq s = .next s)
    ∧ (cpServes s → s.power.emul ≠ 0 → exec .blockReset s = .next (cpTook s))
    ∧ (bwCounts s = true → ticking s = true → tb (s.hreg 0x5F0000) 0 = false →
      (tb (s.hreg 0x5F0020) 63 = false → ∃ t, exec .blockWatchdogExpiry s = .next t ∧ t.gw.bwExpired = true ∧ t.mem = s.mem)
      ∧ (tb (s.hreg 0x5F0020) 63 = true → ∃ t, exec .blockWatchdogExpiry s = .next t ∧ cleared t 0x20000000 5))
    ∧ (cpServes s → ∀ i : SpanNo, ∃ t, exec (.spanReset i) s = .next t
      ∧ (∀ a, pontoonBase i + 0x600000 ≤ a → a < pontoonBase i + 0x800000 → memGet t.mem a = 0)
      ∧ (∀ b, berthSpan b = i → (t.berth b).st = .idle ∧ t.ctx b = Ctx.zero ∧ (t.berth b).drops = (s.berth b).drops)
      ∧ (∀ f, ferrySpan f = i → (t.ferry f).berth = none ∧ (t.ferry f).localMem = [] ∧ (t.ferry f).agr = (s.ferry f).agr)
      ∧ (∀ n a, t.bit i n a = s.bit i n a) ∧ (t.span i).pilotFault = (s.span i).pilotFault ∧ (t.span i).geos = []
      ∧ (s.via.role = .mirror → synced s = true → t.via.st = .broken ∧ t.via.reason = 0x10)
      ∧ (∀ e, ((t.span i).unit e).jobs = [])
      ∧ (s.via.role ≠ .mirror ∨ synced s = false → (∀ u ∈ (s.span i).units, u.2.jobs = []) →
          (∀ a, a < pontoonBase i + 0x600000 ∨ pontoonBase i + 0x800000 ≤ a → memGet t.mem a = memGet s.mem a)
          ∧ (∀ b, berthSpan b ≠ i → t.berth b = s.berth b) ∧ (∀ f, ferrySpan f ≠ i → t.ferry f = s.ferry f)
          ∧ t.keys = { s.keys with pkQueue := s.keys.pkQueue.filter fun b => !b.any fun b => berthSpan b == i }))
    ∧ (cpServes s → ∀ f : FerryNo,
      (ferryBusy s f = true → ∃ t, exec (.ferryReset f) s = .next t ∧ (t.ferry f).resetReq = true ∧ t.berths = s.berths ∧ t.mem = s.mem)
      ∧ (ferryBusy s f = false → ∃ t, exec (.ferryReset f) s = .next t ∧ (t.ferry f).refloat = true ∧ (t.ferry f).berth = none
          ∧ (t.ferry f).localMem = [] ∧ (t.ferry f).halt = .run ∧ t.mem = s.mem
          ∧ ∀ b, (s.ferry f).berth = some b → (s.berth b).ferry = some f → mayLeave s b = true →
              (t.berth b).st = .parked ∧ (t.berth b).ferry = none ∧ (t.berth b).gate = none ∧ (t.ctx b).gate = false ∧ (t.ctx b).pc = (s.ctx b).pc))
    ∧ (¬ cpServes s → (∀ f, exec (.ferryReset f) s = .next s) ∧ (∀ i, exec (.spanReset i) s = .next s) ∧ exec .blockReset s = .next s)
    ∧ (∀ (slip mid : Bool) (p : BitVec 2), let n := p.toNat
      let rst := if slip then s.ports.slipRst else s.ports.landRst
      let put := fun (x : Table Bool) => { s with ports := if slip then { s.ports with slipRst := x } else { s.ports with landRst := x } }
      exec (.landingPortResetRelease slip p) s = .next (put (rst.del n))
      ∧ (flagAt rst n = true → exec (.landingPortReset slip p mid) s = .next s)
      ∧ (flagAt rst n = false →
          let k := if slip then 4 + n else n
          let u := dropLane (put (rst.put n true)) k
          laneHeld u k = false ∧ exec (.landingPortReset slip p mid) s = .next
            (if (mid = true ∨ laneHeld s k = true) ∧ s.portsUp = true then raise u (if slip then 1360 else 1359) n else u)))
    ∧ (∀ (p : BitVec 4) (cut : Nat), 12 ≤ p.toNat ∨ flagAt s.ports.stgRst p.toNat = true → exec (.stagingPortReset { port := p, cut := cut }) s = .next s)
    ∧ (∀ (p : BitVec 4) (cut : Nat), p.toNat < 12 →
      (flagAt s.ports.stgRst p.toNat = false → ∃ t, exec (.stagingPortReset { port := p, cut := cut }) s = .next t
        ∧ t = { s with ports := { s.ports with stgRst := s.ports.stgRst.put p.toNat true, stgRerr := t.ports.stgRerr } }
        ∧ (cut = 0 → t.ports.stgRerr = s.ports.stgRerr)
        ∧ (cut ≠ 0 → t.ports.stgRerr = s.ports.stgRerr.put p.toNat (Table.get [] s.ports.stgRerr p.toNat ++ List.replicate cut 2)))
      ∧ ∃ t, exec (.stagingPortResetRelease p) s = .next t ∧ flagAt t.ports.stgRst p.toNat = false ∧ t.berths = s.berths
          ∧ ∀ w, s.ports.stgWrites = [w] → (∀ q ∈ portsOf s w.addr w.data.length, q ≠ p.toNat → flagAt s.ports.stgRst q = false) →
              t.mem = memWrite s.mem w.addr w.data ∧ t.ports.stgWrites = [])
    ∧ (s.ports.cpRst = true → exec .controlPortReset s = .next { s with ports := { s.ports with cpRst := false } })
    ∧ (s.ports.cpRst = false → let low := fun (t : State) => { t with ports := { t.ports with cpRst := true, cpErr := false } }
      let takes := [(Instr.evtFifoTake, 0x2000), (.clampHead0Take, 0x3000), (.drbgRnd, 0x400020)]
        ++ (List.finRange 1024).map (fun n => (.stgAllocTake n, 0x701000 + n.val * 0x20))
      (s.hostUp = false ∨ s.pending = [] → exec .controlPortReset s = .next (low s))
      ∧ (∀ rest o, s.hostUp = true → (∃ c ∈ takes, s.pending = c.1 :: rest ∧ o = c.2) ∨ s.pending = .rcCounterTake (.take o) :: rest ∧ o % 8 = 0 ∧ o < 0x1000000 →
          exec .controlPortReset s = .next (low (if s.freeBit then (regTake s.drawn o).1 else s.drawn))))

/-- Life cycle, OTP, the key port, tamper and the timebase (R21, R432, R437 to R439, R456 to R463): a legal change resets the block and waits for
its OTP write, which settles or fails; K_P is taken once or timed out; a tamper cause halts, wipes and clears everything and is latched; the
timebase is lost, returns and is loaded. -/
def Obligations.LifeCycleTamperTimebase : Prop :=
  ∀ (s : State),
    let moored := isMoored s
    (∀ (t l : BitVec 3), s.power.good = true →
      (moored = true → t = s.lc.state → exec (.lifeCycleChange t l) s = exec .wake s)
      ∧ (moored = false ∨ t ≠ s.lc.state →
        (lcLegal s t = false → ∃ u, exec (.lifeCycleChange t l) s = .next u ∧ u.lc.last = BitVec.ofNat 8 (0x80 + s.lc.state.toNat)
            ∧ u.lc.state = s.lc.state ∧ u.lc.latch = s.lc.latch ∧ u.mem = s.mem)
        ∧ (lcLegal s t = true → ∃ u, exec (.lifeCycleChange t l) s = .next u ∧ u.lc.latch = some t ∧ u.lc.pinNext = l ∧ u.lc.req = true
            ∧ (s.power.st ≠ .laidUp → (s.ent.st = .locked → u.ent.st = .locked) ∧ u.lc.writes = [(.lifeCycle, 0x2F + t.toNat, 0xFFFFFFFF)] ∧ u.rstCause = 6 ∧ (∀ n, (u.slot n).st = .empty)))))
    ∧ (s.lc.writes = [] → (∀ r, exec (.otpAck r) s = .next s) ∧ exec .otpTimeout s = .next s)
    ∧ (∀ j a v rest (r : W32), s.lc.writes = (j, a, v) :: rest →
      let fails := fun (i : Instr) => ∃ t, exec i s = .next t ∧ (∀ w ∈ t.lc.writes, w.1 ≠ j)
        ∧ (j ≠ .lifeCycle → t.ldr.otpErr = true)
        ∧ (j = .lifeCycle → t.lc.otpErr = true ∧ t.lc.latch = none ∧ t.lc.last = BitVec.ofNat 8 (0xC0 + s.lc.state.toNat)
            ∧ t.power.st = .underWay ∧ t.lc.req = false)
      (r &&& v = v → ∃ t, exec (.otpAck r) s = .next t ∧ t.otpWord a = r ∧ (∀ k, k ≠ a → t.otpWord k = s.otpWord k) ∧ t.lc.writes = rest
        ∧ (j ≠ .lifeCycle → t.lc.latch = s.lc.latch ∧ t.mem = s.mem)
        ∧ (j = .lifeCycle → t.lc.latch = none ∧ t.lc.pin = s.lc.pinNext ∧ t.power.st = .underWay ∧ t.keys.kpWait = !s.tamper.hold))
      ∧ (r &&& v ≠ v → fails (.otpAck r)) ∧ (ticking s = true → fails .otpTimeout))
    ∧ (∀ k : BitVec 256, (s.keys.kpWait = false ∨ s.power.good = false → exec (.keyInTransfer k) s = .next s)
      ∧ (s.keys.kpWait = true → s.power.good = true → ∃ t, exec (.keyInTransfer k) s = .next t ∧ t.keys.kpWait = false ∧ t.keys.kpTaken = true
          ∧ (k = 0 ∨ k = BitVec.allOnes 256 ∨ s.lc.state = 4 → t.keys.slots = s.keys.slots)
          ∧ (k ≠ 0 → k ≠ BitVec.allOnes 256 → s.lc.state ≠ 4 →
              (t.slot 0).key = kmac256 (bytesOfNat 32 k.toNat) [] 32 (asciiBytes "PHIRA-SRK") ∧ (t.slot 0).kind = 1 ∧ (t.slot 0).st = .loaded
              ∧ (t.slot 1).key = kmac256 (t.slot 0).key (asciiBytes "IMAGE") 32 (asciiBytes "PHIRA-IMG") ∧ (t.slot 1).kind = 5)))
    ∧ (s.keys.kpWait = false → exec .keyInTimeout s = .next s)
    ∧ (s.keys.kpWait = true → ticking s = true → ∃ t, exec .keyInTimeout s = .next t ∧ t.keys = { s.keys with kpWait := false } ∧ t.mem = s.mem)
    ∧ (∀ (ln : Byte), ∀ p ∈ [(Instr.tamperIn ln, fun (x : Tamper) => { x with lines := x.lines ||| ln }),
          (.dualRailInvalid false, fun x => { x with dualrail := true }), (.dualRailInvalid true, fun x => { x with keyin := true }),
          (.keyPathTimeout false, fun x => { x with timeout := true }), (.keyPathTimeout true, fun x => { x with keyin := true })],
      (p.1 = .tamperIn ln → ln ≠ 0) →
      (s.tamper.hold = true → exec p.1 s = .next { s with tamper := p.2 s.tamper })
      ∧ (s.tamper.hold = false → ∃ t, exec p.1 s = .next t ∧ t.tamper.hold = true ∧ t.tamper.time = s.time.count
          ∧ t.tamper.lines = (p.2 s.tamper).lines ∧ t.tamper.keyin = (p.2 s.tamper).keyin
          ∧ (s.power.st = .underWay ∨ s.power.st = .holding → (∀ n, (t.slot n).st = .empty) ∧ t.ent.dead = true ∧ t.ent.key = []
              ∧ (∀ i e, ((t.span i).unit e).jobs = []) ∧ (∀ f, (s.ferry f).agr.aground = false → (t.ferry f).halt = .halted)
              ∧ (∀ i a, pontoonBase i + 0x600000 ≤ a → a < pontoonBase i + 0x800000 → memGet t.mem a = 0)
              ∧ (s.via.st ≠ .unpaired → t.via.st = .broken))))
    ∧ exec (.tamperIn 0) s = .next s
    ∧ (∀ v, (ticking s = true → exec (.timebaseLoadArm v) s = .next { s with time := { s.time with armed := some v } })
      ∧ (s.time.armed = some v → ticking s = true → ∃ t, exec .timebaseLoad s = .next t ∧ t.time.count = v ∧ t.time.armed = none ∧ t.mem = s.mem))
    ∧ (s.time.armed = none → exec .timebaseLoad s = .next s)
    ∧ exec .timebaseReturn s = .next { s with time := { s.time with lost := false } }
    ∧ (ticking s = false → exec .timebaseLost s = .next s)
    ∧ (ticking s = true → ∃ t, exec .timebaseLost s = .next t ∧ t.time = { s.time with lost := true } ∧ t.mem = s.mem
        ∧ ∀ b, Table.has s.berths b.val = true → (t.ctx b).slack = false)

/-- The entropy machinery (R319, R360 to R371): samples run the health tests and join a seed, the first 768 of all the scramble key, a failing source
is disabled, a start-up test enables or disables its source, 768 samples make a seed, the DRBG instantiates, or its self-tests fail and both sources
with them, reseeds, serves the host and the requests that wait, or lets them time out; a retest tests the disabled sources, and failing again and again
locks the DRBG. Nothing of it runs in a sleep. -/
def Obligations.EntropyMachinery : Prop :=
  ∀ (s : State) (k bit : Bool),
    let e := s.ent
    let x := s.eddy k
    let y := (eddyTests x bit).1
    let other := s.eddy (!k)
    let rct := 35 ≤ y.run
    let apt := 757 ≤ y.recur
    let waitless := e.waits = []
    (y.run = (if x.run ≠ 0 ∧ bit = x.last then x.run + 1 else 1) ∧ y.last = bit
      ∧ (x.win = 0 → y.first = bit ∧ y.recur = 1) ∧ (x.win ≠ 0 → y.first = x.first ∧ y.recur = if bit = x.first then x.recur + 1 else x.recur)
      ∧ y.win = if x.win + 1 = 1024 then 0 else x.win + 1)
    ∧ (s.time.lost = true ∨ entropyOn s = false ∨ (x.st ≠ .enabled ∧ x.testing = false) ∨ (x.testing = true ∧ 1024 ≤ x.taken) →
        exec (.eddySample k bit) s = .next s)
    ∧ (s.time.lost = false → entropyOn s = true → (x.testing = true ∧ x.taken < 1024) ∨ (x.testing = false ∧ x.st = .enabled) →
        ∃ t, exec (.eddySample k bit) s = .next t ∧ t.mem = s.mem
          ∧ (e.scramble ≠ none → t.ent.scramble = e.scramble)
          ∧ (e.scramble = none → e.raw.length < 767 → t.ent.raw = e.raw ++ [bit] ∧ t.ent.scramble = none)
          ∧ (e.scramble = none → e.raw.length = 767 → t.ent.scramble = some (sha3_384 (bytesOfBits 96 (e.raw ++ [bit])))))
    ∧ (s.time.lost = false → entropyOn s = true → x.testing = true → x.taken < 1024 → ∃ t, exec (.eddySample k bit) s = .next t ∧ (t.eddy k).taken = x.taken + 1
        ∧ ((t.eddy k).failed = true ↔ x.failed = true ∨ rct ∨ apt) ∧ t.eddy (!k) = other ∧ t.ent.gather = e.gather)
    ∧ (s.time.lost = false → entropyOn s = true → x.testing = false → x.st = .enabled →
      (¬ rct → ¬ apt → ∃ t, exec (.eddySample k bit) s = .next t ∧ t.eddy k = y ∧ t.eddy (!k) = other ∧ t.ent.seed = e.seed
        ∧ t.ent.gather = if gatherTurn s k then e.gather ++ [bit] else e.gather)
      ∧ (rct ∨ apt → ∃ t, exec (.eddySample k bit) s = .next t ∧ (t.eddy k).st = .disabled ∧ t.eddy (!k) = other ∧ t.ent.gather = []
          ∧ (t.eddy k).why = (if rct then 1 else 2)
          ∧ (other.st = .enabled → t.ent.st = e.st ∧ t.ent.key = e.key ∧ t.ent.seed = e.seed)
          ∧ (other.st = .disabled → e.st ≠ .locked → t.ent.st = .stopped ∧ (e.st ≠ .stopped → t.ent.key = [] ∧ t.ent.seed = none ∧ t.ent.waits = []))))
    ∧ (¬ (x.testing = true ∧ x.taken = 1024 ∧ entropyOn s = true) → exec (.startupTestEnd k) s = .next s)
    ∧ (x.testing = true → x.taken = 1024 → entropyOn s = true → e.retest = false →
      (x.failed = false → ∃ t, exec (.startupTestEnd k) s = .next t ∧ (t.eddy k).st = .enabled ∧ (t.eddy k).testing = false ∧ t.ent.gather = []
        ∧ t.eddy (!k) = other)
      ∧ (x.failed = true → ∃ t, exec (.startupTestEnd k) s = .next t ∧ (t.eddy k).st = .disabled ∧ (t.eddy k).why = 3 ∧ t.eddy (!k) = other))
    ∧ (x.testing = true → x.taken = 1024 → entropyOn s = true → e.retest = true → e.st = .stopped → underRetest other = false →
      (x.failed = false → ∃ t, exec (.startupTestEnd k) s = .next t ∧ t.ent.retest = false ∧ t.ent.st = .starting ∧ (t.eddy k).st = .enabled)
      ∧ (x.failed = true → other.st = .disabled → e.retestRan = false → ∃ t, exec (.startupTestEnd k) s = .next t ∧ t.ent.retest = false
          ∧ t.ent.fails = (s.time.ticks :: e.fails).take 3 ∧ t.ent.st = (if 2 ≤ recentFails s then .locked else .stopped)))
    ∧ (entropyOn s = false ∨ e.gather.length ≠ 768 ∨ e.seed ≠ none ∨ e.dead = true → exec .seedReady s = .next s)
    ∧ (entropyOn s = true → e.gather.length = 768 → e.seed = none → e.dead = false → waitless → exec .seedReady s = .next
        { s with ent := { e with seed := some (sha3_384 (bytesOfBits 96 e.gather)), gather := [] } })
    ∧ (∀ d, e.seed = some d → entropyOn s = true →
      (e.st = .starting → waitless → ∃ t, exec .drbgInstantiate s = .next t ∧ if s.freeBit then
          t = { s.drawn with ent := { e with st := .running, key := (drbgInst d).1, v := (drbgInst d).2, served := 0, seed := none } }
        else x.st ≠ .disabled → t.ent.st = .stopped ∧ t.ent.e0.st = .disabled ∧ t.ent.e1.st = .disabled ∧ t.ent.seed = none ∧ t.ent.waits = [])
      ∧ (e.st = .running → 2 ^ fld (s.hreg 0x400010) 3 0 ≤ e.served → waitless → ∃ t, exec .drbgReseed s = .next t
          ∧ t.ent = { e with key := (drbgReseed e.key e.v d).1, v := (drbgReseed e.key e.v d).2, served := 0, seed := none } ∧ t.mem = s.mem))
    ∧ (entropyOn s = false ∨ e.st ≠ .starting ∨ e.seed = none → exec .drbgInstantiate s = .next s)
    ∧ (entropyOn s = false ∨ e.st ≠ .running ∨ e.seed = none → exec .drbgReseed s = .next s)
    ∧ (∀ b rd rb, e.waits = [b] → (s.berth b.berth).wait = .rnd rd rb → ticking s = true →
        ∃ t, exec .drbgTimeout s = .next t ∧ t.ent.waits = [] ∧ (t.berth b.berth).wait = .none
          ∧ (rb ≠ 0 → (t.ctx b.berth).getG rb.toNat = 0x0C))
    ∧ (∀ b pk fn, e.waits = [b] → (s.berth b.berth).wait = .key (.drbg pk fn) → ticking s = true →
        ∃ t, exec .drbgTimeout s = .next t ∧ t.ent.waits = [] ∧ (t.berth b.berth).wait = .key (.done [(1, 0x0C)]))
    ∧ (waitless → exec .drbgTimeout s = .next s)
    ∧ (¬ cpServes s → exec .retest s = .next s ∧ exec .drbgRnd s = .next s)
    ∧ (cpServes s →
      (e.retest = true ∨ e.st = .locked ∨ e.dead = true → ∃ t, exec .retest s = .next t ∧ t.ent = { e with refused := true })
      ∧ (e.retest = false → e.st ≠ .locked → e.dead = false → x.st = .disabled → ∃ t, exec .retest s = .next t ∧ t.ent.retest = true
          ∧ (t.eddy k).testing = true ∧ (t.eddy k).taken = 0 ∧ (t.eddy k).failed = false ∧ t.ent.st = e.st)
      ∧ (e.retest = false → e.st = .starting ∨ e.st = .running → e.dead = false → x.st ≠ .disabled → other.st ≠ .disabled →
          ∃ t, exec .retest s = .next t ∧ t.ent = { e with retestRan := false })
      ∧ (e.st = .starting → ∃ t, exec .drbgRnd s = .next t ∧ t.ent = { e with hstat := 0x0C } ∧ t.mem = s.mem)
      ∧ (e.st = .stopped ∨ e.st = .locked → ∃ t, exec .drbgRnd s = .next t ∧ t.ent = { e with hstat := 0x0D } ∧ t.mem = s.mem)
      ∧ (e.st = .running → e.served < 1048576 → e.seed = none → ∃ t, exec .drbgRnd s = .next t ∧ t.mem = s.mem
          ∧ t.ent = { e with hstat := 0, served := e.served + 1, key := (drbgGen e.key e.v 8).2.1, v := (drbgGen e.key e.v 8).2.2 }))

/-! ### Registers, the loader, the logs and the Gangway (R281 to R305, R318, R337, R338, R351 to R354, R420 to R429, R464 to R502) -/

/-- The commands of the Berth table (R297 to R299, R302): accepted, START and RESUME make an idle Berth ready at the tail of its queue, START with a
fresh context, UNPARK a parked one; PARK and STOP park or idle a Berth at once, or at its next dispatch when it runs; REHOME clears its context for
the world BTE_CTL names. A command not accepted only sets the refused flag, South-bank firmware commands no North-home Berth, and firmware that its
Tollgate keeps from the table commands none (R345). -/
def Obligations.BerthCommands : Prop :=
  ∀ (s : State) (src : WSrc) (b : BerthNo), s.hostUp = true →
    let rows := [(Instr.berthStart src b, BCmd.start), (.berthResume src b, .resume), (.berthPark src b, .park), (.berthUnpark src b, .unpark),
      (.berthStop src b, .stop), (.berthRehome src b, .rehome)]
    (src = .host ∧ s.ports.cpRst = true ∨ gatePasses s src (bteOff b 0) = false → ∀ r ∈ rows, exec r.1 s = .next s)
    ∧ ((src = .host ∧ s.ports.cpRst = false)
      ∨ (gatePasses s src (bteOff b 0) = true ∧ (src = .fwNorth (berthSpan b) ∨ (src = .fwSouth (berthSpan b) ∧ (s.ctx b).home = false))) →
    let x := s.berth b
    let w := s.hreg (bteOff b 0)
    let north := tb w 17
    let i := berthSpan b
    let does := fun (c : Instr) (p : State → Prop) => ∃ t, exec c s = .next t ∧ p t ∧ t.mem = s.mem ∧ ∀ y, y ≠ b → t.berth y = s.berth y
    let readied := fun (t : State) => (t.berth b).st = .ready ∧ (t.berth b).ferry = none ∧ b ∈ readyQ t i (berthPrio s b)
    let stops := fun (c : Instr) (k : BCmd) (dst : BerthSt) => cmdAccepted s b k = true →
      (x.st = .running → onHalted s x = false → does c fun t => t.berth b = { x with cmd := some dst })
      ∧ (x.st = .running → onHalted s x = true → mayLeave s b = true → does c fun t => (t.berth b).st = dst ∧ (t.berth b).ferry = none ∧ (t.ctx b).pc = (s.ctx b).pc)
      ∧ (x.st ≠ .running → x.st ≠ .waiting → does c fun t => (t.berth b).st = dst ∧ t.ctx b = s.ctx b ∧ ∀ p, b ∉ readyQ t i p)
      ∧ (x.st = .waiting → (∀ k, x.wait ≠ .key k) → does c fun t => (t.berth b).st = dst ∧ (t.berth b).wait = .none ∧ t.ctx b = s.ctx b)
    (∀ k, cmdAccepted s b k = true → s.ldr.state = 5 ∧ (k = .start ∨ k = .resume → x.st = .idle) ∧ (k = .unpark → x.st = .parked)
      ∧ (k = .park → x.st ≠ .idle ∧ x.st ≠ .parked) ∧ (k = .stop → x.st ≠ .idle) ∧ (k = .rehome → x.st = .idle ∨ x.st = .parked))
    ∧ (∀ r ∈ rows, (r.2 = .rehome → src ≠ .fwSouth i) → cmdAccepted s b r.2 = false →
        does r.1 fun t => t.berth b = { x with refused := true })
    ∧ (cmdAccepted s b .start = true → does (.berthStart src b) fun t => readied t ∧ (t.ctx b).pc = BitVec.ofNat 32 (fld w 63 32 / 4 * 4)
        ∧ (t.ctx b).g = [] ∧ (t.ctx b).north = north ∧ (t.ctx b).home = north ∧ (t.ctx b).sup = tb w 16 ∧ (t.berth b).prod = 0
        ∧ ((t.ctx b).seg 0).base.toNat = progBase i ∧ ((t.ctx b).seg 0).x = true ∧ ((t.ctx b).seg 0).w = false)
    ∧ (cmdAccepted s b .resume = true → does (.berthResume src b) fun t => readied t ∧ t.ctx b = s.ctx b)
    ∧ (cmdAccepted s b .unpark = true → does (.berthUnpark src b) fun t => readied t ∧ t.ctx b = s.ctx b)
    ∧ stops (.berthPark src b) .park .parked ∧ stops (.berthStop src b) .stop .idle
    ∧ (src ≠ .fwSouth i → cmdAccepted s b .rehome = true → does (.berthRehome src b) fun t => (t.berth b).st = x.st ∧ (t.berth b).gate = none
        ∧ t.ctx b = { Ctx.zero with north := north, home := north, sup := tb w 16 })
    ∧ (src = .fwSouth i → does (.berthRehome src b) fun t => t.berth b = x))

/-- The microcode loader (R284, R285, R288 to R291): BEGIN opens a load of a base image, or of an extension over a loaded base; image bytes are
taken until the image is whole, and the load ends loaded or failed with every store clear; START runs the engines; COMMIT_VERSION and ENROLL write
OTP; ABORT ends a load; a command out of turn is refused with its reason. Nothing happens while the control port does not serve. -/
def Obligations.MicrocodeLoader : Prop :=
  ∀ (s : State),
    let l := s.ldr
    let gives := fun (i : Instr) (x : Loader) => ∃ t, exec i s = .next t ∧ t.ldr = x ∧ t.mem = s.mem ∧ t.lc = s.lc
    let refuses := fun (i : Instr) (r : Nat) => gives i { l with reason := BitVec.ofNat 8 r }
    let len := fld (s.hreg 0x600010) 25 0
    let base := fun (dma : Bool) => { l with state := 1, reason := 0, engine := 0x1FF, word := 0xFFFF, ext := false, dma := dma, len := len
                                             got := [], stores := [], feat5 := 0, feat0 := 0, feat4 := 0, mcver := 0 }
    let extend := fun (dma : Bool) => { l with state := 1, reason := 0, engine := 0x1FF, word := 0xFFFF, ext := true, dma := dma, len := len, got := [] }
    let rows := [(Instr.ldrBeginBase, false, false), (.ldrBeginBaseDma, false, true), (.ldrBeginExtension, true, false),
      (.ldrBeginExtensionDma, true, true)]
    (¬ cpServes s → ∀ i, i ∈ rows.map (·.1) ∨ i = .ldrStart ∨ i = .commitVersion ∨ i = .enroll ∨ i = .abortLoad ∨ (∃ v, i = .ldrData v) →
      exec i s = .next s)
    ∧ (cpServes s → (∀ r ∈ rows,
      (r.2.1 = false → l.state = 0 ∨ l.state = 6 → gives r.1 (base r.2.2))
      ∧ (r.2.1 = true → l.state = 3 → gives r.1 (extend r.2.2))
      ∧ ((if r.2.1 then l.state ≠ 3 else l.state ≠ 0 ∧ l.state ≠ 6) → refuses r.1 2))
    ∧ (l.state = 3 ∨ l.state = 4 → gives .ldrStart { l with state := 5 })
    ∧ (l.state ≠ 3 → l.state ≠ 4 → refuses .ldrStart 2)
    ∧ (l.state < 3 ∨ 5 < l.state → refuses .commitVersion 2)
    ∧ (3 ≤ l.state → l.state ≤ 5 → 2 < s.lc.state.toNat → refuses .commitVersion 0x1C)
    ∧ (3 ≤ l.state → l.state ≤ 5 → s.lc.state.toNat ≤ 2 → ∃ t, exec .commitVersion s = .next t ∧ t.ldr = l
        ∧ t.lc.writes = s.lc.writes ++ commitWrites s (fld l.mcver 63 32) ∧ t.mem = s.mem)
    ∧ (∀ v, ∀ x ∈ commitWrites s v, x.1 = .commitVersion ∧ 0x10 ≤ x.2.1 ∧ x.2.1 < 0x20 ∧ x.2.2 ≠ s.otpWord x.2.1
        ∧ x.2.2 &&& s.otpWord x.2.1 = s.otpWord x.2.1)
    ∧ (s.lc.state ≠ 1 → refuses .enroll 0x1C)
    ∧ (s.lc.state = 1 → s.otpWord 0x28 ≠ 0 → refuses .enroll 2)
    ∧ (s.lc.state = 1 → s.otpWord 0x28 = 0 → ∃ t, exec .enroll s = .next t ∧ t.ldr = l
        ∧ t.lc.writes = s.lc.writes ++ enrollWrites s ∧ t.mem = s.mem)
    ∧ ((enrollWrites s).length = 9 ∧ (enrollWrites s)[8]? = some (.enroll, 0x28, 1)
        ∧ ∀ k < 8, (enrollWrites s)[k]? = some (.enroll, 0x20 + k,
            ((s.hreg (0x600020 + 8 * (k / 2))) >>> (32 * (k % 2))).setWidth 32))
    ∧ (l.state = 1 ∨ l.state = 2 → gives .abortLoad { l with state := 6, reason := 0x1D, engine := 0x1FF, word := 0xFFFF, got := [], stores := []
                                                             feat0 := 0, feat4 := 0, feat5 := 0, mcver := 0 })
    ∧ (l.state ≠ 1 → l.state ≠ 2 → refuses .abortLoad 2)
    ∧ (∀ v : W64, (l.state ≠ 1 → exec (.ldrData v) s = .next (cpTook s))
      ∧ (l.state = 1 →
        (∃ t, exec (.ldrData v) s = .next t ∧ (t.ldr.state = 1 ∨ t.ldr.state = 3 ∨ t.ldr.state = 4 ∨ t.ldr.state = 6) ∧ t.mem = s.mem
          ∧ (l.len ≤ l.got.length + 8 → t.ldr.state ≠ 1) ∧ (t.ldr.state = 6 → t.ldr.stores = [] ∧ t.ldr.got = []))
        ∧ (l.got.length + 8 < 256 → l.got.length + 8 < l.len → exec (.ldrData v) s = .next
            { cpTook s with ldr := { l with got := l.got ++ bytesOfNat 8 v.toNat } }))))

/-- Register accesses of the host (R318, R337, R338, R351, R354, R422, R466, R471 to R475, R481, R484, R499): a commit takes the staged regions and
makes them active under a new epoch, or is refused; a fence captures the epoch; takes show a head or a counter and remove it, and peeks leave it; extents are handed out,
freed and claimed; groups are broken, Ferries refloated, the block watchdog set; a write outside the register map is logged and answered with CP_ERR;
a numeric field is clamped. -/
def Obligations.HostRegisterAccesses : Prop :=
  ∀ (s : State), cpServes s → mirrorBusy s = false →
    let does := fun (c : Instr) (p : State → Prop) => ∃ t, exec c s = .next t ∧ p t ∧ t.mem = s.mem
    (∀ (i : SpanNo) (w : World), let n := isNorth w
      let t0 := (s.span i).toll n
      let r := plaintextReason s i n t0.taken ((s.span i).toll (!n)).active
      does (.tollCommit .host i w) (fun t => (t.span i).toll n = if t0.busy then { t0 with pending := true } else { t0 with busy := true, taken := t0.staged })
      ∧ (t0.busy = false → exec (.tollCommitEnd i w) s = .next s)
      ∧ (t0.busy = true → does (.tollCommitEnd i w) fun t => let u := (t.span i).toll n
          u.busy = t0.pending ∧ u.pending = false ∧ u.staged = t0.staged ∧ (t0.pending = true → u.taken = t0.staged)
          ∧ (r = 0 → u.active = t0.taken ∧ u.refused = false ∧ (t.span i).epoch = (s.span i).epoch + 1)
          ∧ (r ≠ 0 → u.active = t0.active ∧ u.refused = true ∧ u.reason = BitVec.ofNat 4 r ∧ (t.span i).epoch = (s.span i).epoch))
      ∧ does (.tollFence .host i w) (fun t => (t.span i).fencePend = true ∧ (t.span i).fenceEpoch = (s.span i).epoch)
      ∧ exec (.tollFenceDone i) s = .next (if (s.span i).fencePend = true ∧ olderAccess s i (s.span i).fenceEpoch = false then
          s.modSpan i fun x => { x with fencePend := false } else s))
    ∧ (does .evtFifoTake fun t => t.logs = { s.logs with fifo := s.logs.fifo.drop 1 } ∧ t.ports.cpErr = false
        ∧ (s.logs.fifo = [] → t.ports.cpData = 0)
        ∧ (∀ e rest, s.logs.fifo = e :: rest → tb t.ports.cpData 63 = true ∧ fld t.ports.cpData 42 32 = e.source % 2048
            ∧ fld t.ports.cpData 55 48 = e.code % 256 ∧ fld t.ports.cpData 62 56 = e.count % 128 ∧ fld t.ports.cpData 31 0 = e.time.toNat))
    ∧ (does .evtFlush fun t => t.logs = { s.logs with fifo := [] })
    ∧ (does .clampHead0Take fun t => t.logs = { s.logs with clamps := s.logs.clamps.drop 1 } ∧ t.ports.cpErr = false)
    ∧ (does .clampFlush fun t => t.logs = { s.logs with clamps := [] })
    ∧ (∀ o < 0x200000, let a := 8 * o
      exec (.rcCounterTake (.peek a)) s = .next { s with ports := { s.ports with cpData := regPeek s a, cpErr := !regExists a } })
    ∧ (does (.rcCounterTake (.take 0x1018)) fun t => t.rstCount = 0 ∧ fld t.ports.cpData 23 8 = s.rstCount % 65536)
    ∧ (does (.rcCounterTake (.take 0x300070)) fun t => t.via = { s.via with tagfail := 0, seqerr := 0, nRefused := 0, nacks := 0 }
        ∧ fld t.ports.cpData 63 48 = s.via.tagfail % 65536)
    ∧ (∀ n : SessionNo, let held := s.alloc.held
      ((s.stagingSize / 0x200000 ≤ held.length ∨ quotaOf s n.val ≤ heldBy s n.val) →
        does (.stgAllocTake n) fun t => t.ports.cpData = 0 ∧ t.alloc.held = held)
      ∧ (held.length < s.stagingSize / 0x200000 → heldBy s n.val < quotaOf s n.val → (held.map (·.1)).Pairwise (· < ·) →
          (∀ e ∈ held, e.1 < s.stagingSize / 0x200000) →
          does (.stgAllocTake n) fun t => ∃ e < s.stagingSize / 0x200000, Table.has held e = false ∧ t.alloc.held = held.put e n.val
            ∧ t.ports.cpData.toNat = stagingBase + e * 0x200000)
      ∧ ∀ v : W64,
        (∀ e, extentAt s v = some e →
          (held.find e = some n.val → does (.stgFree .host n v) fun t => t.alloc = { s.alloc with held := held.del e })
          ∧ (held.find e ≠ some n.val → does (.stgFree .host n v) fun t => t.alloc = s.alloc ∧ t.logs.count = min (2 ^ 32 - 1) (s.logs.count + 1))
          ∧ (Table.has held e = false → does (.stgClaim .host n v) fun t => t.alloc = { s.alloc with held := held.put e n.val })
          ∧ (Table.has held e = true → does (.stgClaim .host n v) fun t => t.alloc = s.alloc ∧ t.logs.count = min (2 ^ 32 - 1) (s.logs.count + 1)))
        ∧ (extentAt s v = none → does (.stgFree .host n v) (fun t => t.alloc = s.alloc) ∧ does (.stgClaim .host n v) fun t => t.alloc = s.alloc))
    ∧ (∀ (m : BitVec 16), does (.gopBreak m) fun t =>
        (∀ g < 16, Table.find t.barriers g = if m.getLsbD g then none else Table.find s.barriers g)
        ∧ ∀ (g : Fin 16) b y pd z, m.getLsbD g.val = true → Table.find s.barriers g.val = some y → b ∈ y.arrived →
            (s.berth b).wait = .bar z pd none → (t.berth b).wait = .none ∧ (pd ≠ 0 → (t.ctx b).getP pd = false))
    ∧ (∀ (i : SpanNo) (m : BitVec 16), does (.ferryRefloat i m) fun t => ∀ f : FerryNo,
        (t.ferry f).refloat = ((s.ferry f).refloat || (decide (ferrySpan f = i) && m.getLsbD (f.val % 16) && (s.ferry f).agr.aground)))
    ∧ (∀ v : W64, let n := fld v 31 0
      does (.bwdogCtlWrite v 0xFF) fun t => fld (t.hreg 0x5F0020) 31 0 = (if n = 0 then 0 else max n 10000)
        ∧ tb (t.hreg 0x5F0020) 63 = tb v 63 ∧ t.gw.bwRem.toNat = (if n = 0 then 0 else max n 10000) ∧ t.gw.bwExpired = false)
    ∧ (∀ (o : Nat) (v : W64) (be : Byte), o < 0x1000000 → o % 8 = 0 →
      (does (.registerWrite .host o v 0) fun t => t = cpTook s)
      ∧ (regExists o = false → be ≠ 0 → does (.registerWrite .host o v be) fun t => t.ports.cpErr = true
          ∧ t.logs.count = min (2 ^ 32 - 1) (s.logs.count + 1) ∧ t.berths = s.berths ∧ t.spans = s.spans))
    ∧ (∀ (i : SpanNo) (v : W64), does (.registerWrite .host (spanOff i 0x800) v 0xFF) fun t =>
        fld (t.hreg (spanOff i 0x800)) 31 0 = max 1000 (min 1000000 (fld v 31 0))
        ∧ (fld v 31 0 < 1000 ∨ 1000000 < fld v 31 0 → t.logs.count = min (2 ^ 32 - 1) (s.logs.count + 1)))
    ∧ (∀ (c : CounterNo) (n : Nat), let o := (counterAt c).1
      let cfg := s.hreg (o - 8)
      let k := (Table.get 0 s.cnts o).toNat + n
      (tb cfg 63 = true → fld cfg 11 0 ≠ 0 → frozenBy s cfg = false → 2 ^ 48 ≤ k → tb cfg 61 = false → tb cfg 60 = false →
        does (.blockCounterOverflow c n) fun t => Table.get 0 t.cnts o = BitVec.ofNat 48 k ∧ tb (t.hreg (o - 8)) 62 = true)
      ∧ (k < 2 ^ 48 ∨ tb cfg 63 = false → exec (.blockCounterOverflow c n) s = .next s))

/-- The Gangway (R424 to R429, R484 to R497): without a debugger a command is answered DETACHED and does nothing; a North command is denied in a
block closed to debug; a Tollgate refusal touches nothing; a read brings the bytes at its address, a take has the register's effect, a peek none; a
write lands, and one that meets another access is a collision. A word held by LOCK is waited for, with no other command taken meanwhile. A Berth marked
for custody is not shown. HALT, RESUME and STEP move their targets through the run states, RUNSTAT shows one, and a reserved command or argument is
refused. Each code of GW_CMD is its command. The hypothesis on the block counters keeps an overflow of theirs from halting Ferries besides (R493). -/
def Obligations.GangwayCommands : Prop :=
  ∀ (s : State) (addr : W48) (v arg : W64), s.hostUp = true → (∀ x ∈ s.ports.outst, x.key ≠ 512) → (∀ k < 8, tb (s.hreg (0x500000 + 16 * k)) 60 = false) →
    let a := addr.toNat / 8 * 8
    let ack := fun (c : Instr) (st : Nat) => ∃ t, exec c s = .next t ∧ t.gw.status = st ∧ t.mem = s.mem ∧ t.berths = s.berths ∧ t.hregs = s.hregs
    let north := [Instr.gwReadNorthPeek addr, .gwReadNorthTake addr, .gwWriteNorth addr v]
    let south := [Instr.gwReadSouthPeek addr, .gwReadSouthTake addr, .gwWriteSouth addr v]
    let run := [Instr.gwHalt arg, .gwResume arg, .gwStep arg, .gwRunstat arg]
    let state := fun (t : State) (f : FerryNo) => (t.ferry f).halt
    let all := Instr.gwNone :: .gwReservedCommand 4 :: (north ++ south ++ run)
    ((south ++ [Instr.gwReservedCommand 4] ++ north ++ run).map gangwayCode = (List.range 11).map (fun k => some (BitVec.ofNat 4 (k + 1)))
      ∧ gangwayCode Instr.gwNone = some 0 ∧ (∀ c : BitVec 4, gangwayCode (.gwReservedCommand c) = if c = 4 ∨ 12 ≤ c.toNat then some c else none)
      ∧ ∀ c : BitVec 4, gangwayCode (.gwReservedCommand c) = none → exec (.gwReservedCommand c) s = .next s)
    ∧ (laneHeld s 9 = true → ∀ c ∈ all, exec c s = .next s)
    ∧ (laneHeld s 9 = false → (s.gw.attached = false → (∀ c ∈ all, exec c s = .next (gwAck s 6 0))
      ∧ (∃ t, exec .gwAttach s = .next t ∧ t.gw.attached = true ∧ tb (t.hreg 0x5F0000) 0 = true ∧ t.mem = s.mem)
      ∧ exec .gwDetach s = .next s)
    ∧ (s.gw.attached = true →
      exec .gwAttach s = .next s
      ∧ (∃ t, exec .gwDetach s = .next t ∧ t.gw.attached = false ∧ (s.power.emul = 0 → t.power = s.power)
          ∧ (s.power.emul = 3 → s.power.req.getLsbD 3 = true ∨ s.power.ack.getLsbD 3 = true → t.power.emul = 0 ∧ t.power.target = some .moored ∧ t.power.req.getLsbD 3 = false))
      ∧ ack .gwNone 0
      ∧ (∀ c : BitVec 4, c = 4 ∨ 12 ≤ c.toNat → ack (.gwReservedCommand c) 5)
      ∧ (s.openDebug = false → ∀ c ∈ north, ∃ t, exec c s = .next t ∧ t.gw.status = 3 ∧ t.gw.deny = BitVec.ofNat 48 a ∧ t.mem = s.mem
          ∧ t.berths = s.berths)
      ∧ (∀ (n : Bool) (peek take write : Instr),
          (if n then s.openDebug = true ∧ peek = .gwReadNorthPeek addr ∧ take = .gwReadNorthTake addr ∧ write = .gwWriteNorth addr v
           else peek = .gwReadSouthPeek addr ∧ take = .gwReadSouthTake addr ∧ write = .gwWriteSouth addr v) →
        let o := a - 0x50000000
        let q := gwAcc n a
        let data := fun (c : Instr) (w : Nat) => ∃ t, exec c s = .next t ∧ t.gw.status = 0 ∧ t.gw.rdata = BitVec.ofNat 64 w
        -- the register window
        (0x50000000 ≤ a → a < 0x51000000 → regExists o = true → (s.openDebug = true ∨ northPage o = false) →
          data peek (regPeek s o).toNat ∧ (∃ t, exec peek s = .next t ∧ t = gwAck s 0 (regPeek s o))
          ∧ exec take s = .next (gwAck (regTake s o).1 0 (regTake s o).2.1)
          ∧ (s.openDebug = true ∨ (0x500000 ≤ o ∧ o < 0x600000) → ∃ t, exec write s = .next t ∧ t.gw.status = 0
              ∧ t = gwDone (regWrite s .gangway o v 0xFF).1))
        ∧ (0x50000000 ≤ a → a < 0x51000000 → regExists o = false → s.openDebug = true ∨ northPage o = false → ∀ c ∈ [peek, take], ∃ t, exec c s = .next t ∧ t.gw.status = 4 ∧ t.mem = s.mem)
        -- a Pontoon outside the secure partitions, and the program stores
        ∧ (((0x10000000 ≤ a ∧ a < 0x18000000) ∨ (0x20000000 ≤ a ∧ a < 0x21000000)) →
          (∀ c ∈ [peek, take], ((gateCheck s q false .read a 8).2 ≠ none → ∃ t, exec c s = .next t ∧ t.gw.status = 4 ∧ t.mem = s.mem)
            ∧ ((gateCheck s q false .read a 8).2 = none → heldByOther s none a 8 = true →
                exec c s = .next (holdCmd (stillWaiting s (staysOut s q 512 .read a 8)) (.gw n addr none)))
            ∧ ((gateCheck s q false .read a 8).2 = none → heldByOther s none a 8 = false →
              (Table.get 0 s.ports.busy 512 = 0 → poisonedIn s a 8 = none → data c (natOfBytes (memRead s.mem a 8)))
              ∧ (Table.get 0 s.ports.busy 512 = 0 → poisonedIn s a 8 ≠ none → ∃ t, exec c s = .next t ∧ t.gw.status = 2 ∧ t.mem = s.mem)
              ∧ (Table.get 0 s.ports.busy 512 ≠ 0 → inAnyPontoon a = true → ∃ t, exec c s = .next t ∧ t.gw.status = 1 ∧ t.mem = s.mem
                  ∧ ∀ k < 8, let byte := fun (x : W64) => (bytesOfNat 8 x.toNat).getD k 0
                    byte t.gw.rdata = memGet s.mem (a + k) ∨ byte t.gw.rdata = byte s.ports.gwMet)))
          ∧ ((gateCheck s q false .write a 8).2 ≠ none → ∃ t, exec write s = .next t ∧ t.gw.status = 4 ∧ t.mem = s.mem)
          ∧ ((gateCheck s q false .write a 8).2 = none → heldByOther s none a 8 = true →
              exec write s = .next (holdCmd (stillWaiting s (staysOut s q 512 .write a 8)) (.gw n addr (some v))))
          ∧ ((gateCheck s q false .write a 8).2 = none → heldByOther s none a 8 = false →
            (Table.get 0 s.ports.busy 512 = 0 → ∃ t, exec write s = .next t ∧ t.gw.status = 0 ∧ t.mem = memWrite s.mem a (bytesOfNat 8 v.toNat))
            ∧ (Table.get 0 s.ports.busy 512 ≠ 0 → inAnyPontoon a = true → ∃ t, exec write s = .next t ∧ t.gw.status = 1 ∧ t.mem = s.mem)))
        -- a Berth's context in the Berth store
        ∧ (0x30000000 ≤ a → a < 0x30100000 →
          let b := berthOf ((a - 0x30000000) / 0x400)
          (∀ c ∈ [peek, take], (gateCheck s q false .read a 8).2 = none →
            ((shownCtx s b).custody = true ∨ (s.ctx b).custody = true → ∃ t, exec c s = .next t ∧ t.gw.status = 3 ∧ t.mem = s.mem)
            ∧ ((shownCtx s b).custody = false → (s.ctx b).custody = false → data c (natOfBytes (readCtx s b (a % 0x400) 8))))
          ∧ ((gateCheck s q false .write a 8).2 = none → (shownCtx s b).custody = false → (s.ctx b).custody = false →
              exec write s = .next (gwDone (writeCtx s b 1 (a % 0x400) (bytesOfNat 8 v.toNat)))))
        -- the instruction buffer of the selected Ferry
        ∧ (0x10000 ≤ a → a < 0x14000 → (gwHaltedBerth s n = none → ∀ c ∈ [peek, take, write], ack c 4)
          ∧ (∀ f b, gwHaltedBerth s n = some (f, b) → ack write 4
              ∧ ((s.ctx b).custody = false → ∀ c ∈ [peek, take], data c (natOfBytes (bufferBytes s f (a - 0x10000))))))
        -- the control store of the selected engine
        ∧ (0x20000 ≤ a → a < 0x40000 → (s.openDebug = false → ∀ c ∈ [peek, take, write], ∃ t, exec c s = .next t ∧ t.gw.status = 3 ∧ t.mem = s.mem)
          ∧ (s.openDebug = true → ack write 4 ∧ ∀ c ∈ [peek, take], let e := gwEngine s; let w := (a - 0x20000) / 0x20
              (256 ≤ e → 2048 ≤ w → ack c 4)
              ∧ (e < 256 ∨ w < 2048 → data c (natOfBytes (((bytesOfNat 18 ((storeWords e (Table.get [] s.ldr.stores e)).getD w 0)
                  ++ zeros 14).drop (a % 0x20)).take 8)))))
        -- the local data of the selected Ferry
        ∧ (a < 0x8000 → (gwHaltedBerth s n = none → ∀ c ∈ [peek, take, write], ack c 4)
          ∧ (∀ f b, gwHaltedBerth s n = some (f, b) → (s.ctx b).custody = false →
              (∀ c ∈ [peek, take], data c (natOfBytes (memRead (s.ferry f).localMem a 8)))
              ∧ ∃ t, exec write s = .next t ∧ t.gw.status = 0 ∧ (t.ferry f).localMem = memWrite (s.ferry f).localMem a (bytesOfNat 8 v.toNat)
                  ∧ t.mem = s.mem)))
      ∧ (gwTargets s arg true = none → ack (.gwHalt arg) 5 ∧ ack (.gwResume arg) 5)
      ∧ (gwTargets s arg false = none → ack (.gwStep arg) 5 ∧ ack (.gwRunstat arg) 5)
      ∧ (∀ l, gwTargets s arg true = some l → fld arg 9 8 ≠ 1 → ∃ t, exec (.gwHalt arg) s = .next t ∧ t.gw.status = 0 ∧ t.mem = s.mem
          ∧ t.berths = s.berths ∧ t.gw.rdata = BitVec.ofNat 64 (l.filter fun f => runState (s.ferry f) == 0).length
          ∧ (∀ f, f ∉ l → t.ferry f = s.ferry f)
          ∧ ∀ f ∈ l, t.ferry f = if (s.ferry f).agr.aground = true ∨ (s.ferry f).halt ≠ .run then s.ferry f
              else { s.ferry f with halt := .halting, hcause := 1 })
      ∧ (∀ l, gwTargets s arg true = some l → fld arg 9 8 = 1 → let g := fld arg 7 0
          exec (.gwHalt arg) s = .next (gwAck (trigger s [g] none 1 1) 0
            (if tb (xtCtl s g) 0 then BitVec.ofNat 64 (l.filter fun f => runState (s.ferry f) == 0).length else 0)))
      ∧ (gwTargets s arg true ≠ none → s.tamper.hold = true → exec (.gwResume arg) s = .next (gwAck s 0 0))
      ∧ (∀ l, gwTargets s arg true = some l → s.tamper.hold = false → ∃ t, exec (.gwResume arg) s = .next t ∧ t.gw.status = 0 ∧ t.mem = s.mem
          ∧ (∀ f, f ∉ l → t.ferry f = s.ferry f)
          ∧ (∀ f ∈ l, (s.ferry f).agr.aground = false → (s.ferry f).refloat = false → state t f = .run)
          ∧ (∀ f ∈ l, ∀ b, state s f = .halted → (s.ferry f).agr.aground = false → (s.ferry f).refloat = false → (s.ferry f).berth = some b →
              (t.ferry f).skipBrk = true ∧ (t.ctx b).pc = (s.ctx b).pc ∧ fld (s.hreg 0x5F0018) 31 0 ≤ (t.ctx b).wdogRem.toNat))
      ∧ (∀ f, gwTargets s arg false = some [f] →
        exec (.gwRunstat arg) s = .next (gwAck s 0 (runstat s f))
        ∧ (runState (s.ferry f) = 2 → (s.ferry f).berth ≠ none → s.tamper.hold = false → ∃ t, exec (.gwStep arg) s = .next t
            ∧ state t f = .run ∧ (t.ferry f).step = true ∧ (t.ferry f).stepMask = tb arg 16 ∧ t.mem = s.mem)
        ∧ ((runState (s.ferry f) ≠ 2 ∨ (s.ferry f).berth = none ∨ s.tamper.hold = true) → exec (.gwStep arg) s = .next (gwAck s 0 (runstat s f))))))
    ∧ ∃ t, exec .gwHaltIn s = .next t ∧ t.mem = s.mem ∧ t.berths = s.berths
        ∧ ∀ f, state t f = if (s.ferry f).agr.aground = false ∧ state s f = .run
            ∧ ((List.range 8).any fun g => tb (xtCtl s g) 0 && tb (xtCtl s g) 1 && xtMember s g f) = true then .halting else state s f
end

