-- ==== Sys2Proof/Laws/Aes.lean ====
section
/-!
SUPPORT. Lengths of AES-256 blocks, and the three round trips: the block cipher is undone by its inverse, GCM opens what it sealed, and key
wrap unwraps what it wrapped.
-/
namespace Sys2Proof.Machine

theorem xorBytes_length (a b : List Byte) : (xorBytes a b).length = min a.length b.length := by simp [xorBytes]

theorem xorBytes_cancel (a b : List Byte) (h : a.length ≤ b.length) : xorBytes (xorBytes a b) b = a := by
  induction a generalizing b with
  | nil => rfl
  | cons x a ih =>
    cases b with
    | nil => simp at h
    | cons y b =>
      simp only [List.length_cons, Nat.add_le_add_iff_right] at h
      have := ih b h
      simp only [xorBytes, List.zipWith_cons_cons, List.cons.injEq] at this ⊢
      refine ⟨?_, this⟩
      rw [BitVec.xor_assoc, BitVec.xor_self, BitVec.xor_zero]

theorem padTo_length (n : Nat) (l : List Byte) : (padTo n l).length = n := by
  simp [padTo, zeros]; omega

/-- Pieces of a list of whole pieces. -/
theorem chunks_lengths (n k : Nat) (l : List Byte) (hn : 0 < n) (h : l.length = n * k) :
    (chunks n k l).length = k ∧ ∀ x ∈ chunks n k l, x.length = n := by
  induction k generalizing l with
  | zero => simp [chunks]
  | succ k ih =>
    have hl : l.isEmpty = false := by
      cases l with
      | nil => rw [Nat.mul_succ, List.length_nil] at h; omega
      | cons => rfl
    have hd : (l.drop n).length = n * k := by rw [List.length_drop, h, Nat.mul_succ]; omega
    obtain ⟨i1, i2⟩ := ih (l.drop n) hd
    refine ⟨by simp [chunks, hl, i1], ?_⟩
    intro x hx
    simp only [chunks, hl, Bool.false_eq_true, if_false, List.mem_cons] at hx
    rcases hx with rfl | hx
    · rw [List.length_take, h, Nat.mul_succ]; omega
    · exact i2 x hx

/-- Every word of the key schedule has four bytes, and it has `n` words more than it began with. -/
theorem aesKeyStep_lengths (n i : Nat) (w : List (List Byte)) (h8 : 8 ≤ w.length) (h4 : ∀ x ∈ w, x.length = 4) :
    (aesKeyStep n i w).length = w.length + n ∧ ∀ x ∈ aesKeyStep n i w, x.length = 4 := by
  induction n generalizing i w with
  | zero => exact ⟨rfl, h4⟩
  | succ n ih =>
    have g : ∀ j, j < 8 → (w.getD j []).length = 4 := by
      intro j hj
      have hj' : j < w.length := by omega
      rw [List.getD_eq_getElem?_getD, List.getElem?_eq_getElem hj', Option.getD_some]
      exact h4 _ (List.getElem_mem hj')
    have ht : ∀ t : List Byte, t.length = 4 → (xorBytes (w.getD 7 []) t).length = 4 := by
      intro t ht; rw [xorBytes_length, g 7 (by omega), ht]; rfl
    have key : ∀ t : List Byte, t.length = 4 →
        (aesKeyStep n (i + 1) (xorBytes (w.getD 7 []) t :: w)).length = w.length + (n + 1)
        ∧ ∀ x ∈ aesKeyStep n (i + 1) (xorBytes (w.getD 7 []) t :: w), x.length = 4 := by
      intro t ht'
      have := ih (i + 1) (xorBytes (w.getD 7 []) t :: w) (by simp; omega)
        (fun x hx => (List.mem_cons.1 hx).elim (fun e => e ▸ ht t ht') (h4 x))
      simp only [List.length_cons] at this
      exact ⟨by omega, this.2⟩
    have g0 := g 0 (by omega)
    unfold aesKeyStep
    apply key
    split
    · generalize hr : (((w.getD 0 []).drop 1 ++ (w.getD 0 []).take 1).map sbox) = r
      have hl : r.length = 4 := by
        rw [← hr, List.length_map, List.length_append, List.length_drop, List.length_take, g0]; rfl
      simp only [hr]
      cases r with
      | nil => simp at hl
      | cons b u => simpa using hl
    · split
      · rw [List.length_map]; exact g0
      · exact g0

theorem flatten_length4 (l : List (List Byte)) (h : ∀ x ∈ l, x.length = 4) : l.flatten.length = 4 * l.length := by
  induction l with
  | nil => rfl
  | cons x l ih =>
    have := ih fun y hy => h y (List.mem_cons_of_mem _ hy)
    have := h x List.mem_cons_self
    simp only [List.flatten_cons, List.length_append, List.length_cons]; omega

/-- AES-256 has fifteen round keys of sixteen bytes. -/
theorem aesRoundKeys_lengths (key : List Byte) : (aesRoundKeys key).length = 15 ∧ ∀ k ∈ aesRoundKeys key, k.length = 16 := by
  refine ⟨by simp [aesRoundKeys], ?_⟩
  intro k hk
  simp only [aesRoundKeys, List.mem_map, List.mem_range] at hk
  obtain ⟨r, hr, rfl⟩ := hk
  have hp := padTo_length 32 key
  have c9 : ∀ l : List Byte, l.length = 32 → (chunks 4 9 l).length = 8 ∧ ∀ x ∈ chunks 4 9 l, x.length = 4 := by
    intro l hl
    have h := chunks_lengths 4 8 l (by omega) (by omega)
    have e : ∀ k m : List Byte, m.length = 4 * k.length → chunks 4 (k.length + 1) m = chunks 4 k.length m := by
      intro k
      induction k with
      | nil =>
        intro m hm
        have : m = [] := List.eq_nil_of_length_eq_zero (by simpa using hm)
        subst this; rfl
      | cons a k ih =>
        intro m hm
        have hd : (m.drop 4).length = 4 * k.length := by rw [List.length_drop, hm, List.length_cons]; omega
        show (if m.isEmpty then [] else m.take 4 :: chunks 4 (k.length + 1) (m.drop 4))
          = (if m.isEmpty then [] else m.take 4 :: chunks 4 k.length (m.drop 4))
        rw [ih _ hd]
    have := e (List.replicate 8 0) l (by simpa using hl)
    simp only [List.length_replicate] at this
    rw [this]; exact h
  have h0 := c9 _ hp
  have e0 : chunksOf 4 (padTo 32 key) = chunks 4 9 (padTo 32 key) := by simp only [chunksOf, hp]
  rw [← e0] at h0
  have hs := aesKeyStep_lengths 52 8 (chunksOf 4 (padTo 32 key)).reverse (by simp [h0.1])
    (by intro x hx; exact h0.2 x (by simpa using hx))
  rw [flatten_length4]
  · have : (chunksOf 4 (padTo 32 key)).reverse.length = 8 := by simp [h0.1]
    simp only [List.length_take, List.length_drop, List.length_reverse, hs.1, this]; omega
  · intro x hx
    have := List.mem_of_mem_drop (List.mem_of_mem_take hx)
    exact hs.2 x (by simpa using this)

theorem mixColumns_length (l : List Byte) : (mixColumns l).length = l.length := by
  fun_induction mixColumns l <;> simp_all

theorem aesRounds_length (ks : List (List Byte)) (s : List Byte) (h : ∀ k ∈ ks, k.length = 16) (hs : s.length = 16) :
    (aesRounds ks s).length = 16 := by
  induction ks generalizing s with
  | nil => exact hs
  | cons k ks ih =>
    have hk := h k List.mem_cons_self
    have hr : ∀ x : List Byte, (shiftRows x).length = 16 := fun _ => rfl
    cases ks with
    | nil => simp [aesRounds, xorBytes_length, hr, hk]
    | cons k' ks =>
      exact ih _ (fun y hy => h y (List.mem_cons_of_mem _ hy)) (by simp [xorBytes_length, mixColumns_length, hr, hk])

/-- The cipher makes a block of a block. -/
theorem aesEncRk_length (key b : List Byte) (hb : b.length = 16) : (aesEncRk (aesRoundKeys key) b).length = 16 := by
  obtain ⟨h15, h16⟩ := aesRoundKeys_lengths key
  generalize aesRoundKeys key = rk at *
  cases rk with
  | nil => simp at h15
  | cons k ks =>
    exact aesRounds_length ks _ (fun y hy => h16 y (List.mem_cons_of_mem _ hy))
      (by rw [xorBytes_length, hb, h16 k List.mem_cons_self]; rfl)

theorem bytesOfNat_length (n v : Nat) : (bytesOfNat n v).length = n := by
  induction n generalizing v with
  | zero => rfl
  | succ n ih => simp [bytesOfNat, ih]

theorem inc32_length (b : List Byte) (h : b.length = 16) : (inc32 b).length = 16 := by
  simp [inc32, bytesOfNatBE, bytesOfNat_length, h]

/-- Counter mode keeps the length of a text, and twice over it is the text. -/
theorem gctr_twice (key cb l : List Byte) (k m : Nat) (hc : cb.length = 16) (hk : l.length ≤ 16 * k) (hm : l.length ≤ 16 * m) :
    let rk := aesRoundKeys key
    let c := gctr rk cb (chunks 16 k l)
    c.length = l.length ∧ gctr rk cb (chunks 16 m c) = l := by
  intro rk
  induction k generalizing cb l m with
  | zero =>
    have : l = [] := List.eq_nil_of_length_eq_zero (by omega)
    subst this
    cases m <;> simp [chunks, gctr]
  | succ k ih =>
    by_cases he : l.isEmpty = true
    · have : l = [] := by simpa using he
      subst this
      cases m <;> simp [chunks, gctr]
    · have hl : 0 < l.length := by
        cases l with
        | nil => simp at he
        | cons => simp
      cases m with
      | zero => omega
      | succ m =>
        have hb := aesEncRk_length key cb hc
        have hx : (xorBytes (l.take 16) (aesEncRk rk cb)).length = min 16 l.length := by
          rw [xorBytes_length, hb, List.length_take]; omega
        have i := ih (inc32 cb) (l.drop 16) m (inc32_length cb hc) (by rw [List.length_drop]; omega) (by rw [List.length_drop]; omega)
        have hd : (l.drop 16).length = l.length - 16 := List.length_drop
        simp only [chunks, he, Bool.false_eq_true, if_false, gctr]
        refine ⟨by rw [List.length_append, i.1, hx, hd]; omega, ?_⟩
        generalize hq : gctr rk (inc32 cb) (chunks 16 k (l.drop 16)) = q at i
        have hne : (xorBytes (l.take 16) (aesEncRk rk cb) ++ q).isEmpty = false := by
          generalize hp : xorBytes (l.take 16) (aesEncRk rk cb) = p at hx
          cases p with
          | nil => simp at hx; omega
          | cons => rfl
        have hq' : q.length = l.length - 16 := by rw [i.1, hd]
        have ht : (xorBytes (l.take 16) (aesEncRk rk cb) ++ q).take 16 = xorBytes (l.take 16) (aesEncRk rk cb)
            ∧ (xorBytes (l.take 16) (aesEncRk rk cb) ++ q).drop 16 = q := by
          by_cases h16 : 16 ≤ l.length
          · have : (xorBytes (l.take 16) (aesEncRk rk cb)).length = 16 := by omega
            exact ⟨List.take_left' this, List.drop_left' this⟩
          · have : q = [] := List.eq_nil_of_length_eq_zero (by omega)
            subst this
            rw [List.append_nil]
            exact ⟨List.take_of_length_le (by omega), List.drop_of_length_le (by omega)⟩
        simp only [hne, Bool.false_eq_true, if_false, gctr, ht.1, ht.2, i.2]
        rw [xorBytes_cancel _ _ (by rw [hb, List.length_take]; omega), List.take_append_drop]

/-- The length of a tag. -/
theorem gcmTag_length (key iv aad ct : List Byte) (hi : iv.length = 12) : (gcmTag (aesRoundKeys key) iv aad ct).length = 16 := by
  simp only [gcmTag]
  rw [xorBytes_length, aesEncRk_length key _ (by rw [List.length_append, hi]; rfl)]
  simp [bytesOfNatBE, bytesOfNat_length]

/-- GCM opens what it sealed. -/
theorem gcmDec_gcmEnc (key iv aad pt : List Byte) (hi : iv.length = 12) :
    (gcmEnc key iv aad pt).1.length = pt.length ∧ (gcmEnc key iv aad pt).2.length = 16
    ∧ gcmDec key iv aad (gcmEnc key iv aad pt).1 (gcmEnc key iv aad pt).2 = some pt := by
  have hc : (inc32 (iv ++ [0, 0, 0, 1])).length = 16 := inc32_length _ (by rw [List.length_append, hi]; rfl)
  have h := gctr_twice key _ pt (pt.length / 16 + 1) (pt.length / 16 + 1) hc (by omega) (by omega)
  have ht := gcmTag_length key iv aad (gcmEnc key iv aad pt).1 hi
  refine ⟨h.1, ht, ?_⟩
  have e : chunksOf 16 (gcmEnc key iv aad pt).1 = chunks 16 (pt.length / 16 + 1) (gcmEnc key iv aad pt).1 := by
    simp only [chunksOf]; rw [show (gcmEnc key iv aad pt).1.length = pt.length from h.1]
  have ht' : (gcmTag (aesRoundKeys key) iv aad (gcmEnc key iv aad pt).1).take (gcmEnc key iv aad pt).2.length
      = (gcmEnc key iv aad pt).2 := List.take_of_length_le (by show _ ≤ (gcmTag _ iv aad _).length; exact Nat.le_refl _)
  simp only [gcmDec]
  rw [if_pos ht', e]
  exact congrArg some h.2

/-! ### The inverse cipher -/

theorem byte_xor_left_comm (a b c : Byte) : a ^^^ (b ^^^ c) = b ^^^ (a ^^^ c) := by
  rw [← BitVec.xor_assoc, BitVec.xor_comm a b, BitVec.xor_assoc]

theorem byte_xor_cancel (a b : Byte) : a ^^^ (a ^^^ b) = b := by
  rw [← BitVec.xor_assoc, BitVec.xor_self, BitVec.zero_xor]

theorem aesX_xor (x y : Byte) : aesX (x ^^^ y) = aesX x ^^^ aesX y := by
  unfold aesX
  rw [BitVec.getLsbD_xor]
  cases x.getLsbD 7 <;> cases y.getLsbD 7 <;>
    simp [BitVec.shiftLeft_xor_distrib, BitVec.xor_assoc, BitVec.xor_comm, byte_xor_left_comm]

/-- The coefficients of the inverse mixing as sums of doublings. -/
theorem aesMul_inverse_coefficients : ∀ a : Byte,
    aesMul 14 a = aesX (aesX (aesX a)) ^^^ (aesX (aesX a) ^^^ aesX a)
    ∧ aesMul 11 a = aesX (aesX (aesX a)) ^^^ (aesX a ^^^ a)
    ∧ aesMul 13 a = aesX (aesX (aesX a)) ^^^ (aesX (aesX a) ^^^ a)
    ∧ aesMul 9 a = aesX (aesX (aesX a)) ^^^ a := by decide +kernel

/-- One byte of the inverse mixing, when the mixed bytes satisfy the relations that mixing gives them. -/
theorem unmix (m0 m1 m2 m3 a b c e : Byte) (hM : m0 ^^^ (m1 ^^^ (m2 ^^^ m3)) = e) (h2 : m0 ^^^ m2 = (a ^^^ c) ^^^ aesX e)
    (h1 : m0 ^^^ m1 = (a ^^^ b) ^^^ aesX (a ^^^ c)) (h0 : m0 = a ^^^ (e ^^^ aesX (a ^^^ b))) :
    aesMul 14 m0 ^^^ aesMul 11 m1 ^^^ aesMul 13 m2 ^^^ aesMul 9 m3 = a := by
  have hr : m1 ^^^ (m2 ^^^ m3) = m0 ^^^ e := by rw [← hM, byte_xor_cancel]
  have : aesMul 14 m0 ^^^ aesMul 11 m1 ^^^ aesMul 13 m2 ^^^ aesMul 9 m3
      = aesX (aesX (aesX (m0 ^^^ (m1 ^^^ (m2 ^^^ m3))))) ^^^ (aesX (aesX (m0 ^^^ m2)) ^^^ (aesX (m0 ^^^ m1) ^^^ (m1 ^^^ (m2 ^^^ m3)))) := by
    simp only [aesMul_inverse_coefficients, aesX_xor]
    ac_rfl
  rw [this, hM, hr, h2, h1, h0]
  generalize a ^^^ b = p
  generalize a ^^^ c = q
  simp only [aesX_xor]
  generalize aesX (aesX (aesX e)) = x
  generalize aesX (aesX q) = y
  generalize aesX p = z
  rw [show x ^^^ (y ^^^ x ^^^ (z ^^^ y ^^^ (a ^^^ (e ^^^ z) ^^^ e))) = a ^^^ ((x ^^^ x) ^^^ ((y ^^^ y) ^^^ ((z ^^^ z) ^^^ (e ^^^ e)))) by ac_rfl]
  simp only [BitVec.xor_self, BitVec.xor_zero]

/-- One byte of the inverse mixing of a mixed column. -/
theorem unmix_column (a b c d e : Byte) (he : a ^^^ b ^^^ c ^^^ d = e) :
    aesMul 14 (a ^^^ e ^^^ aesX (a ^^^ b)) ^^^ aesMul 11 (b ^^^ e ^^^ aesX (b ^^^ c)) ^^^ aesMul 13 (c ^^^ e ^^^ aesX (c ^^^ d))
      ^^^ aesMul 9 (d ^^^ e ^^^ aesX (d ^^^ a)) = a := by
  have hx : aesX a ^^^ aesX b ^^^ aesX c ^^^ aesX d = aesX e := by rw [← he]; simp only [aesX_xor]
  apply unmix _ _ _ _ a b c e
  · simp only [aesX_xor]
    generalize aesX a = xa
    generalize aesX b = xb
    generalize aesX c = xc
    generalize aesX d = xd
    refine Eq.trans (b := (a ^^^ b ^^^ c ^^^ d) ^^^ ((e ^^^ e) ^^^ ((e ^^^ e) ^^^ ((xa ^^^ xa) ^^^ ((xb ^^^ xb) ^^^ ((xc ^^^ xc) ^^^ (xd ^^^ xd))))))) (by ac_rfl) ?_
    simp only [BitVec.xor_self, BitVec.xor_zero, he]
  · rw [← hx]
    simp only [aesX_xor]
    generalize aesX a = xa
    generalize aesX b = xb
    generalize aesX c = xc
    generalize aesX d = xd
    refine Eq.trans (b := (a ^^^ c ^^^ (xa ^^^ xb ^^^ xc ^^^ xd)) ^^^ (e ^^^ e)) (by ac_rfl) ?_
    simp only [BitVec.xor_self, BitVec.xor_zero]
  · simp only [aesX_xor]
    generalize aesX a = xa
    generalize aesX b = xb
    generalize aesX c = xc
    refine Eq.trans (b := (a ^^^ b ^^^ (xa ^^^ xc)) ^^^ ((e ^^^ e) ^^^ (xb ^^^ xb))) (by ac_rfl) ?_
    simp only [BitVec.xor_self, BitVec.xor_zero]
  · ac_rfl

/-- The inverse mixing undoes the mixing. -/
theorem mixWith_mixColumns (l : List Byte) : mixWith 14 11 13 9 (mixColumns l) = l := by
  fun_induction mixColumns l with
  | case1 a b c d t e ih =>
    have h0 := unmix_column a b c d e rfl
    have h1 := unmix_column b c d a e (by show _ = a ^^^ b ^^^ c ^^^ d; ac_rfl)
    have h2 := unmix_column c d a b e (by show _ = a ^^^ b ^^^ c ^^^ d; ac_rfl)
    have h3 := unmix_column d a b c e (by show _ = a ^^^ b ^^^ c ^^^ d; ac_rfl)
    simp only [mixWith, ih, List.cons.injEq, and_true]
    exact ⟨h0, Eq.trans (by ac_rfl) h1, Eq.trans (by ac_rfl) h2, Eq.trans (by ac_rfl) h3⟩
  | case2 l h =>
    unfold mixWith
    split
    · exact absurd rfl (h _ _ _ _ _)
    · rfl

theorem sboxInv_sbox : ∀ b : Byte, sboxInv (sbox b) = b := by decide +kernel

theorem sboxInv_comp_sbox : sboxInv ∘ sbox = id := by
  funext b
  rw [Function.comp_apply, sboxInv_sbox, id]

theorem shiftRowsInv_shiftRows (l : List Byte) (h : l.length = 16) : shiftRowsInv (shiftRows l) = l := by
  match l, h with
  | [_, _, _, _, _, _, _, _, _, _, _, _, _, _, _, _], _ => rfl

/-- The inverse rounds undo the rounds; `rest` are the keys of the rounds before. -/
theorem aesRoundsInv_aesRounds (ks : List (List Byte)) (r : List Byte) (rest : List (List Byte)) (s : List Byte)
    (h : ∀ k ∈ ks, k.length = 16) (hs : s.length = 16) (hn : ks ≠ []) :
    ∃ k t, ks.reverse ++ r :: rest = k :: t
      ∧ aesRoundsInv t (xorBytes (aesRounds ks s) k) = aesRoundsInv (r :: rest) (shiftRows (s.map sbox)) := by
  induction ks generalizing r rest s with
  | nil => exact absurd rfl hn
  | cons k ks ih =>
    have hk := h k List.mem_cons_self
    have hr : ∀ x : List Byte, (shiftRows x).length = 16 := fun _ => rfl
    cases ks with
    | nil =>
      refine ⟨k, r :: rest, rfl, ?_⟩
      simp only [aesRounds]
      rw [xorBytes_cancel _ _ (Nat.le_of_eq (by rw [hr, hk]))]
    | cons k' ks =>
      have hm : (mixColumns (shiftRows (s.map sbox))).length = 16 := by rw [mixColumns_length]; rfl
      have hl : (xorBytes (mixColumns (shiftRows (s.map sbox))) k).length = 16 := by rw [xorBytes_length, hm, hk]; rfl
      obtain ⟨k2, t, e, i⟩ := ih k (r :: rest) _ (fun y hy => h y (List.mem_cons_of_mem _ hy)) hl (by simp)
      refine ⟨k2, t, by rw [← e, List.reverse_cons (as := k' :: ks), List.append_assoc]; rfl, ?_⟩
      simp only [aesRounds]
      refine i.trans ?_
      simp only [aesRoundsInv]
      rw [shiftRowsInv_shiftRows _ ((List.length_map _).trans hl), List.map_map]
      rw [sboxInv_comp_sbox, List.map_id, xorBytes_cancel _ _ (Nat.le_of_eq (by rw [hm, hk])), mixWith_mixColumns]

/-- Decryption undoes encryption. -/
theorem aesDec_aesEnc (key b : List Byte) (hb : b.length = 16) : aesDec key (aesEnc key b) = b := by
  obtain ⟨h15, h16⟩ := aesRoundKeys_lengths key
  unfold aesDec aesEnc
  generalize aesRoundKeys key = rk at *
  cases rk with
  | nil => simp at h15
  | cons k0 ks =>
    have hk := h16 k0 List.mem_cons_self
    have hs : (xorBytes b k0).length = 16 := by rw [xorBytes_length, hb, hk]; rfl
    obtain ⟨k, t, e, i⟩ := aesRoundsInv_aesRounds ks k0 [] _ (fun y hy => h16 y (List.mem_cons_of_mem _ hy)) hs
      (by intro h; subst h; simp at h15)
    rw [List.reverse_cons, e]
    simp only [aesEncRk]
    refine i.trans ?_
    simp only [aesRoundsInv]
    rw [shiftRowsInv_shiftRows _ ((List.length_map _).trans hs), List.map_map]
    rw [sboxInv_comp_sbox, List.map_id, xorBytes_cancel _ _ (Nat.le_of_eq (by rw [hb, hk]))]

/-! ### Key wrap -/

/-- One pass of unwrapping undoes one pass of wrapping; the semiblocks stand in reverse order. -/
theorem kwUnpass_kwPass (key : List Byte) (r : List (List Byte)) (a : List Byte) (t : Nat) (ha : a.length = 8) (hr : ∀ x ∈ r, x.length = 8) :
    let p := kwPass key r a t
    p.1.length = 8 ∧ (∀ x ∈ p.2.1, x.length = 8) ∧ p.2.1.length = r.length ∧ p.2.2 = t + r.length
    ∧ ∀ q, kwUnpass key (p.2.1.reverse ++ q) p.1 (t + r.length) =
        let u := kwUnpass key q a t
        (u.1, r.reverse ++ u.2.1, u.2.2) := by
  induction r generalizing a t with
  | nil => exact ⟨ha, by simp [kwPass], rfl, rfl, fun q => rfl⟩
  | cons b r ih =>
    have hb := hr b List.mem_cons_self
    have he : (aesEnc key (a ++ b)).length = 16 := aesEncRk_length key _ (by rw [List.length_append, ha, hb])
    have ha' : (xorBytes ((aesEnc key (a ++ b)).take 8) (bytesOfNatBE 8 (t + 1))).length = 8 := by
      rw [xorBytes_length, List.length_take, he]; simp [bytesOfNatBE, bytesOfNat_length]
    obtain ⟨i1, i2, i3, i4, i5⟩ := ih _ (t + 1) ha' fun x hx => hr x (List.mem_cons_of_mem _ hx)
    refine ⟨i1, ?_, by simp only [kwPass, List.length_cons, i3], by simp only [kwPass, List.length_cons, i4]; omega, ?_⟩
    · intro x hx
      simp only [kwPass, List.mem_cons] at hx
      rcases hx with rfl | hx
      · rw [List.length_drop, he]
      · exact i2 x hx
    · intro q
      have := i5 ((aesEnc key (a ++ b)).drop 8 :: q)
      simp only [kwPass, List.length_cons, List.reverse_cons, List.append_assoc]
      rw [show t + (r.length + 1) = t + 1 + r.length by omega]
      refine Eq.trans this ?_
      simp only [kwUnpass]
      rw [xorBytes_cancel _ _ (by rw [List.length_take, he]; simp [bytesOfNatBE, bytesOfNat_length]), List.take_append_drop,
        aesDec_aesEnc key _ (by rw [List.length_append, ha, hb]), List.take_left' ha, List.drop_left' ha]
      simp

theorem kwUnpasses_kwPasses (key : List Byte) (n k : Nat) (r : List (List Byte)) (a : List Byte) (t : Nat) (ha : a.length = 8)
    (hr : ∀ x ∈ r, x.length = 8) :
    ∃ (a' : List Byte) (r' : List (List Byte)), kwPasses key n a r t = a' ++ r'.flatten ∧ a'.length = 8 ∧ (∀ x ∈ r', x.length = 8) ∧ r'.length = r.length
      ∧ kwUnpasses key (n + k) a' r'.reverse (t + n * r.length) = kwUnpasses key k a r.reverse t := by
  induction n generalizing r a t k with
  | zero => exact ⟨a, r, rfl, ha, hr, rfl, by simp⟩
  | succ n ih =>
    obtain ⟨p1, p2, p3, p4, p5⟩ := kwUnpass_kwPass key r a t ha hr
    obtain ⟨a', r', e, h1, h2, h3, h4⟩ := ih (k + 1) (kwPass key r a t).2.1 (kwPass key r a t).1 (kwPass key r a t).2.2 p1 p2
    refine ⟨a', r', e, h1, h2, h3.trans p3, ?_⟩
    rw [p3, p4] at h4
    rw [show n + 1 + k = n + (k + 1) by omega, show t + (n + 1) * r.length = t + r.length + n * r.length by rw [Nat.succ_mul]; omega, h4]
    have := p5 []
    simp only [List.append_nil, kwUnpass] at this
    simp only [kwUnpasses, this]

theorem chunks_flatten (n : Nat) (l : List (List Byte)) (hn : 0 < n) (h : ∀ x ∈ l, x.length = n) :
    chunks n (l.length + 1) l.flatten = l := by
  induction l with
  | nil => rfl
  | cons x l ih =>
    have hx := h x List.mem_cons_self
    have i := ih fun y hy => h y (List.mem_cons_of_mem _ hy)
    have he : (x ++ l.flatten).isEmpty = false := by
      cases x with
      | nil => simp at hx; omega
      | cons => rfl
    rw [List.flatten_cons, List.length_cons, chunks, he]
    simp only [Bool.false_eq_true, if_false]
    rw [List.take_left' hx, List.drop_left' hx, i]

theorem flatten_chunks (n k : Nat) (l : List Byte) (h : l.length ≤ n * k) : (chunks n k l).flatten = l := by
  induction k generalizing l with
  | zero =>
    have : l = [] := List.eq_nil_of_length_eq_zero (by simpa using h)
    subst this; rfl
  | succ k ih =>
    cases l with
    | nil => simp [chunks]
    | cons x l =>
      have := ih ((x :: l).drop n) (by rw [List.length_drop]; rw [Nat.mul_succ] at h; omega)
      simp only [chunks, List.isEmpty_cons, Bool.false_eq_true, if_false, List.flatten_cons, this, List.take_append_drop]

theorem flatten_length8 (l : List (List Byte)) (h : ∀ x ∈ l, x.length = 8) : l.flatten.length = 8 * l.length := by
  induction l with
  | nil => rfl
  | cons x l ih =>
    have := ih fun y hy => h y (List.mem_cons_of_mem _ hy)
    have := h x List.mem_cons_self
    simp only [List.flatten_cons, List.length_append, List.length_cons]; omega

theorem chunks_extra (n k : Nat) (l : List Byte) (h : l.length = n * k) : chunks n (k + 1) l = chunks n k l := by
  induction k generalizing l with
  | zero =>
    have : l = [] := List.eq_nil_of_length_eq_zero (by simpa using h)
    subst this; rfl
  | succ k ih =>
    have hd : (l.drop n).length = n * k := by rw [List.length_drop, h, Nat.mul_succ]; omega
    show (if l.isEmpty then [] else l.take n :: chunks n (k + 1) (l.drop n)) = (if l.isEmpty then [] else l.take n :: chunks n k (l.drop n))
    rw [ih _ hd]

/-- Key unwrap gives what key wrap took, of whole semiblocks. -/
theorem kwUnwrap_kwWrap (key pt : List Byte) (m : Nat) (h : pt.length = 8 * m) :
    (kwWrap key pt).length = pt.length + 8 ∧ kwUnwrap key (kwWrap key pt) = some pt := by
  have hd : pt.length / 8 = m := by omega
  have hc : chunksOf 8 pt = chunks 8 m pt := by rw [chunksOf, hd, chunks_extra 8 m pt h]
  obtain ⟨hl, h8⟩ := chunks_lengths 8 m pt (by omega) h
  obtain ⟨a', r', e, h1, h2, h3, h4⟩ :=
    kwUnpasses_kwPasses key 6 0 (chunks 8 m pt) (List.replicate 8 0xA6) 0 (by simp) h8
  have hw : kwWrap key pt = a' ++ r'.flatten := by rw [kwWrap, hc, e]
  have hf := flatten_length8 r' h2
  have h3' : r'.length = m := h3.trans hl
  refine ⟨by rw [hw, List.length_append, h1, hf, h3', h]; omega, ?_⟩
  have hr : chunksOf 8 r'.flatten = r' := by
    rw [chunksOf, hf, show 8 * r'.length / 8 = r'.length by omega, chunks_flatten 8 r' (by omega) h2]
  unfold kwUnwrap
  rw [hw, List.take_left' h1, List.drop_left' h1, hr]
  simp only [List.length_reverse]
  rw [h3, hl, show 6 * m = 0 + 6 * m by omega]
  rw [hl] at h4
  have h5 : kwUnpasses key 6 a' r'.reverse (0 + 6 * m) = (List.replicate 8 0xA6, (chunks 8 m pt).reverse.reverse.flatten) := h4
  rw [h5]
  simp only [if_true]
  rw [List.reverse_reverse, flatten_chunks 8 m pt (by omega)]

end Sys2Proof.Machine
end

