-- ==== Sys2Proof/Laws/State.lean ====
section
/-!
SUPPORT. What each update of the state leaves as it was, field by field, and what its accessors answer after it.
-/
namespace Sys2Proof.Machine

/-! ### Sparse tables -/

theorem Table.get_put_self {α : Type} (d v : α) (t : Table α) (k : Nat) : Table.get d (Table.put t k v) k = v := by
  induction t with
  | nil => simp [Table.put, Table.get]
  | cons e t ih =>
    obtain ⟨j, w⟩ := e
    simp only [Table.put]
    split
    · simp [Table.get]
    · split
      · simp [Table.get]
      · rename_i h
        simp [Table.get, Ne.symm h, ih]

theorem Table.get_put_ne {α : Type} (d v : α) (t : Table α) {k m : Nat} (h : m ≠ k) :
    Table.get d (Table.put t k v) m = Table.get d t m := by
  induction t with
  | nil => simp [Table.put, Table.get, Ne.symm h]
  | cons e t ih =>
    obtain ⟨j, w⟩ := e
    simp only [Table.put]
    split
    · simp [Table.get, Ne.symm h]
    · split
      · rename_i hk
        subst hk
        simp [Table.get, Ne.symm h]
      · simp only [Table.get, ih]

/-! ### Accessors after updates -/

@[simp] theorem State.berth_setBerth (s : State) (b : BerthNo) (x : Berth) : (s.setBerth b x).berth b = x :=
  Table.get_put_self _ _ _ _
theorem State.berth_setBerth_ne (s : State) {a b : BerthNo} (x : Berth) (h : a ≠ b) : (s.setBerth b x).berth a = s.berth a :=
  Table.get_put_ne _ _ _ (fun e => h (Fin.ext e))
@[simp] theorem State.berth_modBerth (s : State) (b : BerthNo) (h : Berth → Berth) : (s.modBerth b h).berth b = h (s.berth b) :=
  State.berth_setBerth _ _ _
@[simp] theorem State.ctx_setCtx (s : State) (b : BerthNo) (c : Ctx) : (s.setCtx b c).ctx b = c := by
  simp [State.ctx, State.setCtx]
@[simp] theorem State.ctx_modCtx (s : State) (b : BerthNo) (h : Ctx → Ctx) : (s.modCtx b h).ctx b = h (s.ctx b) :=
  State.ctx_setCtx _ _ _
@[simp] theorem State.ferry_setFerry (s : State) (f : FerryNo) (x : Ferry) : (s.setFerry f x).ferry f = x :=
  Table.get_put_self _ _ _ _
theorem State.ferry_setFerry_ne (s : State) {a f : FerryNo} (x : Ferry) (h : a ≠ f) : (s.setFerry f x).ferry a = s.ferry a :=
  Table.get_put_ne _ _ _ (fun e => h (Fin.ext e))
@[simp] theorem State.ferry_modFerry (s : State) (f : FerryNo) (h : Ferry → Ferry) : (s.modFerry f h).ferry f = h (s.ferry f) :=
  State.ferry_setFerry _ _ _
@[simp] theorem State.span_setSpan (s : State) (i : SpanNo) (x : Span) : (s.setSpan i x).span i = x :=
  Table.get_put_self _ _ _ _
theorem State.span_setSpan_ne (s : State) {a i : SpanNo} (x : Span) (h : a ≠ i) : (s.setSpan i x).span a = s.span a :=
  Table.get_put_ne _ _ _ (fun e => h (Fin.ext e))
@[simp] theorem State.span_modSpan (s : State) (i : SpanNo) (h : Span → Span) : (s.modSpan i h).span i = h (s.span i) :=
  State.span_setSpan _ _ _
theorem State.hreg_setHreg (s : State) (o : Nat) (v : W64) : (s.setHreg o v).hreg o = v :=
  Table.get_put_self _ _ _ _
theorem State.hreg_setHreg_ne (s : State) {p o : Nat} (v : W64) (h : p ≠ o) : (s.setHreg o v).hreg p = s.hreg p :=
  Table.get_put_ne _ _ _ h

/-! ### Accessors of what an update does not touch -/

@[simp] theorem State.ferry_setBerth (s : State) (b : BerthNo) (x : Berth) (f : FerryNo) : (s.setBerth b x).ferry f = s.ferry f := rfl
@[simp] theorem State.ferry_setCtx (s : State) (b : BerthNo) (c : Ctx) (f : FerryNo) : (s.setCtx b c).ferry f = s.ferry f := rfl
@[simp] theorem State.ferry_modCtx (s : State) (b : BerthNo) (h : Ctx → Ctx) (f : FerryNo) : (s.modCtx b h).ferry f = s.ferry f := rfl
@[simp] theorem State.ferry_modBerth (s : State) (b : BerthNo) (h : Berth → Berth) (f : FerryNo) :
    (s.modBerth b h).ferry f = s.ferry f := rfl
@[simp] theorem State.berth_setFerry (s : State) (f : FerryNo) (x : Ferry) (b : BerthNo) : (s.setFerry f x).berth b = s.berth b := rfl
@[simp] theorem State.berth_modFerry (s : State) (f : FerryNo) (h : Ferry → Ferry) (b : BerthNo) :
    (s.modFerry f h).berth b = s.berth b := rfl
@[simp] theorem State.ctx_setFerry (s : State) (f : FerryNo) (x : Ferry) (b : BerthNo) : (s.setFerry f x).ctx b = s.ctx b := rfl
@[simp] theorem State.ctx_modFerry (s : State) (f : FerryNo) (h : Ferry → Ferry) (b : BerthNo) : (s.modFerry f h).ctx b = s.ctx b := rfl
@[simp] theorem State.span_setBerth (s : State) (b : BerthNo) (x : Berth) (i : SpanNo) : (s.setBerth b x).span i = s.span i := rfl
@[simp] theorem State.span_setCtx (s : State) (b : BerthNo) (c : Ctx) (i : SpanNo) : (s.setCtx b c).span i = s.span i := rfl
@[simp] theorem State.span_modCtx (s : State) (b : BerthNo) (h : Ctx → Ctx) (i : SpanNo) : (s.modCtx b h).span i = s.span i := rfl
@[simp] theorem State.span_setFerry (s : State) (f : FerryNo) (x : Ferry) (i : SpanNo) : (s.setFerry f x).span i = s.span i := rfl
@[simp] theorem State.span_modFerry (s : State) (f : FerryNo) (h : Ferry → Ferry) (i : SpanNo) : (s.modFerry f h).span i = s.span i := rfl
@[simp] theorem State.berth_setSpan (s : State) (i : SpanNo) (x : Span) (b : BerthNo) : (s.setSpan i x).berth b = s.berth b := rfl
@[simp] theorem State.berth_modSpan (s : State) (i : SpanNo) (h : Span → Span) (b : BerthNo) : (s.modSpan i h).berth b = s.berth b := rfl
@[simp] theorem State.ctx_setSpan (s : State) (i : SpanNo) (x : Span) (b : BerthNo) : (s.setSpan i x).ctx b = s.ctx b := rfl
@[simp] theorem State.ctx_modSpan (s : State) (i : SpanNo) (h : Span → Span) (b : BerthNo) : (s.modSpan i h).ctx b = s.ctx b := rfl
@[simp] theorem State.ferry_modSpan (s : State) (i : SpanNo) (h : Span → Span) (f : FerryNo) : (s.modSpan i h).ferry f = s.ferry f := rfl

/-! ### Fields that an update does not touch -/

@[simp] theorem State.pending_setBerth (s : State) (b : BerthNo) (x : Berth) : (s.setBerth b x).pending = s.pending := rfl
@[simp] theorem State.free_setBerth (s : State) (b : BerthNo) (x : Berth) : (s.setBerth b x).free = s.free := rfl
@[simp] theorem State.time_setBerth (s : State) (b : BerthNo) (x : Berth) : (s.setBerth b x).time = s.time := rfl
@[simp] theorem State.power_setBerth (s : State) (b : BerthNo) (x : Berth) : (s.setBerth b x).power = s.power := rfl
@[simp] theorem State.lc_setBerth (s : State) (b : BerthNo) (x : Berth) : (s.setBerth b x).lc = s.lc := rfl
@[simp] theorem State.tamper_setBerth (s : State) (b : BerthNo) (x : Berth) : (s.setBerth b x).tamper = s.tamper := rfl
@[simp] theorem State.rstCount_setBerth (s : State) (b : BerthNo) (x : Berth) : (s.setBerth b x).rstCount = s.rstCount := rfl
@[simp] theorem State.rstCause_setBerth (s : State) (b : BerthNo) (x : Berth) : (s.setBerth b x).rstCause = s.rstCause := rfl
@[simp] theorem State.logs_setBerth (s : State) (b : BerthNo) (x : Berth) : (s.setBerth b x).logs = s.logs := rfl
@[simp] theorem State.hregs_setBerth (s : State) (b : BerthNo) (x : Berth) : (s.setBerth b x).hregs = s.hregs := rfl
@[simp] theorem State.mem_setBerth (s : State) (b : BerthNo) (x : Berth) : (s.setBerth b x).mem = s.mem := rfl
@[simp] theorem State.poison_setBerth (s : State) (b : BerthNo) (x : Berth) : (s.setBerth b x).poison = s.poison := rfl
@[simp] theorem State.soft_setBerth (s : State) (b : BerthNo) (x : Berth) : (s.setBerth b x).soft = s.soft := rfl
@[simp] theorem State.errs_setBerth (s : State) (b : BerthNo) (x : Berth) : (s.setBerth b x).errs = s.errs := rfl
@[simp] theorem State.ponAddr_setBerth (s : State) (b : BerthNo) (x : Berth) : (s.setBerth b x).ponAddr = s.ponAddr := rfl
@[simp] theorem State.spans_setBerth (s : State) (b : BerthNo) (x : Berth) : (s.setBerth b x).spans = s.spans := rfl
@[simp] theorem State.ferries_setBerth (s : State) (b : BerthNo) (x : Berth) : (s.setBerth b x).ferries = s.ferries := rfl
@[simp] theorem State.barriers_setBerth (s : State) (b : BerthNo) (x : Berth) : (s.setBerth b x).barriers = s.barriers := rfl
@[simp] theorem State.keys_setBerth (s : State) (b : BerthNo) (x : Berth) : (s.setBerth b x).keys = s.keys := rfl
@[simp] theorem State.ent_setBerth (s : State) (b : BerthNo) (x : Berth) : (s.setBerth b x).ent = s.ent := rfl
@[simp] theorem State.via_setBerth (s : State) (b : BerthNo) (x : Berth) : (s.setBerth b x).via = s.via := rfl
@[simp] theorem State.ldr_setBerth (s : State) (b : BerthNo) (x : Berth) : (s.setBerth b x).ldr = s.ldr := rfl
@[simp] theorem State.gw_setBerth (s : State) (b : BerthNo) (x : Berth) : (s.setBerth b x).gw = s.gw := rfl
@[simp] theorem State.ports_setBerth (s : State) (b : BerthNo) (x : Berth) : (s.setBerth b x).ports = s.ports := rfl
@[simp] theorem State.alloc_setBerth (s : State) (b : BerthNo) (x : Berth) : (s.setBerth b x).alloc = s.alloc := rfl
@[simp] theorem State.cnts_setBerth (s : State) (b : BerthNo) (x : Berth) : (s.setBerth b x).cnts = s.cnts := rfl

@[simp] theorem State.pending_modBerth (s : State) (b : BerthNo) (h : Berth → Berth) : (s.modBerth b h).pending = s.pending := rfl
@[simp] theorem State.free_modBerth (s : State) (b : BerthNo) (h : Berth → Berth) : (s.modBerth b h).free = s.free := rfl
@[simp] theorem State.time_modBerth (s : State) (b : BerthNo) (h : Berth → Berth) : (s.modBerth b h).time = s.time := rfl
@[simp] theorem State.power_modBerth (s : State) (b : BerthNo) (h : Berth → Berth) : (s.modBerth b h).power = s.power := rfl
@[simp] theorem State.lc_modBerth (s : State) (b : BerthNo) (h : Berth → Berth) : (s.modBerth b h).lc = s.lc := rfl
@[simp] theorem State.tamper_modBerth (s : State) (b : BerthNo) (h : Berth → Berth) : (s.modBerth b h).tamper = s.tamper := rfl
@[simp] theorem State.rstCount_modBerth (s : State) (b : BerthNo) (h : Berth → Berth) : (s.modBerth b h).rstCount = s.rstCount := rfl
@[simp] theorem State.rstCause_modBerth (s : State) (b : BerthNo) (h : Berth → Berth) : (s.modBerth b h).rstCause = s.rstCause := rfl
@[simp] theorem State.logs_modBerth (s : State) (b : BerthNo) (h : Berth → Berth) : (s.modBerth b h).logs = s.logs := rfl
@[simp] theorem State.hregs_modBerth (s : State) (b : BerthNo) (h : Berth → Berth) : (s.modBerth b h).hregs = s.hregs := rfl
@[simp] theorem State.mem_modBerth (s : State) (b : BerthNo) (h : Berth → Berth) : (s.modBerth b h).mem = s.mem := rfl
@[simp] theorem State.poison_modBerth (s : State) (b : BerthNo) (h : Berth → Berth) : (s.modBerth b h).poison = s.poison := rfl
@[simp] theorem State.soft_modBerth (s : State) (b : BerthNo) (h : Berth → Berth) : (s.modBerth b h).soft = s.soft := rfl
@[simp] theorem State.errs_modBerth (s : State) (b : BerthNo) (h : Berth → Berth) : (s.modBerth b h).errs = s.errs := rfl
@[simp] theorem State.ponAddr_modBerth (s : State) (b : BerthNo) (h : Berth → Berth) : (s.modBerth b h).ponAddr = s.ponAddr := rfl
@[simp] theorem State.spans_modBerth (s : State) (b : BerthNo) (h : Berth → Berth) : (s.modBerth b h).spans = s.spans := rfl
@[simp] theorem State.ferries_modBerth (s : State) (b : BerthNo) (h : Berth → Berth) : (s.modBerth b h).ferries = s.ferries := rfl
@[simp] theorem State.barriers_modBerth (s : State) (b : BerthNo) (h : Berth → Berth) : (s.modBerth b h).barriers = s.barriers := rfl
@[simp] theorem State.keys_modBerth (s : State) (b : BerthNo) (h : Berth → Berth) : (s.modBerth b h).keys = s.keys := rfl
@[simp] theorem State.ent_modBerth (s : State) (b : BerthNo) (h : Berth → Berth) : (s.modBerth b h).ent = s.ent := rfl
@[simp] theorem State.via_modBerth (s : State) (b : BerthNo) (h : Berth → Berth) : (s.modBerth b h).via = s.via := rfl
@[simp] theorem State.ldr_modBerth (s : State) (b : BerthNo) (h : Berth → Berth) : (s.modBerth b h).ldr = s.ldr := rfl
@[simp] theorem State.gw_modBerth (s : State) (b : BerthNo) (h : Berth → Berth) : (s.modBerth b h).gw = s.gw := rfl
@[simp] theorem State.ports_modBerth (s : State) (b : BerthNo) (h : Berth → Berth) : (s.modBerth b h).ports = s.ports := rfl
@[simp] theorem State.alloc_modBerth (s : State) (b : BerthNo) (h : Berth → Berth) : (s.modBerth b h).alloc = s.alloc := rfl
@[simp] theorem State.cnts_modBerth (s : State) (b : BerthNo) (h : Berth → Berth) : (s.modBerth b h).cnts = s.cnts := rfl

@[simp] theorem State.pending_setCtx (s : State) (b : BerthNo) (c : Ctx) : (s.setCtx b c).pending = s.pending := rfl
@[simp] theorem State.free_setCtx (s : State) (b : BerthNo) (c : Ctx) : (s.setCtx b c).free = s.free := rfl
@[simp] theorem State.time_setCtx (s : State) (b : BerthNo) (c : Ctx) : (s.setCtx b c).time = s.time := rfl
@[simp] theorem State.power_setCtx (s : State) (b : BerthNo) (c : Ctx) : (s.setCtx b c).power = s.power := rfl
@[simp] theorem State.lc_setCtx (s : State) (b : BerthNo) (c : Ctx) : (s.setCtx b c).lc = s.lc := rfl
@[simp] theorem State.tamper_setCtx (s : State) (b : BerthNo) (c : Ctx) : (s.setCtx b c).tamper = s.tamper := rfl
@[simp] theorem State.rstCount_setCtx (s : State) (b : BerthNo) (c : Ctx) : (s.setCtx b c).rstCount = s.rstCount := rfl
@[simp] theorem State.rstCause_setCtx (s : State) (b : BerthNo) (c : Ctx) : (s.setCtx b c).rstCause = s.rstCause := rfl
@[simp] theorem State.logs_setCtx (s : State) (b : BerthNo) (c : Ctx) : (s.setCtx b c).logs = s.logs := rfl
@[simp] theorem State.hregs_setCtx (s : State) (b : BerthNo) (c : Ctx) : (s.setCtx b c).hregs = s.hregs := rfl
@[simp] theorem State.mem_setCtx (s : State) (b : BerthNo) (c : Ctx) : (s.setCtx b c).mem = s.mem := rfl
@[simp] theorem State.poison_setCtx (s : State) (b : BerthNo) (c : Ctx) : (s.setCtx b c).poison = s.poison := rfl
@[simp] theorem State.soft_setCtx (s : State) (b : BerthNo) (c : Ctx) : (s.setCtx b c).soft = s.soft := rfl
@[simp] theorem State.errs_setCtx (s : State) (b : BerthNo) (c : Ctx) : (s.setCtx b c).errs = s.errs := rfl
@[simp] theorem State.ponAddr_setCtx (s : State) (b : BerthNo) (c : Ctx) : (s.setCtx b c).ponAddr = s.ponAddr := rfl
@[simp] theorem State.spans_setCtx (s : State) (b : BerthNo) (c : Ctx) : (s.setCtx b c).spans = s.spans := rfl
@[simp] theorem State.ferries_setCtx (s : State) (b : BerthNo) (c : Ctx) : (s.setCtx b c).ferries = s.ferries := rfl
@[simp] theorem State.barriers_setCtx (s : State) (b : BerthNo) (c : Ctx) : (s.setCtx b c).barriers = s.barriers := rfl
@[simp] theorem State.keys_setCtx (s : State) (b : BerthNo) (c : Ctx) : (s.setCtx b c).keys = s.keys := rfl
@[simp] theorem State.ent_setCtx (s : State) (b : BerthNo) (c : Ctx) : (s.setCtx b c).ent = s.ent := rfl
@[simp] theorem State.via_setCtx (s : State) (b : BerthNo) (c : Ctx) : (s.setCtx b c).via = s.via := rfl
@[simp] theorem State.ldr_setCtx (s : State) (b : BerthNo) (c : Ctx) : (s.setCtx b c).ldr = s.ldr := rfl
@[simp] theorem State.gw_setCtx (s : State) (b : BerthNo) (c : Ctx) : (s.setCtx b c).gw = s.gw := rfl
@[simp] theorem State.ports_setCtx (s : State) (b : BerthNo) (c : Ctx) : (s.setCtx b c).ports = s.ports := rfl
@[simp] theorem State.alloc_setCtx (s : State) (b : BerthNo) (c : Ctx) : (s.setCtx b c).alloc = s.alloc := rfl
@[simp] theorem State.cnts_setCtx (s : State) (b : BerthNo) (c : Ctx) : (s.setCtx b c).cnts = s.cnts := rfl

@[simp] theorem State.pending_modCtx (s : State) (b : BerthNo) (h : Ctx → Ctx) : (s.modCtx b h).pending = s.pending := rfl
@[simp] theorem State.free_modCtx (s : State) (b : BerthNo) (h : Ctx → Ctx) : (s.modCtx b h).free = s.free := rfl
@[simp] theorem State.time_modCtx (s : State) (b : BerthNo) (h : Ctx → Ctx) : (s.modCtx b h).time = s.time := rfl
@[simp] theorem State.power_modCtx (s : State) (b : BerthNo) (h : Ctx → Ctx) : (s.modCtx b h).power = s.power := rfl
@[simp] theorem State.lc_modCtx (s : State) (b : BerthNo) (h : Ctx → Ctx) : (s.modCtx b h).lc = s.lc := rfl
@[simp] theorem State.tamper_modCtx (s : State) (b : BerthNo) (h : Ctx → Ctx) : (s.modCtx b h).tamper = s.tamper := rfl
@[simp] theorem State.rstCount_modCtx (s : State) (b : BerthNo) (h : Ctx → Ctx) : (s.modCtx b h).rstCount = s.rstCount := rfl
@[simp] theorem State.rstCause_modCtx (s : State) (b : BerthNo) (h : Ctx → Ctx) : (s.modCtx b h).rstCause = s.rstCause := rfl
@[simp] theorem State.logs_modCtx (s : State) (b : BerthNo) (h : Ctx → Ctx) : (s.modCtx b h).logs = s.logs := rfl
@[simp] theorem State.hregs_modCtx (s : State) (b : BerthNo) (h : Ctx → Ctx) : (s.modCtx b h).hregs = s.hregs := rfl
@[simp] theorem State.mem_modCtx (s : State) (b : BerthNo) (h : Ctx → Ctx) : (s.modCtx b h).mem = s.mem := rfl
@[simp] theorem State.poison_modCtx (s : State) (b : BerthNo) (h : Ctx → Ctx) : (s.modCtx b h).poison = s.poison := rfl
@[simp] theorem State.soft_modCtx (s : State) (b : BerthNo) (h : Ctx → Ctx) : (s.modCtx b h).soft = s.soft := rfl
@[simp] theorem State.errs_modCtx (s : State) (b : BerthNo) (h : Ctx → Ctx) : (s.modCtx b h).errs = s.errs := rfl
@[simp] theorem State.ponAddr_modCtx (s : State) (b : BerthNo) (h : Ctx → Ctx) : (s.modCtx b h).ponAddr = s.ponAddr := rfl
@[simp] theorem State.spans_modCtx (s : State) (b : BerthNo) (h : Ctx → Ctx) : (s.modCtx b h).spans = s.spans := rfl
@[simp] theorem State.ferries_modCtx (s : State) (b : BerthNo) (h : Ctx → Ctx) : (s.modCtx b h).ferries = s.ferries := rfl
@[simp] theorem State.barriers_modCtx (s : State) (b : BerthNo) (h : Ctx → Ctx) : (s.modCtx b h).barriers = s.barriers := rfl
@[simp] theorem State.keys_modCtx (s : State) (b : BerthNo) (h : Ctx → Ctx) : (s.modCtx b h).keys = s.keys := rfl
@[simp] theorem State.ent_modCtx (s : State) (b : BerthNo) (h : Ctx → Ctx) : (s.modCtx b h).ent = s.ent := rfl
@[simp] theorem State.via_modCtx (s : State) (b : BerthNo) (h : Ctx → Ctx) : (s.modCtx b h).via = s.via := rfl
@[simp] theorem State.ldr_modCtx (s : State) (b : BerthNo) (h : Ctx → Ctx) : (s.modCtx b h).ldr = s.ldr := rfl
@[simp] theorem State.gw_modCtx (s : State) (b : BerthNo) (h : Ctx → Ctx) : (s.modCtx b h).gw = s.gw := rfl
@[simp] theorem State.ports_modCtx (s : State) (b : BerthNo) (h : Ctx → Ctx) : (s.modCtx b h).ports = s.ports := rfl
@[simp] theorem State.alloc_modCtx (s : State) (b : BerthNo) (h : Ctx → Ctx) : (s.modCtx b h).alloc = s.alloc := rfl
@[simp] theorem State.cnts_modCtx (s : State) (b : BerthNo) (h : Ctx → Ctx) : (s.modCtx b h).cnts = s.cnts := rfl

@[simp] theorem State.pending_setFerry (s : State) (f : FerryNo) (x : Ferry) : (s.setFerry f x).pending = s.pending := rfl
@[simp] theorem State.free_setFerry (s : State) (f : FerryNo) (x : Ferry) : (s.setFerry f x).free = s.free := rfl
@[simp] theorem State.time_setFerry (s : State) (f : FerryNo) (x : Ferry) : (s.setFerry f x).time = s.time := rfl
@[simp] theorem State.power_setFerry (s : State) (f : FerryNo) (x : Ferry) : (s.setFerry f x).power = s.power := rfl
@[simp] theorem State.lc_setFerry (s : State) (f : FerryNo) (x : Ferry) : (s.setFerry f x).lc = s.lc := rfl
@[simp] theorem State.tamper_setFerry (s : State) (f : FerryNo) (x : Ferry) : (s.setFerry f x).tamper = s.tamper := rfl
@[simp] theorem State.rstCount_setFerry (s : State) (f : FerryNo) (x : Ferry) : (s.setFerry f x).rstCount = s.rstCount := rfl
@[simp] theorem State.rstCause_setFerry (s : State) (f : FerryNo) (x : Ferry) : (s.setFerry f x).rstCause = s.rstCause := rfl
@[simp] theorem State.logs_setFerry (s : State) (f : FerryNo) (x : Ferry) : (s.setFerry f x).logs = s.logs := rfl
@[simp] theorem State.hregs_setFerry (s : State) (f : FerryNo) (x : Ferry) : (s.setFerry f x).hregs = s.hregs := rfl
@[simp] theorem State.mem_setFerry (s : State) (f : FerryNo) (x : Ferry) : (s.setFerry f x).mem = s.mem := rfl
@[simp] theorem State.poison_setFerry (s : State) (f : FerryNo) (x : Ferry) : (s.setFerry f x).poison = s.poison := rfl
@[simp] theorem State.soft_setFerry (s : State) (f : FerryNo) (x : Ferry) : (s.setFerry f x).soft = s.soft := rfl
@[simp] theorem State.errs_setFerry (s : State) (f : FerryNo) (x : Ferry) : (s.setFerry f x).errs = s.errs := rfl
@[simp] theorem State.ponAddr_setFerry (s : State) (f : FerryNo) (x : Ferry) : (s.setFerry f x).ponAddr = s.ponAddr := rfl
@[simp] theorem State.spans_setFerry (s : State) (f : FerryNo) (x : Ferry) : (s.setFerry f x).spans = s.spans := rfl
@[simp] theorem State.berths_setFerry (s : State) (f : FerryNo) (x : Ferry) : (s.setFerry f x).berths = s.berths := rfl
@[simp] theorem State.barriers_setFerry (s : State) (f : FerryNo) (x : Ferry) : (s.setFerry f x).barriers = s.barriers := rfl
@[simp] theorem State.keys_setFerry (s : State) (f : FerryNo) (x : Ferry) : (s.setFerry f x).keys = s.keys := rfl
@[simp] theorem State.ent_setFerry (s : State) (f : FerryNo) (x : Ferry) : (s.setFerry f x).ent = s.ent := rfl
@[simp] theorem State.via_setFerry (s : State) (f : FerryNo) (x : Ferry) : (s.setFerry f x).via = s.via := rfl
@[simp] theorem State.ldr_setFerry (s : State) (f : FerryNo) (x : Ferry) : (s.setFerry f x).ldr = s.ldr := rfl
@[simp] theorem State.gw_setFerry (s : State) (f : FerryNo) (x : Ferry) : (s.setFerry f x).gw = s.gw := rfl
@[simp] theorem State.ports_setFerry (s : State) (f : FerryNo) (x : Ferry) : (s.setFerry f x).ports = s.ports := rfl
@[simp] theorem State.alloc_setFerry (s : State) (f : FerryNo) (x : Ferry) : (s.setFerry f x).alloc = s.alloc := rfl
@[simp] theorem State.cnts_setFerry (s : State) (f : FerryNo) (x : Ferry) : (s.setFerry f x).cnts = s.cnts := rfl

@[simp] theorem State.pending_modFerry (s : State) (f : FerryNo) (h : Ferry → Ferry) : (s.modFerry f h).pending = s.pending := rfl
@[simp] theorem State.free_modFerry (s : State) (f : FerryNo) (h : Ferry → Ferry) : (s.modFerry f h).free = s.free := rfl
@[simp] theorem State.time_modFerry (s : State) (f : FerryNo) (h : Ferry → Ferry) : (s.modFerry f h).time = s.time := rfl
@[simp] theorem State.power_modFerry (s : State) (f : FerryNo) (h : Ferry → Ferry) : (s.modFerry f h).power = s.power := rfl
@[simp] theorem State.lc_modFerry (s : State) (f : FerryNo) (h : Ferry → Ferry) : (s.modFerry f h).lc = s.lc := rfl
@[simp] theorem State.tamper_modFerry (s : State) (f : FerryNo) (h : Ferry → Ferry) : (s.modFerry f h).tamper = s.tamper := rfl
@[simp] theorem State.rstCount_modFerry (s : State) (f : FerryNo) (h : Ferry → Ferry) : (s.modFerry f h).rstCount = s.rstCount := rfl
@[simp] theorem State.rstCause_modFerry (s : State) (f : FerryNo) (h : Ferry → Ferry) : (s.modFerry f h).rstCause = s.rstCause := rfl
@[simp] theorem State.logs_modFerry (s : State) (f : FerryNo) (h : Ferry → Ferry) : (s.modFerry f h).logs = s.logs := rfl
@[simp] theorem State.hregs_modFerry (s : State) (f : FerryNo) (h : Ferry → Ferry) : (s.modFerry f h).hregs = s.hregs := rfl
@[simp] theorem State.mem_modFerry (s : State) (f : FerryNo) (h : Ferry → Ferry) : (s.modFerry f h).mem = s.mem := rfl
@[simp] theorem State.poison_modFerry (s : State) (f : FerryNo) (h : Ferry → Ferry) : (s.modFerry f h).poison = s.poison := rfl
@[simp] theorem State.soft_modFerry (s : State) (f : FerryNo) (h : Ferry → Ferry) : (s.modFerry f h).soft = s.soft := rfl
@[simp] theorem State.errs_modFerry (s : State) (f : FerryNo) (h : Ferry → Ferry) : (s.modFerry f h).errs = s.errs := rfl
@[simp] theorem State.ponAddr_modFerry (s : State) (f : FerryNo) (h : Ferry → Ferry) : (s.modFerry f h).ponAddr = s.ponAddr := rfl
@[simp] theorem State.spans_modFerry (s : State) (f : FerryNo) (h : Ferry → Ferry) : (s.modFerry f h).spans = s.spans := rfl
@[simp] theorem State.berths_modFerry (s : State) (f : FerryNo) (h : Ferry → Ferry) : (s.modFerry f h).berths = s.berths := rfl
@[simp] theorem State.barriers_modFerry (s : State) (f : FerryNo) (h : Ferry → Ferry) : (s.modFerry f h).barriers = s.barriers := rfl
@[simp] theorem State.keys_modFerry (s : State) (f : FerryNo) (h : Ferry → Ferry) : (s.modFerry f h).keys = s.keys := rfl
@[simp] theorem State.ent_modFerry (s : State) (f : FerryNo) (h : Ferry → Ferry) : (s.modFerry f h).ent = s.ent := rfl
@[simp] theorem State.via_modFerry (s : State) (f : FerryNo) (h : Ferry → Ferry) : (s.modFerry f h).via = s.via := rfl
@[simp] theorem State.ldr_modFerry (s : State) (f : FerryNo) (h : Ferry → Ferry) : (s.modFerry f h).ldr = s.ldr := rfl
@[simp] theorem State.gw_modFerry (s : State) (f : FerryNo) (h : Ferry → Ferry) : (s.modFerry f h).gw = s.gw := rfl
@[simp] theorem State.ports_modFerry (s : State) (f : FerryNo) (h : Ferry → Ferry) : (s.modFerry f h).ports = s.ports := rfl
@[simp] theorem State.alloc_modFerry (s : State) (f : FerryNo) (h : Ferry → Ferry) : (s.modFerry f h).alloc = s.alloc := rfl
@[simp] theorem State.cnts_modFerry (s : State) (f : FerryNo) (h : Ferry → Ferry) : (s.modFerry f h).cnts = s.cnts := rfl

@[simp] theorem State.pending_setSpan (s : State) (i : SpanNo) (x : Span) : (s.setSpan i x).pending = s.pending := rfl
@[simp] theorem State.free_setSpan (s : State) (i : SpanNo) (x : Span) : (s.setSpan i x).free = s.free := rfl
@[simp] theorem State.time_setSpan (s : State) (i : SpanNo) (x : Span) : (s.setSpan i x).time = s.time := rfl
@[simp] theorem State.power_setSpan (s : State) (i : SpanNo) (x : Span) : (s.setSpan i x).power = s.power := rfl
@[simp] theorem State.lc_setSpan (s : State) (i : SpanNo) (x : Span) : (s.setSpan i x).lc = s.lc := rfl
@[simp] theorem State.tamper_setSpan (s : State) (i : SpanNo) (x : Span) : (s.setSpan i x).tamper = s.tamper := rfl
@[simp] theorem State.rstCount_setSpan (s : State) (i : SpanNo) (x : Span) : (s.setSpan i x).rstCount = s.rstCount := rfl
@[simp] theorem State.rstCause_setSpan (s : State) (i : SpanNo) (x : Span) : (s.setSpan i x).rstCause = s.rstCause := rfl
@[simp] theorem State.logs_setSpan (s : State) (i : SpanNo) (x : Span) : (s.setSpan i x).logs = s.logs := rfl
@[simp] theorem State.hregs_setSpan (s : State) (i : SpanNo) (x : Span) : (s.setSpan i x).hregs = s.hregs := rfl
@[simp] theorem State.mem_setSpan (s : State) (i : SpanNo) (x : Span) : (s.setSpan i x).mem = s.mem := rfl
@[simp] theorem State.poison_setSpan (s : State) (i : SpanNo) (x : Span) : (s.setSpan i x).poison = s.poison := rfl
@[simp] theorem State.soft_setSpan (s : State) (i : SpanNo) (x : Span) : (s.setSpan i x).soft = s.soft := rfl
@[simp] theorem State.errs_setSpan (s : State) (i : SpanNo) (x : Span) : (s.setSpan i x).errs = s.errs := rfl
@[simp] theorem State.ponAddr_setSpan (s : State) (i : SpanNo) (x : Span) : (s.setSpan i x).ponAddr = s.ponAddr := rfl
@[simp] theorem State.ferries_setSpan (s : State) (i : SpanNo) (x : Span) : (s.setSpan i x).ferries = s.ferries := rfl
@[simp] theorem State.berths_setSpan (s : State) (i : SpanNo) (x : Span) : (s.setSpan i x).berths = s.berths := rfl
@[simp] theorem State.barriers_setSpan (s : State) (i : SpanNo) (x : Span) : (s.setSpan i x).barriers = s.barriers := rfl
@[simp] theorem State.keys_setSpan (s : State) (i : SpanNo) (x : Span) : (s.setSpan i x).keys = s.keys := rfl
@[simp] theorem State.ent_setSpan (s : State) (i : SpanNo) (x : Span) : (s.setSpan i x).ent = s.ent := rfl
@[simp] theorem State.via_setSpan (s : State) (i : SpanNo) (x : Span) : (s.setSpan i x).via = s.via := rfl
@[simp] theorem State.ldr_setSpan (s : State) (i : SpanNo) (x : Span) : (s.setSpan i x).ldr = s.ldr := rfl
@[simp] theorem State.gw_setSpan (s : State) (i : SpanNo) (x : Span) : (s.setSpan i x).gw = s.gw := rfl
@[simp] theorem State.ports_setSpan (s : State) (i : SpanNo) (x : Span) : (s.setSpan i x).ports = s.ports := rfl
@[simp] theorem State.alloc_setSpan (s : State) (i : SpanNo) (x : Span) : (s.setSpan i x).alloc = s.alloc := rfl
@[simp] theorem State.cnts_setSpan (s : State) (i : SpanNo) (x : Span) : (s.setSpan i x).cnts = s.cnts := rfl

@[simp] theorem State.pending_modSpan (s : State) (i : SpanNo) (h : Span → Span) : (s.modSpan i h).pending = s.pending := rfl
@[simp] theorem State.free_modSpan (s : State) (i : SpanNo) (h : Span → Span) : (s.modSpan i h).free = s.free := rfl
@[simp] theorem State.time_modSpan (s : State) (i : SpanNo) (h : Span → Span) : (s.modSpan i h).time = s.time := rfl
@[simp] theorem State.power_modSpan (s : State) (i : SpanNo) (h : Span → Span) : (s.modSpan i h).power = s.power := rfl
@[simp] theorem State.lc_modSpan (s : State) (i : SpanNo) (h : Span → Span) : (s.modSpan i h).lc = s.lc := rfl
@[simp] theorem State.tamper_modSpan (s : State) (i : SpanNo) (h : Span → Span) : (s.modSpan i h).tamper = s.tamper := rfl
@[simp] theorem State.rstCount_modSpan (s : State) (i : SpanNo) (h : Span → Span) : (s.modSpan i h).rstCount = s.rstCount := rfl
@[simp] theorem State.rstCause_modSpan (s : State) (i : SpanNo) (h : Span → Span) : (s.modSpan i h).rstCause = s.rstCause := rfl
@[simp] theorem State.logs_modSpan (s : State) (i : SpanNo) (h : Span → Span) : (s.modSpan i h).logs = s.logs := rfl
@[simp] theorem State.hregs_modSpan (s : State) (i : SpanNo) (h : Span → Span) : (s.modSpan i h).hregs = s.hregs := rfl
@[simp] theorem State.mem_modSpan (s : State) (i : SpanNo) (h : Span → Span) : (s.modSpan i h).mem = s.mem := rfl
@[simp] theorem State.poison_modSpan (s : State) (i : SpanNo) (h : Span → Span) : (s.modSpan i h).poison = s.poison := rfl
@[simp] theorem State.soft_modSpan (s : State) (i : SpanNo) (h : Span → Span) : (s.modSpan i h).soft = s.soft := rfl
@[simp] theorem State.errs_modSpan (s : State) (i : SpanNo) (h : Span → Span) : (s.modSpan i h).errs = s.errs := rfl
@[simp] theorem State.ponAddr_modSpan (s : State) (i : SpanNo) (h : Span → Span) : (s.modSpan i h).ponAddr = s.ponAddr := rfl
@[simp] theorem State.ferries_modSpan (s : State) (i : SpanNo) (h : Span → Span) : (s.modSpan i h).ferries = s.ferries := rfl
@[simp] theorem State.berths_modSpan (s : State) (i : SpanNo) (h : Span → Span) : (s.modSpan i h).berths = s.berths := rfl
@[simp] theorem State.barriers_modSpan (s : State) (i : SpanNo) (h : Span → Span) : (s.modSpan i h).barriers = s.barriers := rfl
@[simp] theorem State.keys_modSpan (s : State) (i : SpanNo) (h : Span → Span) : (s.modSpan i h).keys = s.keys := rfl
@[simp] theorem State.ent_modSpan (s : State) (i : SpanNo) (h : Span → Span) : (s.modSpan i h).ent = s.ent := rfl
@[simp] theorem State.via_modSpan (s : State) (i : SpanNo) (h : Span → Span) : (s.modSpan i h).via = s.via := rfl
@[simp] theorem State.ldr_modSpan (s : State) (i : SpanNo) (h : Span → Span) : (s.modSpan i h).ldr = s.ldr := rfl
@[simp] theorem State.gw_modSpan (s : State) (i : SpanNo) (h : Span → Span) : (s.modSpan i h).gw = s.gw := rfl
@[simp] theorem State.ports_modSpan (s : State) (i : SpanNo) (h : Span → Span) : (s.modSpan i h).ports = s.ports := rfl
@[simp] theorem State.alloc_modSpan (s : State) (i : SpanNo) (h : Span → Span) : (s.modSpan i h).alloc = s.alloc := rfl
@[simp] theorem State.cnts_modSpan (s : State) (i : SpanNo) (h : Span → Span) : (s.modSpan i h).cnts = s.cnts := rfl

@[simp] theorem State.pending_setHreg (s : State) (o : Nat) (v : W64) : (s.setHreg o v).pending = s.pending := rfl
@[simp] theorem State.free_setHreg (s : State) (o : Nat) (v : W64) : (s.setHreg o v).free = s.free := rfl
@[simp] theorem State.time_setHreg (s : State) (o : Nat) (v : W64) : (s.setHreg o v).time = s.time := rfl
@[simp] theorem State.power_setHreg (s : State) (o : Nat) (v : W64) : (s.setHreg o v).power = s.power := rfl
@[simp] theorem State.lc_setHreg (s : State) (o : Nat) (v : W64) : (s.setHreg o v).lc = s.lc := rfl
@[simp] theorem State.tamper_setHreg (s : State) (o : Nat) (v : W64) : (s.setHreg o v).tamper = s.tamper := rfl
@[simp] theorem State.rstCount_setHreg (s : State) (o : Nat) (v : W64) : (s.setHreg o v).rstCount = s.rstCount := rfl
@[simp] theorem State.rstCause_setHreg (s : State) (o : Nat) (v : W64) : (s.setHreg o v).rstCause = s.rstCause := rfl
@[simp] theorem State.logs_setHreg (s : State) (o : Nat) (v : W64) : (s.setHreg o v).logs = s.logs := rfl
@[simp] theorem State.mem_setHreg (s : State) (o : Nat) (v : W64) : (s.setHreg o v).mem = s.mem := rfl
@[simp] theorem State.poison_setHreg (s : State) (o : Nat) (v : W64) : (s.setHreg o v).poison = s.poison := rfl
@[simp] theorem State.soft_setHreg (s : State) (o : Nat) (v : W64) : (s.setHreg o v).soft = s.soft := rfl
@[simp] theorem State.errs_setHreg (s : State) (o : Nat) (v : W64) : (s.setHreg o v).errs = s.errs := rfl
@[simp] theorem State.ponAddr_setHreg (s : State) (o : Nat) (v : W64) : (s.setHreg o v).ponAddr = s.ponAddr := rfl
@[simp] theorem State.spans_setHreg (s : State) (o : Nat) (v : W64) : (s.setHreg o v).spans = s.spans := rfl
@[simp] theorem State.ferries_setHreg (s : State) (o : Nat) (v : W64) : (s.setHreg o v).ferries = s.ferries := rfl
@[simp] theorem State.berths_setHreg (s : State) (o : Nat) (v : W64) : (s.setHreg o v).berths = s.berths := rfl
@[simp] theorem State.barriers_setHreg (s : State) (o : Nat) (v : W64) : (s.setHreg o v).barriers = s.barriers := rfl
@[simp] theorem State.keys_setHreg (s : State) (o : Nat) (v : W64) : (s.setHreg o v).keys = s.keys := rfl
@[simp] theorem State.ent_setHreg (s : State) (o : Nat) (v : W64) : (s.setHreg o v).ent = s.ent := rfl
@[simp] theorem State.via_setHreg (s : State) (o : Nat) (v : W64) : (s.setHreg o v).via = s.via := rfl
@[simp] theorem State.ldr_setHreg (s : State) (o : Nat) (v : W64) : (s.setHreg o v).ldr = s.ldr := rfl
@[simp] theorem State.gw_setHreg (s : State) (o : Nat) (v : W64) : (s.setHreg o v).gw = s.gw := rfl
@[simp] theorem State.ports_setHreg (s : State) (o : Nat) (v : W64) : (s.setHreg o v).ports = s.ports := rfl
@[simp] theorem State.alloc_setHreg (s : State) (o : Nat) (v : W64) : (s.setHreg o v).alloc = s.alloc := rfl
@[simp] theorem State.cnts_setHreg (s : State) (o : Nat) (v : W64) : (s.setHreg o v).cnts = s.cnts := rfl

@[simp] theorem State.pending_drawn (s : State) : (s.drawn).pending = s.pending := rfl
@[simp] theorem State.time_drawn (s : State) : (s.drawn).time = s.time := rfl
@[simp] theorem State.power_drawn (s : State) : (s.drawn).power = s.power := rfl
@[simp] theorem State.lc_drawn (s : State) : (s.drawn).lc = s.lc := rfl
@[simp] theorem State.tamper_drawn (s : State) : (s.drawn).tamper = s.tamper := rfl
@[simp] theorem State.rstCount_drawn (s : State) : (s.drawn).rstCount = s.rstCount := rfl
@[simp] theorem State.rstCause_drawn (s : State) : (s.drawn).rstCause = s.rstCause := rfl
@[simp] theorem State.logs_drawn (s : State) : (s.drawn).logs = s.logs := rfl
@[simp] theorem State.hregs_drawn (s : State) : (s.drawn).hregs = s.hregs := rfl
@[simp] theorem State.mem_drawn (s : State) : (s.drawn).mem = s.mem := rfl
@[simp] theorem State.poison_drawn (s : State) : (s.drawn).poison = s.poison := rfl
@[simp] theorem State.soft_drawn (s : State) : (s.drawn).soft = s.soft := rfl
@[simp] theorem State.errs_drawn (s : State) : (s.drawn).errs = s.errs := rfl
@[simp] theorem State.ponAddr_drawn (s : State) : (s.drawn).ponAddr = s.ponAddr := rfl
@[simp] theorem State.spans_drawn (s : State) : (s.drawn).spans = s.spans := rfl
@[simp] theorem State.ferries_drawn (s : State) : (s.drawn).ferries = s.ferries := rfl
@[simp] theorem State.berths_drawn (s : State) : (s.drawn).berths = s.berths := rfl
@[simp] theorem State.barriers_drawn (s : State) : (s.drawn).barriers = s.barriers := rfl
@[simp] theorem State.keys_drawn (s : State) : (s.drawn).keys = s.keys := rfl
@[simp] theorem State.ent_drawn (s : State) : (s.drawn).ent = s.ent := rfl
@[simp] theorem State.via_drawn (s : State) : (s.drawn).via = s.via := rfl
@[simp] theorem State.ldr_drawn (s : State) : (s.drawn).ldr = s.ldr := rfl
@[simp] theorem State.gw_drawn (s : State) : (s.drawn).gw = s.gw := rfl
@[simp] theorem State.ports_drawn (s : State) : (s.drawn).ports = s.ports := rfl
@[simp] theorem State.alloc_drawn (s : State) : (s.drawn).alloc = s.alloc := rfl
@[simp] theorem State.cnts_drawn (s : State) : (s.drawn).cnts = s.cnts := rfl

end Sys2Proof.Machine
end

