-- ==== Sys2Proof/Laws/Counting.lean ====
section
/-!
SUPPORT. Counting, events and cross triggers, said once: which parts of the state they leave alone.
-/
namespace Sys2Proof.Machine
open Sys2Proof.Safety

/-! ### The relation of states that differ only in counters, logs, run control and free values -/

/-- `coreKept`, with every Berth as it was. -/
def Quietly (s t : State) : Prop := coreKept s t ∧ t.berths = s.berths

theorem coreKept_refl (s : State) : coreKept s s := by
  simp [coreKept, readKept]

theorem readKept_refl (s : State) : readKept s s := by
  simp [readKept]

theorem readKept_trans {s t u : State} (h : readKept s t) (k : readKept t u) : readKept s u := by
  unfold readKept at *
  obtain ⟨h1, h2, h3, h4, h5, h6, h7, h8, h9, h10, h11, h12, h13, h14, h15, h16, h17, h18, h19⟩ := h
  obtain ⟨k1, k2, k3, k4, k5, k6, k7, k8, k9, k10, k11, k12, k13, k14, k15, k16, k17, k18, k19⟩ := k
  refine ⟨k1.trans h1, k2.trans h2, k3.trans h3, k4.trans h4, k5.trans h5, k6.trans h6, k7.trans h7, k8.trans h8, k9.trans h9,
    k10.trans h10, k11.trans h11, k12.trans h12, k13.trans h13, k14.trans h14, k15.trans h15, k16.trans h16, k17.trans h17,
    fun o ho => (k18 o ho).trans (h18 o ho), fun f => ?_⟩
  obtain ⟨a1, a2, a3, a4, a5, a6, a7⟩ := h19 f
  obtain ⟨b1, b2, b3, b4, b5, b6, b7⟩ := k19 f
  exact ⟨b1.trans a1, b2.trans a2, b3.trans a3, b4.trans a4, b5.trans a5, b6.trans a6, b7.trans a7⟩

theorem coreKept_trans {s t u : State} (h : coreKept s t) (k : coreKept t u) : coreKept s u :=
  ⟨readKept_trans h.1 k.1, k.2.1.trans h.2.1, k.2.2.1.trans h.2.2.1, k.2.2.2.1.trans h.2.2.2.1,
    fun f => (k.2.2.2.2 f).trans (h.2.2.2.2 f)⟩

theorem Quietly.refl (s : State) : Quietly s s := ⟨coreKept_refl s, rfl⟩
theorem Quietly.trans {s t u : State} (h : Quietly s t) (k : Quietly t u) : Quietly s u :=
  ⟨coreKept_trans h.1 k.1, k.2.trans h.2⟩

/-- A fold of quiet changes is quiet. -/
theorem quietly_foldl {α : Type} (h : State → α → State) (l : List α) (s : State) (q : ∀ s a, Quietly s (h s a)) :
    Quietly s (l.foldl h s) := by
  induction l generalizing s with
  | nil => exact Quietly.refl s
  | cons a l ih => exact (q s a).trans (ih _)

/-- The same over the members of a list. -/
theorem quietly_foldl_mem {α : Type} (h : State → α → State) (l : List α) (s : State) (q : ∀ s, ∀ a ∈ l, Quietly s (h s a)) :
    Quietly s (l.foldl h s) := by
  induction l generalizing s with
  | nil => exact Quietly.refl s
  | cons a l ih =>
    exact (q s a List.mem_cons_self).trans (ih _ fun s x hx => q s x (List.mem_cons_of_mem _ hx))

theorem quietly_setFerry (s : State) (f : FerryNo) (x : Ferry) (h1 : x.berth = (s.ferry f).berth)
    (h2 : x.localMem = (s.ferry f).localMem) (h3 : x.lbS = (s.ferry f).lbS) (h4 : x.lbN = (s.ferry f).lbN)
    (h5 : x.agr = (s.ferry f).agr) (h6 : x.cs = (s.ferry f).cs) (h7 : x.micro = (s.ferry f).micro)
    (h8 : x.ibuf = (s.ferry f).ibuf) : Quietly s (s.setFerry f x) := by
  refine ⟨⟨⟨rfl, rfl, rfl, rfl, rfl, rfl, rfl, rfl, rfl, rfl, rfl, rfl, rfl, rfl, rfl, rfl, rfl, fun _ _ => rfl,
    fun g => ?_⟩, rfl, rfl, rfl, fun g => ?_⟩, rfl⟩
  · by_cases hg : g = f
    · subst hg
      simp [h1, h2, h3, h4, h5, h6, h7]
    · rw [State.ferry_setFerry_ne _ _ hg]
      exact ⟨rfl, rfl, rfl, rfl, rfl, rfl, rfl⟩
  · by_cases hg : g = f
    · subst hg
      simp [h8]
    · rw [State.ferry_setFerry_ne _ _ hg]

theorem quietly_haltFerry (s : State) (f : FerryNo) (c : Nat) : Quietly s (haltFerry s f c) := by
  unfold haltFerry
  dsimp only
  split
  · exact Quietly.refl s
  · exact quietly_setFerry s f _ rfl rfl rfl rfl rfl rfl rfl rfl

theorem quietly_haltGroups (s : State) (gs : List Nat) (own : Option FerryNo) (m o : Nat) : Quietly s (haltGroups s gs own m o) := by
  have hif : ∀ (u : State) (c : Bool), Quietly u (if c then { u with gw := { u.gw with haltOut := u.gw.haltOut + 1 } } else u) := by
    intro u c
    cases c
    · exact Quietly.refl u
    · exact ⟨coreKept_refl _, rfl⟩
  unfold haltGroups
  cases own with
  | none => exact Quietly.trans (quietly_foldl _ _ _ fun s f => quietly_haltFerry s f o) (hif _ _)
  | some f => exact (Quietly.trans (quietly_haltFerry s f m) (quietly_foldl _ _ _ fun s f => quietly_haltFerry s f o)).trans (hif _ _)

theorem quietly_fileEvent (s : State) (src code : Nat) : Quietly s (fileEvent s src code) := by
  unfold fileEvent
  split
  · exact ⟨coreKept_refl _, rfl⟩
  · exact Quietly.refl s

theorem quietly_drawn (s : State) : Quietly s s.drawn := ⟨coreKept_refl _, rfl⟩

theorem quietly_fileAny (s : State) (src : Nat) : Quietly s (fileAny s src) :=
  (quietly_drawn s).trans (quietly_fileEvent _ _ _)

theorem quietly_setHreg (s : State) (o : Nat) (v : W64) (h : 0x500000 ≤ o ∧ o < 0x520000) : Quietly s (s.setHreg o v) := by
  refine ⟨⟨⟨rfl, rfl, rfl, rfl, rfl, rfl, rfl, rfl, rfl, rfl, rfl, rfl, rfl, rfl, rfl, rfl, rfl, fun p hp => ?_,
    fun _ => ⟨rfl, rfl, rfl, rfl, rfl, rfl, rfl⟩⟩, rfl, rfl, rfl, fun _ => rfl⟩, rfl⟩
  exact State.hreg_setHreg_ne _ _ (by omega)

theorem quietly_addCnt (s : State) (o n : Nat) (h : 0x500008 ≤ o ∧ o < 0x520008) : Quietly s (addCnt s o n).1 := by
  unfold addCnt
  dsimp only
  split
  · exact Quietly.trans (t := { s with cnts := Table.put s.cnts o (BitVec.ofNat 48 ((Table.get 0 s.cnts o).toNat + n)) })
      ⟨coreKept_refl _, rfl⟩ (quietly_setHreg _ _ _ (by omega))
  · exact ⟨coreKept_refl _, rfl⟩

theorem quietly_countBlk (fuel cls bit n : Nat) (s : State) : Quietly s (countBlk fuel cls bit n s) := by
  induction fuel generalizing cls bit n s with
  | zero => exact Quietly.refl s
  | succ m ih =>
    unfold countBlk
    refine quietly_foldl_mem _ _ _ fun s k hk => ?_
    have hk : k < 8 := List.mem_range.mp hk
    dsimp only
    split
    · have ha := quietly_addCnt s (0x500008 + 16 * k) n (by omega)
      generalize addCnt s (0x500008 + 16 * k) n = r at ha ⊢
      obtain ⟨t, w⟩ := r
      dsimp only at ha ⊢
      split
      · have h1 : Quietly s (if tb (s.hreg (0x500008 + 16 * k - 8)) 61 then countBlk m 6 4 1 (fileEvent t 1368 k) else t) := by
          split
          · exact (ha.trans (quietly_fileEvent _ _ _)).trans (ih _ _ _ _)
          · exact ha
        generalize (if tb (s.hreg (0x500008 + 16 * k - 8)) 61 then countBlk m 6 4 1 (fileEvent t 1368 k) else t) = u at h1 ⊢
        split
        · exact (((h1.trans (quietly_haltGroups _ _ _ _ _)).trans (quietly_fileAny _ _)).trans (ih _ _ _ _)).trans (ih _ _ _ _)
        · exact h1
      · exact ha
    · exact Quietly.refl s

theorem quietly_countBlock (s : State) (cls bit n : Nat) : Quietly s (countBlock s cls bit n) := quietly_countBlk 9 cls bit n s

theorem quietly_raise (s : State) (src code : Nat) : Quietly s (raise s src code) := by
  unfold raise
  split
  · exact (quietly_fileEvent _ _ _).trans (quietly_countBlock _ _ _ _)
  · exact Quietly.refl s

theorem quietly_raiseAny (s : State) (src : Nat) : Quietly s (raiseAny s src) := (quietly_drawn s).trans (quietly_raise _ _ _)

theorem quietly_raiseBerth (s : State) (b : BerthNo) (code : Nat) : Quietly s (raiseBerth s b code) := quietly_raise _ _ _

theorem quietly_trigger (s : State) (gs : List Nat) (own : Option FerryNo) (m o : Nat) : Quietly s (trigger s gs own m o) := by
  unfold trigger
  split
  · exact ((quietly_haltGroups _ _ _ _ _).trans (quietly_raiseAny _ _)).trans (quietly_countBlock _ _ _ _)
  · exact Quietly.refl s

theorem quietly_countSpan (s : State) (i : SpanNo) (cls bit : Nat) (w : Who) (a : Option Nat) (n : Nat) :
    Quietly s (countSpan s i cls bit w a n) := by
  unfold countSpan
  refine quietly_foldl_mem _ _ _ fun s k hk => ?_
  have hk : k < 8 := List.mem_range.mp hk
  have hi := i.isLt
  dsimp only
  split
  · have ha := quietly_addCnt s (0x510008 + i.val * 0x100 + 16 * k) n (by omega)
    generalize addCnt s (0x510008 + i.val * 0x100 + 16 * k) n = r at ha ⊢
    obtain ⟨t, w⟩ := r
    dsimp only at ha ⊢
    split
    · have h1 : Quietly s (if tb (s.hreg (0x510008 + i.val * 0x100 + 16 * k - 8)) 61 then raise t 1368 (0x10 + i.val) else t) := by
        split
        · exact ha.trans (quietly_raise _ _ _)
        · exact ha
      generalize (if tb (s.hreg (0x510008 + i.val * 0x100 + 16 * k - 8)) 61 then raise t 1368 (0x10 + i.val) else t) = u at h1 ⊢
      split
      · exact h1.trans (quietly_trigger _ _ _ _ _)
      · exact h1
    · exact ha
  · exact Quietly.refl s

theorem quietly_clampLog (s : State) (src kind : Nat) (fd : W32) (w a : W64) : Quietly s (clampLog s src kind fd w a) := by
  unfold clampLog
  dsimp only
  refine Quietly.trans (Quietly.trans ?_ (quietly_raise _ _ _)) (quietly_countBlock _ _ _ _)
  exact ⟨coreKept_refl _, rfl⟩

/-! ### What counting at a Berth leaves alone -/

theorem berthsCounted_refl (s : State) (b : BerthNo) : berthsCounted s s b := by
  simp [berthsCounted, State.ctx]

theorem berthsCounted_trans {s t u : State} {b : BerthNo} (h : berthsCounted s t b) (k : berthsCounted t u b) : berthsCounted s u b := by
  obtain ⟨h2, h3, h4, h5⟩ := h
  obtain ⟨k2, k3, k4, k5⟩ := k
  refine ⟨fun x hx => (k2 x hx).trans (h2 x hx), ?_, ?_, ?_⟩
  · rw [k3, h3]
  · rw [k4, h4]
  · rcases h5 with h5 | h5 <;> rcases k5 with k5 | k5 <;> rw [k5, h5] <;> simp [BitVec.or_assoc]

/-- A change that leaves the Berths alone. -/
theorem berthsCounted_of_eq {s t : State} (b : BerthNo) (h : t.berths = s.berths) : berthsCounted s t b := by
  have hb : ∀ x, t.berth x = s.berth x := fun x => by simp [State.berth, h]
  have hc : t.ctx b = s.ctx b := by simp [State.ctx, hb]
  refine ⟨fun x _ => hb x, ?_, ?_, Or.inl (by rw [hc])⟩
  · rw [hb, hc]; rfl
  · rw [hc]

theorem counted_refl (s : State) (b : BerthNo) : counted s s b := ⟨coreKept_refl s, berthsCounted_refl s b⟩

theorem counted_trans {s t u : State} {b : BerthNo} (h : counted s t b) (k : counted t u b) : counted s u b :=
  ⟨coreKept_trans h.1 k.1, berthsCounted_trans h.2 k.2⟩

theorem counted_of_quietly {s t : State} (b : BerthNo) (h : Quietly s t) : counted s t b := ⟨h.1, berthsCounted_of_eq b h.2⟩

theorem counted_setCtx (s : State) (b : BerthNo) (c : Ctx)
    (h : c = { s.ctx b with cntCfg := c.cntCfg, cntVal := c.cntVal, intPend := c.intPend, smp := c.smp })
    (hp : c.intPend = (s.ctx b).intPend ∨ c.intPend = (s.ctx b).intPend ||| 2) : counted s (s.setCtx b c) b := by
  refine ⟨?_, fun x hx => ?_, ?_, ?_, ?_⟩
  · exact ⟨⟨rfl, rfl, rfl, rfl, rfl, rfl, rfl, rfl, rfl, rfl, rfl, rfl, rfl, rfl, rfl, rfl, rfl, fun _ _ => rfl,
      fun _ => ⟨rfl, rfl, rfl, rfl, rfl, rfl, rfl⟩⟩, rfl, rfl, rfl, fun _ => rfl⟩
  · exact State.berth_setBerth_ne _ _ hx
  · simp [State.setCtx, State.ctx]
  · rw [State.ctx_setCtx]; exact h
  · rw [State.ctx_setCtx]; exact hp

theorem counted_addBerthCnt (s : State) (b : BerthNo) (k n : Nat) (a : Option Nat) : counted s (addBerthCnt s b k n a) b := by
  unfold addBerthCnt
  dsimp only
  split
  · exact counted_setCtx s b _ rfl (Or.inl rfl)
  · have h1 : ∀ c : Ctx, c = { s.ctx b with cntCfg := c.cntCfg, cntVal := c.cntVal, intPend := c.intPend, smp := c.smp } →
        (c.intPend = (s.ctx b).intPend ∨ c.intPend = (s.ctx b).intPend ||| 2) →
        counted s (if tb (Table.get 0 (s.ctx b).cntCfg k) 60 then
          match (s.berth b).ferry with
          | some f => trigger (s.setCtx b c) (groupsOf (s.setCtx b c) f) (some f) 5 4
          | none => s.setCtx b c
          else s.setCtx b c) b := by
      intro c hc hp
      have h0 := counted_setCtx s b c hc hp
      split
      · split
        · exact counted_trans h0 (counted_of_quietly b (quietly_trigger _ _ _ _ _))
        · exact h0
      · exact h0
    have hf : ∀ c, ((s.setCtx b c).berth b).ferry = (s.berth b).ferry := fun c => by simp [State.setCtx]
    simp only [hf]
    refine h1 _ ?_ ?_
    · split <;> rfl
    · split
      · exact Or.inr rfl
      · exact Or.inl rfl

theorem counted_foldl {α : Type} (h : State → α → State) (l : List α) (s : State) (b : BerthNo) (q : ∀ s a, counted s (h s a) b) :
    counted s (l.foldl h s) b := by
  induction l generalizing s with
  | nil => exact counted_refl s b
  | cons a l ih => exact counted_trans (q s a) (ih _)

/-- Counting events of a Berth touches only counters, logs, run control, the Berth's sample registers and free values. -/
theorem counted_countBerth (s : State) (b : BerthNo) (cls bit n : Nat) (a : Option Nat) : counted s (countBerth s b cls bit n a) b := by
  unfold countBerth
  split
  · refine counted_foldl _ _ _ _ fun s k => ?_
    dsimp only
    split
    · exact counted_addBerthCnt _ _ _ _ _
    · exact counted_refl _ _
  · exact counted_refl _ _

theorem readFor_refl (s : State) (b : BerthNo) : readFor s s b := ⟨readKept_refl s, berthsCounted_refl s b⟩
theorem readFor_trans {s t u : State} {b : BerthNo} (h : readFor s t b) (k : readFor t u b) : readFor s u b :=
  ⟨readKept_trans h.1 k.1, berthsCounted_trans h.2 k.2⟩
theorem readFor_of_counted {s t : State} {b : BerthNo} (h : counted s t b) : readFor s t b := ⟨h.1.1, h.2⟩
theorem readFor_of_quietly {s t : State} (b : BerthNo) (h : Quietly s t) : readFor s t b := readFor_of_counted (counted_of_quietly b h)

theorem readFor_foldl {α : Type} (h : State → α → State) (l : List α) (s : State) (b : BerthNo) (q : ∀ s a, readFor s (h s a) b) :
    readFor s (l.foldl h s) b := by
  induction l generalizing s with
  | nil => exact readFor_refl s b
  | cons a l ih => exact readFor_trans (q s a) (ih _)

theorem counted_countEv (s : State) (b : BerthNo) (code : Nat) : counted s (countEv s b code) b := counted_countBerth _ _ _ _ _ _

end Sys2Proof.Machine
end

