-- ==== Sys2Proof/Laws/Memory.lean ====
section
/-!
SUPPORT. Memory as a canonical list of cells: what a byte reads as after a write or a clear, and that every memory operation keeps
the canonical form.
-/
namespace Sys2Proof.Machine

/-- The canonical form, said of the whole list: addresses rise strictly, and no entry reads as an unlisted address does. -/
theorem Memory.wf_iff (m : List Host.Cell) :
    Memory.wf m = true ↔ m.Pairwise (fun c d => c.1 < d.1) ∧ ∀ c ∈ m, c.2 ≠ unlisted := by
  induction m with
  | nil => simp [Memory.wf]
  | cons x t ih =>
    obtain ⟨a, v⟩ := x
    cases t with
    | nil => simp [Memory.wf]
    | cons y u =>
      obtain ⟨b, w⟩ := y
      simp only [Memory.wf, Bool.and_eq_true, decide_eq_true_eq, bne_iff_ne, ih, List.pairwise_cons, List.mem_cons,
        forall_eq_or_imp]
      constructor
      · rintro ⟨⟨h1, h2⟩, ⟨h3, h4⟩, h5, h6⟩
        exact ⟨⟨⟨h1, fun c hc => Nat.lt_trans h1 (h3 c hc)⟩, h3, h4⟩, h2, h5, h6⟩
      · rintro ⟨⟨⟨h1, _⟩, h3, h4⟩, h2, h5, h6⟩
        exact ⟨⟨h1, h2⟩, ⟨h3, h4⟩, h5, h6⟩

/-- Dropping entries keeps the canonical form. -/
theorem Memory.wf_filter {m : List Host.Cell} (p : Host.Cell → Bool) (h : Memory.wf m = true) : Memory.wf (m.filter p) = true := by
  rw [Memory.wf_iff] at h ⊢
  exact ⟨h.1.filter _, fun c hc => h.2 c (List.mem_filter.mp hc).1⟩

/-- Clearing a range keeps the canonical form. -/
theorem Memory.wf_memClear {m : List Host.Cell} (lo hi : Nat) (h : Memory.wf m = true) : Memory.wf (memClear m lo hi) = true :=
  Memory.wf_filter _ h

theorem mem_cellsOf {a : Nat} {l : List Byte} {c : Host.Cell} (h : c ∈ cellsOf a l) :
    a ≤ c.1 ∧ c.1 < a + l.length ∧ c.2 ≠ unlisted := by
  induction l generalizing a with
  | nil => simp [cellsOf] at h
  | cons v t ih =>
    simp only [cellsOf] at h
    split at h
    · obtain ⟨h1, h2, h3⟩ := ih h; exact ⟨by omega, by simp only [List.length_cons]; omega, h3⟩
    · rename_i hv
      rcases List.mem_cons.mp h with rfl | h
      · simp [hv]
      · obtain ⟨h1, h2, h3⟩ := ih h; exact ⟨by omega, by simp only [List.length_cons]; omega, h3⟩

theorem pairwise_cellsOf (a : Nat) (l : List Byte) : (cellsOf a l).Pairwise (fun c d => c.1 < d.1) := by
  induction l generalizing a with
  | nil => simp [cellsOf]
  | cons v t ih =>
    simp only [cellsOf]
    split
    · exact ih _
    · refine List.pairwise_cons.mpr ⟨fun c hc => ?_, ih _⟩
      have := mem_cellsOf hc
      simp only; omega

/-- A write keeps the canonical form. -/
theorem Memory.wf_memWrite {m : List Host.Cell} (a : Nat) (l : List Byte) (h : Memory.wf m = true) :
    Memory.wf (memWrite m a l) = true := by
  rw [Memory.wf_iff] at h ⊢
  refine ⟨?_, fun c hc => ?_⟩
  · unfold memWrite
    refine List.pairwise_append.mpr ⟨h.1.filter _, List.pairwise_append.mpr ⟨pairwise_cellsOf a l, h.1.filter _, ?_⟩, ?_⟩
    · intro c hc d hd
      have := mem_cellsOf hc
      have := (List.mem_filter.mp hd).2
      simp only [decide_eq_true_eq] at this
      omega
    · intro c hc d hd
      have hc := (List.mem_filter.mp hc).2
      simp only [decide_eq_true_eq] at hc
      rcases List.mem_append.mp hd with hd | hd
      · have := mem_cellsOf hd; omega
      · have := (List.mem_filter.mp hd).2
        simp only [decide_eq_true_eq] at this
        omega
  · unfold memWrite at hc
    rcases List.mem_append.mp hc with hc | hc
    · exact h.2 c (List.mem_filter.mp hc).1
    · rcases List.mem_append.mp hc with hc | hc
      · exact (mem_cellsOf hc).2.2
      · exact h.2 c (List.mem_filter.mp hc).1

theorem memGet_none {m : List Host.Cell} {x : Nat} (h : ∀ c ∈ m, c.1 ≠ x) : memGet m x = unlisted := by
  induction m with
  | nil => rfl
  | cons c t ih =>
    obtain ⟨k, v⟩ := c
    have : k ≠ x := h (k, v) List.mem_cons_self
    simp only [memGet, this, if_false]
    exact ih fun c hc => h c (List.mem_cons_of_mem _ hc)

theorem memGet_append (m n : List Host.Cell) (x : Nat) :
    memGet (m ++ n) x = if m.any (fun c => c.1 == x) then memGet m x else memGet n x := by
  induction m with
  | nil => simp
  | cons c t ih =>
    obtain ⟨k, v⟩ := c
    by_cases hk : k = x <;> simp [memGet, hk, ih]

theorem memGet_filter (m : List Host.Cell) (p : Nat → Bool) (x : Nat) :
    memGet (m.filter fun c => p c.1) x = if p x then memGet m x else unlisted := by
  induction m with
  | nil => simp [memGet]
  | cons c t ih =>
    obtain ⟨k, v⟩ := c
    by_cases hp : p k
    · by_cases hk : k = x
      · subst hk; simp [memGet, hp]
      · simp [memGet, hp, hk, ih]
    · by_cases hk : k = x
      · subst hk; simp [hp, ih]
      · simp [memGet, hp, hk, ih]

theorem memGet_cellsOf (a : Nat) (l : List Byte) (x : Nat) :
    memGet (cellsOf a l) x = if a ≤ x ∧ x < a + l.length then l.getD (x - a) 0 else unlisted := by
  induction l generalizing a with
  | nil =>
    have : ¬ (a ≤ x ∧ x < a + ([] : List Byte).length) := by rw [List.length_nil]; omega
    rw [if_neg this]; rfl
  | cons v t ih =>
    have key : memGet (cellsOf a (v :: t)) x = if a = x then v else memGet (cellsOf (a + 1) t) x := by
      simp only [cellsOf]
      split
      · rename_i hv
        split
        · rename_i hx
          subst hx
          rw [memGet_none, hv]
          intro c hc
          have := mem_cellsOf hc
          omega
        · rfl
      · simp [memGet]
    rw [key]
    by_cases hx : a = x
    · subst hx; simp
    · rw [if_neg hx, ih]
      by_cases hin : a ≤ x ∧ x < a + (v :: t).length
      · have h1 : a + 1 ≤ x ∧ x < a + 1 + t.length := by simp at hin; omega
        rw [if_pos h1, if_pos hin]
        obtain ⟨k, rfl⟩ : ∃ k, x = a + 1 + k := ⟨x - (a + 1), by omega⟩
        rw [show a + 1 + k - (a + 1) = k by omega, show a + 1 + k - a = k + 1 by omega]
        simp
      · have h1 : ¬(a + 1 ≤ x ∧ x < a + 1 + t.length) := by simp at hin; omega
        rw [if_neg h1, if_neg hin]

/-- A byte after a write: the byte written there, and elsewhere the byte that stood there. -/
theorem memGet_memWrite (m : List Host.Cell) (a : Nat) (l : List Byte) (x : Nat) :
    memGet (memWrite m a l) x = if a ≤ x ∧ x < a + l.length then l.getD (x - a) 0 else memGet m x := by
  have lo := memGet_filter m (fun k => decide (k < a)) x
  have hi := memGet_filter m (fun k => decide (a + l.length ≤ k)) x
  unfold memWrite
  rw [memGet_append]
  split
  · rename_i h
    obtain ⟨c, hc, hx⟩ := List.any_eq_true.mp h
    have hc := (List.mem_filter.mp hc).2
    simp only [decide_eq_true_eq, beq_iff_eq] at hc hx
    rw [lo, if_pos (by simp; omega), if_neg (by omega)]
  · rename_i h
    rw [memGet_append]
    have low : x < a → memGet m x = unlisted := by
      intro hx
      refine memGet_none fun c hc he => h (List.any_eq_true.mpr ⟨c, List.mem_filter.mpr ⟨hc, ?_⟩, by simp [he]⟩)
      simp; omega
    split
    · rename_i h2
      obtain ⟨c, hc, hx⟩ := List.any_eq_true.mp h2
      have := mem_cellsOf hc
      simp only [beq_iff_eq] at hx
      rw [memGet_cellsOf]
      have hin : a ≤ x ∧ x < a + l.length := by omega
      simp [hin]
    · rename_i h2
      rw [hi]
      by_cases hx : x < a
      · rw [if_neg (by simp; omega), if_neg (by omega), low hx]
      · by_cases hx2 : x < a + l.length
        · rw [if_neg (by simp; omega), if_pos (by omega)]
          have : memGet (cellsOf a l) x = unlisted := by
            refine memGet_none fun c hc he => h2 (List.any_eq_true.mpr ⟨c, hc, by simp [he]⟩)
          rw [memGet_cellsOf, if_pos (by omega)] at this
          exact this.symm
        · rw [if_pos (by simp; omega), if_neg (by omega)]

/-- A byte after a clear. -/
theorem memGet_memClear (m : List Host.Cell) (lo hi x : Nat) :
    memGet (memClear m lo hi) x = if lo ≤ x ∧ x < hi then unlisted else memGet m x := by
  have := memGet_filter m (fun k => decide (k < lo ∨ hi ≤ k)) x
  unfold memClear
  rw [this]
  by_cases h : lo ≤ x ∧ x < hi
  · rw [if_pos h, if_neg (by simp; omega)]
  · rw [if_neg h, if_pos (by simp; omega)]

theorem memTake_eq {m : List Host.Cell} {a : Nat} (n : Nat) (h : m.Pairwise (fun c d => c.1 < d.1)) (ha : ∀ c ∈ m, a ≤ c.1) :
    memTake n m a = (List.range n).map fun k => memGet m (a + k) := by
  induction n generalizing m a with
  | zero => rfl
  | succ n ih =>
    cases m with
    | nil =>
      rw [List.range_succ_eq_map]
      simp only [memTake, List.map_cons, List.map_map, memGet]
      rw [ih List.Pairwise.nil (by simp)]
      simp [memGet, Function.comp_def]
    | cons c t =>
      obtain ⟨k, v⟩ := c
      have hk : a ≤ k := ha (k, v) List.mem_cons_self
      have ht : ∀ d ∈ t, k < d.1 := fun d hd => (List.pairwise_cons.mp h).1 d hd
      rw [List.range_succ_eq_map]
      simp only [memTake]
      split
      · rename_i e
        subst e
        rw [ih (List.pairwise_cons.mp h).2 (fun c hc => ht c hc)]
        simp only [List.map_cons, List.map_map, Nat.add_zero]
        congr 1
        · simp [memGet]
        · refine List.map_congr_left fun j _ => ?_
          simp only [Function.comp, memGet]
          rw [if_neg (by omega), show k + 1 + j = k + Nat.succ j by omega]
      · rename_i e
        rw [ih h (fun c hc => by
          rcases List.mem_cons.mp hc with rfl | hc
          · simp only; omega
          · have := ht c hc; omega)]
        simp only [List.map_cons, List.map_map, Nat.add_zero]
        congr 1
        · rw [memGet_none]
          intro c hc
          rcases List.mem_cons.mp hc with rfl | hc
          · simp only; omega
          · have := ht c hc; omega
        · refine List.map_congr_left fun j _ => ?_
          simp only [Function.comp]
          rw [show a + 1 + j = a + Nat.succ j by omega]

theorem memFrom_spec {m : List Host.Cell} (a : Nat) (h : m.Pairwise (fun c d => c.1 < d.1)) :
    (memFrom m a).Pairwise (fun c d => c.1 < d.1) ∧ (∀ c ∈ memFrom m a, a ≤ c.1) ∧
      ∀ k, a ≤ k → memGet (memFrom m a) k = memGet m k := by
  induction m with
  | nil => simp [memFrom]
  | cons c t ih =>
    obtain ⟨j, v⟩ := c
    simp only [memFrom]
    split
    · rename_i hj
      obtain ⟨h1, h2, h3⟩ := ih (List.pairwise_cons.mp h).2
      refine ⟨h1, h2, fun k hk => ?_⟩
      rw [h3 k hk]
      simp only [memGet]
      rw [if_neg (by omega)]
    · rename_i hj
      refine ⟨h, fun c hc => ?_, fun _ _ => rfl⟩
      rcases List.mem_cons.mp hc with rfl | hc
      · simp only; omega
      · have := (List.pairwise_cons.mp h).1 c hc
        simp only at this; omega

/-- A read of a range answers the byte at each of its addresses. -/
theorem memRead_eq {m : List Host.Cell} (h : Memory.wf m = true) (a n : Nat) :
    memRead m a n = (List.range n).map fun k => memGet m (a + k) := by
  have hp := ((Memory.wf_iff m).mp h).1
  obtain ⟨h1, h2, h3⟩ := memFrom_spec a hp
  unfold memRead
  rw [memTake_eq n h1 h2]
  exact List.map_congr_left fun k _ => h3 _ (by omega)

/-! ### The state's memory -/

/-- Damaging streams leaves memory alone. -/
theorem damageStreams_mem (s : State) (i : SpanNo) (a n : Nat) (e : Bool) : (damageStreams s i a n e).mem = s.mem := by
  unfold damageStreams
  dsimp only
  split <;> rfl

/-- Damaging streams leaves the Ferries alone. -/
theorem damageStreams_ferries (s : State) (i : SpanNo) (a n : Nat) (e : Bool) : (damageStreams s i a n e).ferries = s.ferries := by
  unfold damageStreams
  dsimp only
  split <;> rfl

/-- Invalidating instruction-buffer lines leaves memory alone. -/
theorem dropLines_mem (s : State) (a n : Nat) : (dropLines s a n).mem = s.mem := by
  unfold dropLines
  split
  · rfl
  · split <;> rfl

/-- Invalidating instruction-buffer lines leaves local data alone. -/
theorem dropLines_local (s : State) (a n : Nat) :
    (dropLines s a n).ferries.map (fun e => e.2.localMem) = s.ferries.map fun e => e.2.localMem := by
  unfold dropLines
  split
  · rfl
  · split
    · rfl
    · simp [Function.comp_def]

/-- What a raw write does to memory, and to nothing else of it. -/
theorem rawWrite_mem (s : State) (a : Nat) (l : List Byte) : (rawWrite s a l).mem = memWrite s.mem a l := by
  unfold rawWrite
  dsimp only
  split
  · rw [damageStreams_mem]; dsimp only; rw [dropLines_mem]
  · dsimp only; rw [dropLines_mem]

/-- A raw write leaves local data alone. -/
theorem rawWrite_local (s : State) (a : Nat) (l : List Byte) :
    (rawWrite s a l).ferries.map (fun e => e.2.localMem) = s.ferries.map fun e => e.2.localMem := by
  unfold rawWrite
  dsimp only
  split
  · rw [damageStreams_ferries]; exact dropLines_local _ _ _
  · exact dropLines_local _ _ _

/-- A raw write keeps memory canonical. -/
theorem rawWrite_wf {s : State} (a : Nat) (l : List Byte) (h : Memory.wf s.mem = true) :
    Memory.wf (rawWrite s a l).mem = true := by
  rw [rawWrite_mem]; exact Memory.wf_memWrite _ _ h

/-- A raw clear keeps memory canonical. -/
theorem rawClear_wf {s : State} (lo hi : Nat) (h : Memory.wf s.mem = true) : Memory.wf (rawClear s lo hi).mem = true :=
  Memory.wf_memClear _ _ h

end Sys2Proof.Machine
end

