-- ==== Sys2Proof/Laws/Natuta.lean ====
section
/-!
SUPPORT. One dispatch of a Ferry, said once: where nothing comes before the instruction, what the row does follows from what its
effect answers.
-/
namespace Sys2Proof.Machine
open Sys2Proof.Safety

/-! ### A fetch that passes reads memory, and changes no more than that does -/

theorem takeBusy_unspent {s t : State} {q : Acc} {k a : Nat} (h : takeBusy s q k a = (t, false)) : t = s := by
  unfold takeBusy at h
  split at h
  · simp at h
  · simp at h; exact h.symm

theorem readFault_none {s t : State} {q : Acc} {k : Nat} {o : Option Nat} {a n : Nat}
    (h : readFault s q k o a n = (t, none)) : t = s := by
  unfold readFault at h
  split at h
  · simp at h
  · generalize hb : takeBusy s q k a = r at h
    obtain ⟨u, c⟩ := r
    cases c with
    | true => simp at h
    | false =>
      have hu := takeBusy_unspent hb
      simp only [Bool.false_eq_true, if_false] at h
      split at h
      · split at h <;> simp at h
      · split at h
        · simp at h
        · split at h
          · simp at h; rw [← h]; exact hu
          · simp at h

theorem writeFault_none {s t : State} {q : Acc} {k : Nat} {o : Option Nat} {a n : Nat}
    (h : writeFault s q k o a n = (t, none)) : t = s := by
  unfold writeFault at h
  split at h
  · simp at h
  · generalize hb : takeBusy s q k a = r at h
    obtain ⟨u, c⟩ := r
    cases c with
    | true => simp at h
    | false => simp at h; rw [← h]; exact takeBusy_unspent hb

theorem gateCheck_none {s t : State} {q : Acc} {d : Bool} {k : AKind} {a n : Nat} (h : gateCheck s q d k a n = (t, none)) : t = s := by
  unfold gateCheck at h
  dsimp only at h
  split at h
  · simp at h; exact h.symm
  · simp at h

theorem gateOnce_none {s t : State} {q : Acc} {key : Nat} {d : Bool} {k : AKind} {a n : Nat}
    (h : gateOnce s q key d k a n = (t, none)) : t = s := by
  unfold gateOnce at h
  split at h
  · simp at h; exact h.symm
  · exact gateCheck_none h

theorem piecesFault_none {s t : State} {q : Acc} {w : Bool} {l : List (Nat × Nat)} (h : piecesFault s q w l = (t, none)) : t = s := by
  induction l generalizing s with
  | nil => simp [piecesFault] at h; exact h.symm
  | cons p l ih =>
    obtain ⟨a, n⟩ := p
    unfold piecesFault at h
    split at h
    · exact ih h
    · cases w with
      | true =>
        simp only [if_true] at h
        generalize hr : writeFault s q (busyKey q) (some q.berth) a n = r at h
        obtain ⟨u, e⟩ := r
        cases e with
        | some e => simp at h
        | none => rw [← writeFault_none hr]; exact ih h
      | false =>
        simp only [Bool.false_eq_true, if_false] at h
        generalize hr : readFault s q (busyKey q) (some q.berth) a n = r at h
        obtain ⟨u, e⟩ := r
        cases e with
        | some e => simp at h
        | none => rw [← readFault_none hr]; exact ih h

theorem failRes_not_ok {α : Type} {s t : State} {b : BerthNo} {f : FerryNo} {a n : Nat} {e : AccFail} {x : α} :
    failRes s b f a n e ≠ (t, FRes.ok x) := by
  unfold failRes
  split
  · simp
  · simp
  · split <;> simp
  · split <;> simp

theorem readFor_ite {s t u : State} {b : BerthNo} (c : Bool) (h : readFor s t b) (k : readFor s u b) : readFor s (if c then t else u) b := by
  cases c
  · exact k
  · exact h

/-- A passed read of memory touches ports. -/
theorem readFor_ports (s : State) (b : BerthNo) (p : Ports) : readFor s { s with ports := p } b :=
  ⟨⟨rfl, rfl, rfl, rfl, rfl, rfl, rfl, rfl, rfl, rfl, rfl, rfl, rfl, rfl, rfl, rfl, rfl, fun _ _ => rfl,
    fun _ => ⟨rfl, rfl, rfl, rfl, rfl, rfl, rfl⟩⟩, berthsCounted_of_eq b rfl⟩

/-- A passed read of memory fills a line of an instruction buffer. -/
theorem readFor_ibuf (s : State) (b : BerthNo) (f : FerryNo) (l : Table (Nat × Bool × List Byte)) :
    readFor s (s.modFerry f fun y => { y with ibuf := l }) b := by
  refine ⟨⟨rfl, rfl, rfl, rfl, rfl, rfl, rfl, rfl, rfl, rfl, rfl, rfl, rfl, rfl, rfl, rfl, rfl, fun _ _ => rfl, fun g => ?_⟩,
    berthsCounted_of_eq b rfl⟩
  by_cases hg : g = f
  · subst hg; simp
  · simp only [State.modFerry]; rw [State.ferry_setFerry_ne _ _ hg]; exact ⟨rfl, rfl, rfl, rfl, rfl, rfl, rfl⟩

theorem readFor_endsOut (s : State) (b : BerthNo) (q : Acc) (key : Nat) (k : AKind) (a n : Nat) : readFor s (endsOut s q key k a n) b := by
  unfold endsOut
  dsimp only
  split
  · exact readFor_ports _ _ _
  · exact readFor_refl _ _

theorem readFor_correctSoft (s : State) (b : BerthNo) (q : Acc) (w : Bool) (a n : Nat) : readFor s (correctSoft s q w a n) b := by
  unfold correctSoft
  refine readFor_foldl _ _ _ _ fun s w => ?_
  refine readFor_trans (t := bumpErr { s with soft := Table.del s.soft w } (errKey 0 ((64 * w - 0x10000000) / 0x800000) 0) 32) ?_
    (readFor_of_quietly b (quietly_countSpan _ _ _ _ _ _ _))
  exact ⟨⟨rfl, rfl, rfl, rfl, rfl, rfl, rfl, rfl, rfl, rfl, rfl, rfl, rfl, rfl, rfl, rfl, rfl, fun _ _ => rfl,
    fun _ => ⟨rfl, rfl, rfl, rfl, rfl, rfl, rfl⟩⟩, berthsCounted_of_eq b rfl⟩

theorem quietly_countDiverted (s : State) (q : Acc) (a n : Nat) : Quietly s (countDiverted s q a n) := by
  unfold countDiverted
  exact quietly_foldl _ _ _ fun s w => quietly_countSpan _ _ _ _ _ _ _

theorem readFor_countAccess (s : State) (b : BerthNo) (q : Acc) (w : Bool) (a n : Nat) : readFor s (countAccess s q w a n) b := by
  unfold countAccess
  split
  · dsimp only
    generalize (if q.master = 5 ∨ q.master = 6 then 1 else 0) = bit
    exact readFor_ite _ (readFor_foldl _ _ _ _ fun s w => readFor_of_quietly b (quietly_countSpan _ _ _ _ _ _ _)) (readFor_refl _ _)
  · split
    · unfold driveStaging
      dsimp only
      generalize (if w then 4 else 3) = cls
      refine readFor_foldl _ _ _ _ fun s w => ?_
      exact readFor_ite _ (readFor_trans (readFor_ports _ _ _) (readFor_of_quietly b (quietly_countBlock _ _ _ _))) (readFor_ports _ _ _)
    · exact readFor_refl _ _

theorem readFor_served (s : State) (b : BerthNo) (q : Acc) (key : Nat) (k : AKind) (a n : Nat) : readFor s (served s q key k a n) b := by
  unfold served
  have hif : ∀ (u : State) (c : Bool) (p : Ports), readFor u (if c then { u with ports := p } else u) b :=
    fun u c p => readFor_ite c (readFor_ports _ _ _) (readFor_refl _ _)
  dsimp only
  exact readFor_trans (readFor_trans (readFor_trans (readFor_trans (readFor_trans (readFor_endsOut s b q key k a n) (hif _ _ _))
    (hif _ _ _)) (readFor_correctSoft _ b _ _ _ _)) (readFor_of_quietly b (quietly_countDiverted _ _ _ _)))
    (readFor_countAccess _ b _ _ _ _)

theorem counted_countIncidents (s : State) (b : BerthNo) (w : Bool) (a n : Nat) : counted s (countIncidents s b w a n) b := by
  unfold countIncidents
  exact counted_trans (counted_foldl _ _ _ _ fun s w => counted_countBerth _ _ _ _ _ _)
    (counted_foldl _ _ _ _ fun s w => counted_countBerth _ _ _ _ _ _)

theorem readFor_ferServed (s : State) (q : Acc) (b : BerthNo) (k : AKind) (a n : Nat) : readFor s (ferServed s q b k a n) b :=
  readFor_trans (readFor_of_counted (counted_countIncidents _ _ _ _ _)) (readFor_served _ _ _ _ _ _ _)

/-- What a fetch that passes does to the state: it reads memory. -/
theorem fetchCheck_ok {s t : State} {b : BerthNo} {f : FerryNo} {v : Bool} {pc : W32} (h : fetchCheck s b f v pc = (t, .ok ())) :
    readFor s t b := by
  unfold fetchCheck at h
  split at h
  · simp at h
  · rename_i a _
    split at h
    · dsimp only at h
      generalize hg : gateOnce s (ferAcc s b f v) (busyKey (ferAcc s b f v)) false .fetch a 4 = g at h
      obtain ⟨s1, o⟩ := g
      cases o with
      | some p => obtain ⟨w, r⟩ := p; exact absurd h failRes_not_ok
      | none =>
        have e1 := gateOnce_none hg
        subst e1
        dsimp only at h
        split at h
        · simp at h; subst h; exact readFor_refl _ _
        · unfold fillLine at h
          dsimp only at h
          generalize hr : readFault s1 (ferAcc s1 b f v) (busyKey (ferAcc s1 b f v)) (some (ferAcc s1 b f v).berth) (a / 64 * 64) 64 = r at h
          obtain ⟨s2, o⟩ := r
          cases o with
          | some e => exact absurd h failRes_not_ok
          | none =>
            have e2 := readFault_none hr
            subst e2
            simp only [Prod.mk.injEq, and_true] at h
            rw [← h]
            exact readFor_trans (readFor_trans (readFor_trans (readFor_ferServed _ _ _ _ _ _) (readFor_endsOut _ _ _ _ _ _ _))
              (readFor_ibuf _ _ _ _)) (readFor_of_counted (counted_countEv _ _ _))
    · generalize hr : ferRead s b f v .fetch a 4 = r at h
      obtain ⟨u, x⟩ := r
      cases x with
      | exc e => simp at h
      | wait => simp at h
      | ok l =>
        simp at h
        subst h
        unfold ferRead at hr
        dsimp only at hr
        generalize hg : gateOnce s (ferAcc s b f v) (busyKey (ferAcc s b f v)) false .fetch a 4 = g at hr
        obtain ⟨s1, o⟩ := g
        cases o with
        | some p => obtain ⟨w, r⟩ := p; exact absurd hr failRes_not_ok
        | none =>
          have e1 := gateOnce_none hg
          subst e1
          dsimp only at hr
          generalize hp : piecesFault s1 (ferAcc s1 b f v) false (wordsOf (4 / 64 + 2) a 4) = p at hr
          obtain ⟨s2, o⟩ := p
          cases o with
          | some e => exact absurd hr failRes_not_ok
          | none =>
            have e2 := piecesFault_none hp
            subst e2
            simp at hr
            rw [← hr.1]
            exact readFor_ferServed _ _ _ _ _ _

/-! ### One dispatch -/

theorem decodeFault_marks (s : State) (f : FerryNo) (h : Ferry → Ferry) (c : Ctx) (d : Dec) :
    decodeFault (s.modFerry f h) c d = decodeFault s c d := rfl

theorem offered_marks (s : State) (f : FerryNo) (h : Ferry → Ferry) (b : BerthNo) (m : Bool) :
    offered (s.modFerry f h) b m = offered s b m := rfl

/-- What `quiet` says of the state, one part at a time. -/
theorem quiet_parts {s : State} {f : FerryNo} {b : BerthNo} (h : quiet s f b = true) :
    (s.ferry f).berth = some b ∧ dispatches s f b = true ∧ (s.ferry f).resetReq = false ∧ storeClean s f = true ∧
      (s.ferry f).halt = .run ∧ breaks s f b = false ∧ offered s b (s.ferry f).stepMask = none ∧ (s.berth b).cmd = none ∧
      (s.berth b).switchReq = false ∧ (s.ctx b).badDepth = none ∧
      fetchCheck (atFetch s f b) b f false (s.ctx b).pc = (fetched s f b, .ok ()) := by
  simp only [quiet, Bool.and_eq_true, beq_iff_eq, Bool.not_eq_true', Option.isNone_iff_eq_none] at h
  obtain ⟨⟨⟨⟨⟨⟨⟨⟨⟨⟨h1, h2⟩, h3⟩, h4⟩, h5⟩, h6⟩, h7⟩, h8⟩, h9⟩, h10⟩, h11⟩ := h
  refine ⟨h1, h2, h3, h4, h5, h6, h7, h8, h9, h10, ?_⟩
  unfold fetches at h11
  unfold fetched
  generalize fetchCheck (atFetch s f b) b f false (s.ctx b).pc = r at h11 ⊢
  obtain ⟨t, x⟩ := r
  cases x with
  | ok u => rfl
  | exc e => simp at h11
  | wait => simp at h11

theorem switchOut_none {s : State} {b : BerthNo} (h1 : (s.berth b).cmd = none) (h2 : (s.berth b).switchReq = false) :
    switchOut s b = none := by
  unfold switchOut
  dsimp only
  split
  · rfl
  · rw [h1, h2]; rfl

theorem forgetAccess_berths (s : State) (k : Nat) : (forgetAccess s k).berths = s.berths := by
  unfold forgetAccess
  split <;> rfl

/-- A routine abandoned before a switch-out leaves the Berth's requests alone. -/
theorem abandonRoutine_asks (s : State) (b : BerthNo) (f : FerryNo) :
    ((abandonRoutine s b f).berth b).cmd = (s.berth b).cmd ∧ ((abandonRoutine s b f).berth b).switchReq = (s.berth b).switchReq := by
  unfold abandonRoutine
  split
  · generalize hu : (forgetAccess (abandonWait s b) f.val).modFerry f (fun y => { y with micro := Micro.reset }) = u
    have hb : u.berth b = s.berth b := by
      rw [← hu]
      simp only [State.berth, State.berths_modFerry, forgetAccess_berths]
      rfl
    rw [(counted_countEv u b 3).2.2.1, hb]
    exact ⟨rfl, rfl⟩
  · exact ⟨rfl, rfl⟩

/-- Where nothing comes before the instruction, the row is its attempt and what follows it. -/
theorem natuta_quiet {s : State} {f : FerryNo} {b : BerthNo} (h : quiet s f b = true) (d : Dec) (body : Body) :
    natuta f d body s =
      let y := s.ferry f
      let s' := s.modFerry f fun y => { y with skipBrk := false, step := false, stepMask := false }
      let r := execute s' f b d body y.step none
      if r.2 then stepEnd r.1 f y.step
      else r.1.modFerry f fun z => { z with skipBrk := y.skipBrk, step := y.step, stepMask := y.stepMask } := by
  obtain ⟨h1, h2, h3, h4, h5, h6, h7, h8, h9, h10, _⟩ := quiet_parts h
  have h5' : ((s.ferry f).halt == HaltSt.halting) = false := by rw [h5]; rfl
  have hs : switchOut (abandonRoutine s b f) b = none :=
    switchOut_none ((abandonRoutine_asks s b f).1.trans h8) ((abandonRoutine_asks s b f).2.trans h9)
  simp only [natuta, h1, h2, if_true, dispatch, h3, h5', h6, h7, Bool.false_and,
    Bool.false_eq_true, if_false, Option.isSome_none, hs, dispatchGo, h10, offered_marks, Bool.or_false]

/-- A control store without errors stops no routine. -/
theorem fetchRoutine_clean {s : State} {f : FerryNo} (a : Nat) (h : storeClean s f = true) : fetchRoutine s f a = (s, false) := by
  simp only [storeClean] at h
  simp only [fetchRoutine, h, if_true]

/-- What the fetch of an instruction that takes effect leaves alone. -/
theorem fetched_kept {s : State} {f : FerryNo} {b : BerthNo} (h : quiet s f b = true) : readFor (atFetch s f b) (fetched s f b) b := by
  obtain ⟨_, _, _, _, _, _, _, _, _, _, hf⟩ := quiet_parts h
  exact fetchCheck_ok hf

/-- The context in which an instruction of Berth `b` has its effect: that at the dispatch, but for the loads on their way, counters and an
ended hold. -/
theorem ctx_atEffect {s : State} {f : FerryNo} {b : BerthNo} (h : quiet s f b = true) (k : LockCls) :
    ∃ cfg val pend smp, (pend = (s.ctx b).intPend ∨ pend = (s.ctx b).intPend ||| 2) ∧
      (atEffect s f b k).ctx b =
        { s.ctx b with late := [], wrote := [], cntCfg := cfg, cntVal := val, intPend := pend, smp := smp }.lockBefore k := by
  obtain ⟨_, _, _, h3, h4⟩ := fetched_kept h
  refine ⟨((fetched s f b).ctx b).cntCfg, ((fetched s f b).ctx b).cntVal, ((fetched s f b).ctx b).intPend, ((fetched s f b).ctx b).smp, ?_, ?_⟩
  · simpa [atFetch] using h4
  · simp only [atEffect, State.ctx_modCtx]
    rw [h3]
    simp [atFetch]

/-- The Ferry as the instruction has its effect keeps its control store. -/
theorem storeClean_atEffect {s : State} {f : FerryNo} {b : BerthNo} (h : quiet s f b = true) (k : LockCls) :
    storeClean (atEffect s f b k) f = true := by
  obtain ⟨_, _, _, hc, _⟩ := quiet_parts h
  have hk := ((fetched_kept h).1.2.2.2.2.2.2.2.2.2.2.2.2.2.2.2.2.2.2 f).2.2.2.2.2.1
  simp only [storeClean, atEffect, State.ferry_modCtx, hk] at hc ⊢
  simpa [atFetch] using hc

/-- The attempt of an instruction that decodes and whose guard is true is its effect. -/
theorem attempt_runs {s : State} {f : FerryNo} {b : BerthNo} {d : Dec} (h : runs s f b d = true) (body : Body) (single : Bool) :
    attempt (atFetch s f b) f b d body single =
      ((body single (atEffect s f b d.cls) b).1, (body single (atEffect s f b d.cls) b).2, true) := by
  simp only [runs, Bool.and_eq_true, Option.isNone_iff_eq_none] at h
  obtain ⟨⟨hq, hd⟩, hg⟩ := h
  obtain ⟨_, _, _, _, _, _, _, _, _, _, hf⟩ := quiet_parts hq
  have hpc : ((atFetch s f b).ctx b).pc = (s.ctx b).pc := by simp [atFetch]
  have hdf : decodeFault (fetched s f b) ((atFetch s f b).ctx b) d = none := by
    rw [← hd]; simp [atFetch, decodeFault]
  have hgd : ((atFetch s f b).ctx b).guard d.g = true := by
    rw [← hg]; simp [atFetch, Ctx.guard, Ctx.getP]
  have hcl := fetchRoutine_clean (entryOf (atEffect s f b d.cls) f d) (storeClean_atEffect hq d.cls)
  simp only [atEffect] at hcl
  simp only [attempt, hpc, hf, hdf, hgd, if_true, atEffect, hcl]

/-- What a dispatch does with an attempt, at a boundary that offers no exception. -/
theorem execute_none {s0 u : State} {f : FerryNo} {b : BerthNo} {d : Dec} {body : Body} {single full : Bool} {a : After}
    (h : attempt (s0.setCtx b { s0.ctx b with late := [], wrote := [] }) f b d body single = (u, a, full)) :
    execute s0 f b d body single none =
      if full then finish s0 u b f d.cls (s0.ctx b).late a
      else (retire ((settle u b (s0.ctx b).late).modCtx b Ctx.advance) b f d.cls 2, true) := by
  unfold execute
  simp only [h]

/-- A row whose effect is made: what follows it. -/
theorem natuta_effect {s u : State} {f : FerryNo} {b : BerthNo} {d : Dec} {body : Body} {a : After} (h : runs s f b d = true)
    (hb : body (s.ferry f).step (atEffect s f b d.cls) b = (u, a)) :
    natuta f d body s =
      let y := s.ferry f
      let s' := s.modFerry f fun y => { y with skipBrk := false, step := false, stepMask := false }
      let r := finish s' u b f d.cls (s.ctx b).late a
      if r.2 then stepEnd r.1 f y.step
      else r.1.modFerry f fun z => { z with skipBrk := y.skipBrk, step := y.step, stepMask := y.stepMask } := by
  have hq : quiet s f b = true := by simp only [runs, Bool.and_eq_true] at h; exact h.1.1
  have ha := attempt_runs h body (s.ferry f).step
  rw [hb] at ha
  rw [natuta_quiet hq]
  dsimp only
  rw [execute_none (u := u) (a := a) (full := true) ha]
  rfl

/-- A row whose effect is made and retires. -/
theorem natuta_next {s u : State} {f : FerryNo} {b : BerthNo} {d : Dec} {body : Body} (h : runs s f b d = true)
    (hb : body (s.ferry f).step (atEffect s f b d.cls) b = (u, .next)) : natuta f d body s = retired s f b d.cls 1 u :=
  natuta_effect h hb

/-- A row whose effect is made, sets the PC itself and retires. -/
theorem natuta_done {s u : State} {f : FerryNo} {b : BerthNo} {d : Dec} {body : Body} (h : runs s f b d = true)
    (hb : body (s.ferry f).step (atEffect s f b d.cls) b = (u, .done)) : natuta f d body s = retiredHere s f b d.cls 1 u :=
  natuta_effect h hb

/-- A row whose guard is false retires with no effect. -/
theorem natuta_false {s : State} {f : FerryNo} {b : BerthNo} {d : Dec} {body : Body} (hq : quiet s f b = true)
    (hd : decodeFault (fetched s f b) (s.ctx b) d = none) (hg : (s.ctx b).guard d.g = false) :
    natuta f d body s = retired s f b d.cls 2 (atEffect s f b d.cls) := by
  obtain ⟨_, _, _, _, _, _, _, _, _, _, hf⟩ := quiet_parts hq
  have hpc : ((atFetch s f b).ctx b).pc = (s.ctx b).pc := by simp [atFetch]
  have hdf : decodeFault (fetched s f b) ((atFetch s f b).ctx b) d = none := by
    rw [← hd]; simp [atFetch, decodeFault]
  have hgd : ((atFetch s f b).ctx b).guard d.g = false := by
    rw [← hg]; simp [atFetch, Ctx.guard, Ctx.getP]
  have ha : attempt (atFetch s f b) f b d body (s.ferry f).step = (atEffect s f b d.cls, .next, false) := by
    simp only [attempt, hpc, hf, hdf, hgd, Bool.false_eq_true, if_false, atEffect]
  rw [natuta_quiet hq]
  dsimp only
  rw [execute_none (u := atEffect s f b d.cls) (a := .next) (full := false) ha]
  rfl

end Sys2Proof.Machine
end

