-- ==== Sys2Proof/WellFormed.lean ====
section
/-!
DEFINITION. Which commands a well-behaved outside world sends: lengths that a port can carry, ports that exist, and
register addresses inside the host window. An ill-formed command still has a meaning; these are the checks.
-/
namespace Sys2Proof

/-- The largest offset of the host window, 16 MiB (R465). -/
def windowSize : Nat := 0x1000000

/-- A frame's bytes come in whole beats of 64, with at least the header beat and at most 1,024 beats (R407). -/
def landingBeats (l : List Byte) : Bool := l.length % 64 == 0 && 64 ≤ l.length && l.length ≤ 65536

/-- A transport frame's length lies within what a port carries (R314). -/
def slipFrame (l : List Byte) : Bool := 1 ≤ l.length && l.length ≤ 8196

/-- A Viaduct payload has at most 8,192 bytes (R376). -/
def viaBody (l : List Byte) : Bool := l.length ≤ 8192

/-- The checks on a command, by what it carries. -/
def WellFormed : Instr → Bool
  | .landingCommandFrame _ _ l => landingBeats l
  | .landingDataFrame _ _ l => landingBeats l
  | .landingFrameDiscarded _ _ _ l => landingBeats l
  | .loaderDmaFrame _ _ _ l => landingBeats l
  | .sspDataIn _ _ l => slipFrame l
  | .sspXferRdyIn _ _ l => slipFrame l
  | .sspResponseIn _ _ l => slipFrame l
  | .fisRegisterD2hIn _ _ _ l => slipFrame l
  | .fisDmaActivateIn _ _ _ l => slipFrame l
  | .fisDmaSetupIn _ _ _ l => slipFrame l
  | .fisDataIn _ _ _ l => slipFrame l
  | .fisPioSetupIn _ _ _ l => slipFrame l
  | .fisSetDeviceBitsIn _ _ _ l => slipFrame l
  | .viaHello _ b => viaBody b
  | .viaKex1 _ b => viaBody b
  | .viaKex2 _ b => viaBody b
  | .viaConfirm _ b => viaBody b
  | .viaSyncEnd _ b => viaBody b
  | .viaHeartbeat _ b => viaBody b
  | .viaAck _ b => viaBody b
  | .viaNack _ b => viaBody b
  | .viaBatch _ b => viaBody b
  | .viaCells _ b => viaBody b
  | .viaCkpt _ b => viaBody b
  | .viaKeyload _ b => viaBody b
  | .viaKeyerase _ b => viaBody b
  | .viaConfig _ b => viaBody b
  | .viaDetach _ b => viaBody b
  | .viaPromoted _ b => viaBody b
  | .registerWrite _ o _ _ => o % 8 == 0 && o < windowSize
  | .rcCounterTake (.take o) => o % 8 == 0 && o < windowSize
  | .rcCounterTake (.peek o) => o % 8 == 0 && o < windowSize
  | .stagingPortReset p => p.port.toNat < 12
  | .stagingPortResetRelease p => p.toNat < 12
  | .stagingReadBeat p _ _ => p.toNat < 12
  | _ => true

end Sys2Proof
end

