-- ==== Sys2Proof/Tests/Slice0.lean ====
section
/-!
SUPPORT. Tests of the model on fixed values taken from the spec, and for every statement with hypotheses a witness: a small state and
operands that meet them.
-/
namespace Sys2Proof.Tests
-- one theorem at a time: each waits for the kernel's check of those before it
set_option Elab.async false
open Sys2Proof.Machine Sys2Proof.Safety

/-! ### Small states -/

/-- A context at supervisor level in the North bank: S0 the program store of Span 0, S1 the open Pontoon, S2 the Ferry's local data,
S7 the North reserve. -/
def ctxN : Ctx :=
  { Ctx.zero with
    pc := 0x40, north := true, home := true, sup := true, g := [(1, 10), (2, 3), (32, 0x1000)],
    segs := [(0, { base := 0x20000000, limit := 0xFFFFF, north := true, x := true, w := false, r := true }),
             (1, { base := 0x10000000, limit := 0x5FFFFF, north := true, x := false, w := true, r := true }),
             (2, { base := 0, limit := 0x7FFF, north := true, x := false, w := true, r := true }),
             (7, { base := 0x10780000, limit := 0x7FFFF, north := true, x := false, w := true, r := true })] }

/-- A block past its start that runs loaded engines with every feature, in life-cycle state Provisioned. -/
def up : State :=
  { State.reset with
    ldr := { Loader.reset with state := 5, feat0 := BitVec.allOnes 64, feat4 := BitVec.allOnes 64, feat5 := BitVec.allOnes 64 }
    lc := { State.reset.lc with state := 1 }
    keys := { State.reset.keys with kpWait := false } }

/-- That block with Berth 0 running on Ferry 0 in context `c`. -/
def ran (c : Ctx) : State :=
  { up with berths := [(0, { Berth.reset with st := .running, ctx := c, ferry := some 0 })]
            ferries := [(0, { Ferry.reset with berth := some 0 })] }

/-- The machine of most witnesses. -/
def s0 : State := ran ctxN

/-- The guard that is always true. -/
def always : Guard := { gp := 0, gn := false }

/-- The state that a command leaves, or `d`. -/
def after (c : Instr) (s : State) : State :=
  match exec c s with
  | .next t => t
  | _ => State.reset

/-- The command answers a next state. -/
def isNext (c : Instr) (s : State) : Bool :=
  match exec c s with
  | .next _ => true
  | _ => false

/-- A command that answers a next state answers `after`. -/
theorem next_after (c : Instr) (s : State) (h : isNext c s = true) : exec c s = .next (after c s) := by
  unfold isNext at h; unfold after
  split at h <;> simp_all

def oA : LA := { g := always, rd := 3, ra := 1, rb := 2, f := true }
def oA0 : LA := { oA with rb := 0 }
def oI : LI := { g := always, rd := 3, ra := 1, f := true, imm := 0x7FF }
def oIh (n : BitVec 6) : LIh := { g := always, rd := 3, ra := 1, f := true, res := 0, sh := n }
def oU (k : Bool) : LU := { g := always, rd := 3, k := k, imm := 0xBEEF }
def oAp (k : BitVec 6) : LAp := { g := always, pd := 1, pe := 2, ra := 1, rb := 2, cond := k }
def oIp (k : BitVec 4) : LIp := { g := always, pd := 1, pe := 2, ra := 1, cond := k, imm := 0x7F }
def oAl : LAl := { g := always, pd := 3, pe := 3, pa := 1, na := true, pb := 0, nb := false, res := 0 }
/-- The guard that is always false. -/
def off : Guard := { gp := 0, gn := true }

/-- The machine with `a` in G1, `b` in G2 and carry `k`. -/
def sv (a b : W64) (k : Bool) : State :=
  ran { ctxN with g := [(1, a), (2, b), (3, 0x123456789), (32, 0x1000)], dzt := k
                  flags := { c := k, v := k, z := false, n := true, dz := false }, late := [(5, 77)] }

/-- The Berth's context, a register and the flags c, v, z, n, dz after a command. -/
def ctxAfter (c : Instr) (s : State) : Ctx := (after c s).ctx 0
def gAfter (c : Instr) (s : State) (r : Nat) : W64 := (ctxAfter c s).getG r
def fl (c v z n dz : Bool) : Flags := { c, v, z, n, dz }

/-! ### Witnesses: the step, reset, and the register instructions -/

theorem witness_StepRunsFrontCommand : { s0 with pending := [.coldReset, .nop 0 0] }.pending = .coldReset :: [.nop 0 0] := rfl
theorem witness_EmptyQueueTick : s0.pending = [] ∧ s0.time.lost = false ∧ s0.power.good = true ∧ s0.power.st = .underWay
    ∧ { s0 with time := { s0.time with lost := true } }.time.lost = true
    ∧ ∀ l : Bool, somethingWaits (passTicks 1 { s0 with time := { s0.time with lost := l } }) = false := by decide +kernel
theorem witness_StepKeepsMemoryCanonical : memOk s0 = true ∧ isNext (.add 0 oA) s0 = true := by
  decide +kernel
theorem witness_AddSubtractResults :
    (∀ p ∈ [aluDec oA 0x00 none false, aluDec oA 0x01 none false, aluDec oA0 0x02 none true, aluDec oA 0x03 none false,
        aluDec oA 0x04 none false, { word := wordI oI 0x02, major := 0x02, g := oI.g, cls := .alu }], runs s0 0 0 p = true) := by
  decide +kernel
theorem witness_LogicAndBitResults :
    (∀ k ∈ [0x08, 0x09, 0x0A, 0x0B, 0x0C, 0x28, 0x29, 0x2A, 0x2B], runs s0 0 0 (aluDec oA k none false) = true)
    ∧ (∀ k ∈ [0x30, 0x31, 0x32], runs s0 0 0 (aluDec oA0 k none true) = true)
    ∧ (∀ m ∈ [0x03, 0x04], runs s0 0 0 { word := wordI oI m, major := m, g := oI.g, cls := .alu } = true) := by decide +kernel
theorem witness_ShiftResults :
    (∀ k ∈ [0x10, 0x11, 0x12, 0x13], ([(0 : W64), 64, 0xFFFFFFFFFFFFFFFF].all fun n => runs (sv 5 n true) 0 0 (aluDec oA k none false)) = true)
    ∧ (∀ k ∈ [0, 1, 2, 3], ∀ n ∈ [(0 : BitVec 6), 63], runs s0 0 0
        { word := wordIh (oIh n) 0x05 k, major := 0x05, g := always, fieldBad := (oIh n).res != 0, cls := .alu } = true) := by decide +kernel
theorem witness_MultiplyDivideResults :
    runs s0 0 0 (aluDec oA 0x18 none false) = true ∧ runs s0 0 0 (aluDec oA 0x19 (some 0) false) = true
    ∧ runs s0 0 0 (aluDec oA 0x1A (some 0) false) = true
    ∧ (∀ k ∈ [0x20, 0x21, 0x22, 0x23], runs s0 0 0 (aluDec oA k (some 1) false) = true
        ∧ ((s0.ctx 0).getG 2 ≠ 0)
        ∧ ∀ t : Bool, runs (sv 7 0 t) 0 0 (aluDec oA k (some 1) false) = true ∧ ((sv 7 0 t).ctx 0).getG 2 = 0 ∧ ((sv 7 0 t).ctx 0).dzt = t)
    ∧ (raised (sv 7 0 true) 0 0 (atEffect (sv 7 0 true) 0 0 .alu) { cause := 0x0B, info := (wordA oA 0x01 0x20).setWidth 64, info2 := 0 }
        0x40).isSome = true
    ∧ runs (sv 0x8000000000000000 (BitVec.allOnes 64) false) 0 0 (aluDec oA 0x20 (some 1) false) = true := by decide +kernel
theorem witness_MovesComparesPredicates :
    (∀ k : Bool, runs s0 0 0 { word := wordU (oU k) 0x06, major := 0x06, g := always, cls := .alu } = true
      ∧ runs s0 0 0 { word := wordU (oU k) 0x07, major := 0x07, g := always, cls := .alu } = true)
    ∧ (∀ k ∈ [0, 10], runs s0 0 0 { word := wordAp (oAp k) 0x08, major := 0x08, g := always, enumBad := decide (10 < k.toNat), cls := .alu } = true)
    ∧ (∀ k ∈ [0, 9], runs s0 0 0 { word := wordIp (oIp k) 0x09, major := 0x09, g := always, enumBad := decide (9 < k.toNat), cls := .alu } = true)
    ∧ (∀ k ∈ [0, 1, 2, 3], runs s0 0 0 { word := wordAl oAl 0x0A k, major := 0x0A, g := always, cls := .alu } = true) := by decide +kernel
theorem witness_NopGuardRetirement :
    isNop 0 = true ∧ runs s0 0 0 { word := 0, major := 0, g := guardOf 0, cls := .alu } = true
    ∧ quiet s0 0 0 = true ∧ (s0.ctx 0).guard off = false
    ∧ (∀ d ∈ [aluDec { oA0 with g := off } 0x00 none false, aluDec { oA with g := off } 0x20 (some 1) false,
        bitDec { g := off, p := 0, ra := 1, off := 3 } 0 false,
        { word := wordB { g := off, disp := 5 } 0x14, major := 0x14, g := off }, { word := wordB { g := off, disp := 5 } 0x15, major := 0x15, g := off },
        decM { g := off, rd := 3, ra := 1, sa := 1, disp := 1 } 0x0C 3, decM { g := off, rd := 3, ra := 1, sa := 1, disp := 1 } 0x0D 3],
        decodeFault s0 (s0.ctx 0) d = none)
    ∧ (s0.ferry 0).berth = some 0 ∧ (sv 1 1 true).ctx 0 = { (sv 1 1 true).ctx 0 with late := [(5, 77)] } := by decide +kernel
/-- Berth 0 at the end of an innermost level with count `k`, in a LOCK hold. -/
def sLp (k : W32) (r : List Loop) : State :=
  ran { ctxN with loops := { start := 0x30, stop := 0x40, count := k } :: r, lock := some { word := 1, count := 7 } }
theorem witness_NopGuardRetirement_loops (k : W32) (r : List Loop) :
    ((sLp k r).ferry 0).berth = some 0 ∧ ((sLp k r).ctx 0).loops = { start := 0x30, stop := ctxN.pc, count := k } :: r
    ∧ ((sLp k r).ctx 0).pc = ctxN.pc ∧ ((sLp k r).ctx 0).lock = some { word := 1, count := 7 } := ⟨rfl, rfl, rfl, rfl⟩
theorem witness_RegisterInstructionFrame :
    (∀ c ∈ [Instr.add 0 oA, .addi 0 oI, .shli 0 (oIh 3)], isNext c s0 = true) := by decide +kernel

/-! ### The register instructions on values of the spec (R195 to R197, R214 to R217) -/

/-- NEG of 0x8000_0000_0000_0000 is itself, with v (R196). -/
theorem test_neg : gAfter (.neg 0 oA0) (sv 0x8000000000000000 0 false) 3 = 0x8000000000000000
    ∧ (ctxAfter (.neg 0 oA0) (sv 0x8000000000000000 0 false)).flags = fl false true false true false := by decide +kernel
/-- SUB of equal numbers: c = 1 means no borrow, and z (R195). -/
theorem test_sub : (ctxAfter (.sub 0 oA) (sv 9 9 false)).flags = fl true false true false false
    ∧ (ctxAfter (.sub 0 oA) (sv 8 9 false)).flags = fl false false false true false := by decide +kernel
/-- ADD wraps with c, and overflows with v (R195). -/
theorem test_add : (ctxAfter (.add 0 oA) (sv (BitVec.allOnes 64) 1 false)).flags = fl true false true false false
    ∧ (ctxAfter (.add 0 oA) (sv 0x7FFFFFFFFFFFFFFF 1 false)).flags = fl false true false true false := by decide +kernel
/-- SAR by 64 or more gives copies of bit 63, SHL by 64 gives 0 with c = 0, and a rotate leaves c (R197). -/
theorem test_shift : gAfter (.sar 0 oA) (sv 0x8000000000000000 200 true) 3 = BitVec.allOnes 64
    ∧ gAfter (.shl 0 oA) (sv 5 64 true) 3 = 0 ∧ (ctxAfter (.shl 0 oA) (sv 5 64 true)).flags.c = false
    ∧ gAfter (.ror 0 oA) (sv 1 65 true) 3 = 0x8000000000000000 ∧ (ctxAfter (.ror 0 oA) (sv 1 65 true)).flags.c = true := by decide +kernel
/-- The edge cases of division (R196). -/
theorem test_div : gAfter (.div 0 oA) (sv 0x8000000000000000 (BitVec.allOnes 64) false) 3 = 0x8000000000000000
    ∧ gAfter (.rem 0 oA) (sv 0x8000000000000000 (BitVec.allOnes 64) false) 3 = 0
    ∧ gAfter (.div 0 oA) (sv 7 0 false) 3 = BitVec.allOnes 64 ∧ gAfter (.remu 0 oA) (sv 7 0 false) 3 = 7
    ∧ gAfter (.div 0 oA) (sv (BitVec.ofInt 64 (-7)) 2 false) 3 = BitVec.ofInt 64 (-3)
    ∧ gAfter (.rem 0 oA) (sv (BitVec.ofInt 64 (-7)) 2 false) 3 = BitVec.ofInt 64 (-1) := by decide +kernel
/-- MOVL 0 extends with zeros, MOVH 1 replaces the top quarter alone (R215). -/
theorem test_mov : gAfter (.movl 0 (oU false)) (sv 1 1 false) 3 = 0xBEEF ∧ gAfter (.movh 0 (oU true)) (sv 1 1 false) 3 = 0xBEEF000123456789 := by
  decide +kernel
/-- A compare that names one predicate twice leaves not r (R175, R216). -/
theorem test_cmp : (ctxAfter (.cmp 0 { oAp 0 with pe := 1 }) (sv 5 5 false)).getP 1 = false
    ∧ (ctxAfter (.cmpi 0 (oIp 4)) (sv 5 5 false)).getP 1 = true ∧ (ctxAfter (.cmpi 0 (oIp 2)) (sv 5 5 false)).getP 1 = false := by decide +kernel
/-- The load of the instruction before lands after this one: ADD of G5 reads the old value (R188). -/
theorem test_late : gAfter (.add 0 { oA with ra := 5, rb := 0 }) (sv 1 1 false) 3 = 0
    ∧ gAfter (.add 0 { oA with ra := 5, rb := 0 }) (sv 1 1 false) 5 = 77 := by decide +kernel

/-! ### Witnesses: memory, the long instructions, B-space and control flow -/

/-- Did an access answer a result, or an exception of cause `k`? -/
def isOk {α : Type} (r : State × FRes α) : Bool :=
  match r.2 with
  | .ok _ => true
  | _ => false
def isExc {α : Type} (r : State × FRes α) (k : Nat) : Bool :=
  match r.2 with
  | .exc e => e.cause == k
  | _ => false

/-- An access that answers a result has a state and a value. -/
theorem ok_of {α : Type} (r : State × FRes α) (h : isOk r = true) : ∃ u l, r = (u, .ok l) := by
  obtain ⟨u, v⟩ := r
  cases v <;> simp_all [isOk]

def oM : LM := { g := always, rd := 4, ra := 1, sa := 1, disp := 1 }
def bytes200 : List Byte := (List.range 200).map fun k => BitVec.ofNat 8 (k * 37 + 131)
/-- Bytes at the start of the Pontoon and of the local data of Ferry 0. -/
def withMem (s : State) : State :=
  { s with mem := memWrite s.mem 0x10000000 bytes200, ferries := s.ferries.map fun e => (e.1, { e.2 with localMem := memWrite [] 0 bytes200 }) }
def sx (h : Ctx → Ctx) : State := withMem (ran (h ctxN))
def s1 : State := sx id
def ax (s : State) : State := atEffect s 0 0 .other
def s3 : State := sx fun c => { c with g := [(1, 64), (3, 7), (4, 0x1111), (5, 0x2222), (6, 0x3333), (30, 5), (32, 0x1000)], late := [(9, 9)] }

theorem witness_SegmentAccess :
    isOk (segLoad s1 0 0 1 5 8 true) = true ∧ isOk (segStore s1 0 0 1 0x3C bytes200 false) = true ∧ isOk (segLoad s1 0 0 2 60 8 false) = true
    ∧ isOk (segStore s1 0 0 2 60 (zeros 65) false) = true ∧ memOk s1 = true ∧ ((s1.ctx 0).seg 1).limit = 0x5FFFFF
    ∧ isExc (segLoad s1 0 0 1 0x5FFFF9 8 true) 0x06 = true ∧ isOk (segLoad s1 0 0 1 0x5FFFF8 8 true) = true
    ∧ isExc (segLoad s1 0 0 3 0 1 true) 0x07 = true ∧ isExc (segStore s1 0 0 0 0 (zeros 4) true) 0x07 = true
    ∧ (∀ p, flagAt s1.ports.stgRst p = false) ∧ s1.ports.stgWrites = [] ∧ bufferFull s1 0 = false
    ∧ isExc (fetchCheck (sx fun c => { c with segs := [] }) 0 0 false 0x40) 0x06 = true
    ∧ isExc (fetchCheck (sx fun c => { c with segs := [(0, { base := 0xFFFFFFFFFFF0, limit := 0xFFFFFFFF, north := true, r := true
                                                             w := true, x := true })] }) 0 0 false 0x40) 0x06 = true := by
  refine ⟨?_, ?_, ?_, ?_, ?_, ?_, ?_, ?_, ?_, ?_, fun p => rfl, ?_, ?_, ?_, ?_⟩ <;> decide +kernel
theorem witness_LoadsAndStores :
    (∀ p ∈ [(0, 1), (1, 2), (2, 4), (3, 8), (4, 1), (5, 2), (6, 4)], runs s1 0 0 (decM oM 0x0C p.1) = true
      ∧ isOk (segLoad (ax s1) 0 0 1 (10 + BitVec.ofNat 64 p.2) p.2 true) = true)
    ∧ (∀ p ∈ [(0, 1), (1, 2), (2, 4), (3, 8)], runs s1 0 0 (decM oM 0x0D p.1) = true
      ∧ isOk (segStore (ax s1) 0 0 1 (10 + BitVec.ofNat 64 p.2) (zeros p.2) true) = true)
    ∧ runs s1 0 0 { decM oM 0x0D 4 with group := some 3, cls := .unlock } = true
    ∧ isOk (segStore (atEffect s1 0 0 .unlock) 0 0 1 18 (zeros 8) true) = true := by decide +kernel
/-- The same load through a segment that grants nothing, and a wide move at an address that is no multiple of its size. -/
def oMb : LM := { oM with sa := 3 }
theorem witness_FaultingAccessTakesException :
    (∀ p ∈ [(0, 1), (1, 2), (2, 4), (3, 8), (4, 1), (5, 2), (6, 4)], runs s1 0 0 (decM oMb 0x0C p.1) = true
      ∧ isExc (segLoad (ax s1) 0 0 3 (10 + BitVec.ofNat 64 p.2) p.2 true) 0x06 = true)
    ∧ (∀ p ∈ [(0, 1), (1, 2), (2, 4), (3, 8)], runs s1 0 0 (decM oMb 0x0D p.1) = true
      ∧ isExc (segStore (ax s1) 0 0 3 (10 + BitVec.ofNat 64 p.2) (zeros p.2) true) 0x06 = true)
    ∧ (∀ p ∈ [(0, 2), (1, 4), (2, 8), (4, 2), (5, 4), (6, 8)], runs s1 0 0 (wideDec { oM with rd := 8 } p.1 p.2) = true
      ∧ (10 + 8 * p.2) % (8 * p.2) ≠ 0)
    ∧ (raised s1 0 0 (ax s1) { cause := 0x06, info := 11, info2 := 3 } 0x40).isSome = true
    ∧ (raised s1 0 0 (ax s1) { cause := 0x08, info := 26, info2 := 1 } 0x40).isSome = true := by decide +kernel
theorem witness_WideMoves :
    (∀ p ∈ [(0, 2, 4), (1, 4, 4), (2, 8, 24), (2, 8, 0)], runs s3 0 0 (wideDec { oM with rd := p.2.2 } p.1 p.2.1) = true
      ∧ isOk (segLoad (ax s3) 0 0 1 (64 + BitVec.ofNat 64 (8 * p.2.1)) (8 * p.2.1) false) = true)
    ∧ (∀ p ∈ [(4, 2, 4), (5, 4, 0), (6, 8, 24)], runs s3 0 0 (wideDec { oM with rd := p.2.2 } p.1 p.2.1) = true
      ∧ isOk (segStore (ax s3) 0 0 1 (64 + BitVec.ofNat 64 (8 * p.2.1)) (zeros (8 * p.2.1)) false) = true) := by decide +kernel
/-- G4 holds the word that memory holds at offset 72. -/
def s4 : State := sx fun c => { c with g := [(1, 64), (4, BitVec.ofNat 64 (natOfBytes ((bytes200.drop 72).take 8)))], late := [(9, 9)] }
def atomHas (s : State) (k : Right) (lock : Bool) (a : Nat) (v : W64) : Bool :=
  match (atomLoad (ax s) 0 0 1 72 k lock).2 with
  | .ok x => x == (a, v)
  | _ => false
theorem witness_AtomicsReadThenWrite :
    runs s4 0 0 { decM oM 0x0F 0 with group := some 3 } = true ∧ runs s4 0 0 { decM oM 0x0F 1 with group := some 4 } = true
    ∧ runs s4 0 0 { decM oM 0x0F 2 with group := some 5, fieldBad := oM.rd.toNat % 2 != 0 } = true
    ∧ atomHas s4 .r true 0x10000048 ((s4.ctx 0).getG 4) = true ∧ atomHas s4 .rw false 0x10000048 ((s4.ctx 0).getG 4) = true
    ∧ runs s3 0 0 { decM oM 0x0F 2 with group := some 5, fieldBad := oM.rd.toNat % 2 != 0 } = true
    ∧ atomHas s3 .rw false 0x10000048 ((s3.ctx 0).getG 4) = false
    ∧ (((ax s1).ctx 0).seg 1).base.toNat % 8 = 0 ∧ (s1.ctx 0).getG 1 + 8 = 18 := by decide +kernel
/-- Every condition of an atomic's access at 0x1000_0048, and one in the local data. -/
theorem witness_AtomicsReadThenWrite_access :
    (∀ k ∈ [Right.r, .rw], (∀ p ∈ [(1, 0x10000048), (2, 72)], (match segCheck ((ax s4).ctx 0) p.1 72 8 k with | .ok a => a == p.2 | _ => false) = true
        ∧ inRegs (ferrySpan 0) p.2 = false ∧ (gateOnce (ax s4) (ferAcc (ax s4) 0 0 false) 0 false .atomic p.2 8).2 = none
        ∧ (piecesFault (ax s4) (ferAcc (ax s4) 0 0 false) false (wordsOf 2 p.2 8)).2 = none ∧ inAnyPontoon p.2 = (p.1 == 1)))
    ∧ busyKey (ferAcc (ax s4) 0 0 false) = 0 ∧ (s1.ctx 0).getG 1 + 8 = 18 ∧ (((ax s1).ctx 0).seg 1).base.toNat % 8 = 0 := by decide +kernel
def oL : LMl := { g := always, rd := 4, ra := 1, sa := 1, sb := 2, res := 0 }
def oF : LMl := { oL with sb := 0 }
def sL (n : Nat) : State := sx fun c => { c with g := [(1, 5), (4, 0x1003), (5, BitVec.ofNat 64 n), (32, 0x1000)] }
def isEnd (r : State × After) : Bool :=
  match r.2 with
  | .next => true
  | _ => false
theorem witness_LongInstructions :
    (∀ n ∈ [0, 100], runs (sL n) 0 0 (longDec oL 4 6 true) = true ∧ runs (sL n) 0 0 (longDec oF 5 7 false) = true
      ∧ runs (sL n) 0 0 (longDec oF 6 8 false) = true)
    ∧ isEnd (runGranules (movbGranule 0 oL 0) 0 false 65537 0 false (ax (sL 100))) = true
    ∧ isEnd (runGranules (fillGranule 0 oF 0) 0 false 65537 0 false (ax (sL 100))) = true
    ∧ isEnd (runGranules (crcGranule 0 oF 0) 0 false 101 0 false (ax (sL 100))) = true
    ∧ isOk (segLoad (sL 100) 0 0 2 5 61 false) = true ∧ isOk (segStore (sL 100) 0 0 1 0x1003 (zeros 61) false) = true
    ∧ isOk (segLoad (sL 100) 0 0 1 0x1003 61 false) = true ∧ isOk (segLoad (sL 100) 0 0 2 5 2 false) = true := by decide +kernel
def oSb (a : BitVec 11) (p : BitVec 3) : LSb := { g := always, p := p, ra := 2, off := a }
def sB (l : List Nat) (x n : W64) : State :=
  { ran { ctxN with g := [(2, x), (3, n)], p := 0x06 } with spans := [(0, { Span.reset with bitsN := l, bitsS := [1, 2, 3] })] }
theorem witness_BitSpaceInstructions :
    (∀ k ∈ [0, 1, 2], runs (sB [5, 10, 20] 5 16) 0 0 (bitDec (oSb 0 0) k false) = true)
    ∧ (∀ k ∈ [3, 4, 5], runs (sB [5, 10, 20] 0x3F038 16) 0 0 (bitDec (oSb 7 2) k false) = true)
    ∧ runs (sB [0x3F03F] 11 (BitVec.allOnes 64)) 0 0 { bitDec (oSb 0 3) 6 false with group := some 9 } = true
    ∧ ((sB [5, 10, 20] 6 4).ferry 0).step = false ∧ (((sB [5, 10, 20] 6 4).span 0).bits true).Pairwise (· < ·) := by decide +kernel
def oJ (r : BitVec 5) : LA := { g := always, rd := 0, ra := r, rb := 0, f := false }
def oB (d : BitVec 22) : LB := { g := always, disp := d }
def oK (e : BitVec 12) : LBl := { g := always, ra := 2, res := 0, e := e }
def lps : List Loop := [{ start := 0x30, stop := 0x40, count := 3 }, { start := 0x10, stop := 0x80, count := 3 }]
def sC (t : W64) (l : List Loop) : State := ran { ctxN with g := [(2, t), (31, t), (32, 0x1000)], loops := l }
theorem witness_ControlTransfers :
    (∀ t : Bool, let s := sC (if t then 0x61 else 0xFFFFC) lps
      runs s 0 0 { word := wordB (oB 3) 0x14, major := 0x14, g := always } = true
      ∧ runs s 0 0 { word := wordB (oB 3) 0x15, major := 0x15, g := always } = true
      ∧ runs s 0 0 (jumpDec (oJ 2) 0 true) = true ∧ runs s 0 0 (jumpDec (oJ 0) 1 false) = true ∧ runs s 0 0 (jumpDec (oJ 2) 2 true) = true)
    ∧ runs (sC 0x100000 []) 0 0 (jumpDec (oJ 2) 0 true) = true ∧ ((sC 0 []).ctx 0).seg 0 = { ((sC 0 []).ctx 0).seg 0 with limit := 0xFFFFF }
    ∧ (raised (sC 0x61 lps) 0 0 (ax (sC 0x61 lps)) { cause := 0x08, info := 0x61, info2 := 0 } 0x40).isSome = true
    ∧ (raised (sC 0x100000 []) 0 0 (ax (sC 0x100000 [])) { cause := 0x06, info := 0x100000, info2 := 0 } 0x40).isSome = true := by
  decide +kernel
theorem witness_LoopPushesLevel :
    (∀ n ∈ [0, 3, 0xFFFFFFFF], ∀ l ∈ [[], lps, lps ++ lps, [{ start := 0x30, stop := 0x58, count := 3 }]],
      runs (sC (BitVec.ofNat 64 n) l) 0 0 { word := wordBl (oK 5) 0x17, major := 0x17, g := always, fieldBad := (oK 5).res != 0 } = true)
    ∧ (raised (sC 3 (lps ++ lps)) 0 0 (ax (sC 3 (lps ++ lps))) { cause := 0x0D, info := (wordBl (oK 5) 0x17).setWidth 64, info2 := 0 }
        0x40).isSome = true := by decide +kernel

/-! ### The same instructions on values -/

/-- LD.BS extends the sign; the next instruction does not see the load yet (R188, R219). -/
theorem test_load : Table.find (ctxAfter (.ldBs 0 oM) s1).late 4 = some (BitVec.ofInt 64 ((bytes200.getD 11 0).toInt))
    ∧ gAfter (.ldBs 0 oM) s1 4 = 0 ∧ gAfter (.nop 0 0) (after (.ldBs 0 oM) s1) 4 = BitVec.ofInt 64 ((bytes200.getD 11 0).toInt) := by
  decide +kernel
/-- ST.W stores four bytes, the least significant first (R9, R219). -/
theorem test_store : (let t := after (.stW 0 { oM with ra := 0, rd := 4 }) s3; ((List.range 6).map fun k => memGet t.mem (0x10000003 + k)))
    = [bytes200.getD 3 0, 0x11, 0x11, 0, 0, bytes200.getD 8 0] := by decide +kernel
/-- BR by displacement 3 goes 12 bytes on, and leaves the innermost loop (R187, R223). -/
theorem test_branch : (ctxAfter (.br 0 (oB 3)) (sC 0 lps)).pc = 0x4C ∧ (ctxAfter (.br 0 (oB 3)) (sC 0 lps)).loops = lps.drop 1
    ∧ gAfter (.call 0 (oB 3)) (sC 0 lps) 31 = 0x44 := by decide +kernel
/-- BSCAN finds bit 10 from 6 on, with the rest of the count; none within four bits of 11 (R194, R222). -/
theorem test_bscan : gAfter (.bscan 0 (oSb 0 2)) (sB [5, 10, 20] 6 16) 2 = 10
    ∧ gAfter (.bscan 0 (oSb 0 2)) (sB [5, 10, 20] 11 4) 2 = BitVec.allOnes 64 := by decide +kernel

/-! ### Witnesses: the system instructions -/

def oG (fn : Nat) : LA := { g := always, rd := if fn < 2 then 0 else 4, ra := if fn < 2 then 1 else 0, rb := 2, f := false }
/-- Value `v` in G1, and S2 with every field set. -/
def sS (v : W64) : State :=
  ran { ctxN with g := [(1, v), (4, 4), (32, 0x1000)],
                  segs := ctxN.segs ++ [(2, { base := 0xABCDEF012345, limit := 0x12345678, north := true, x := true, w := false, r := true })] }
theorem witness_SegmentRegisterMoves :
    (∀ k ∈ [0, 1, 2, 3], runs (sS 0x123456789ABCDE17) 0 0 (segDec (oG k) k false) = true
      ∧ ((sS 0x123456789ABCDE17).ctx 0).getG 1 = 0x123456789ABCDE17)
    ∧ (0x123456789ABCDE17 : W64).getLsbD 4 = ctxN.north ∧ (0x123456789ABCDE07 : W64).getLsbD 4 ≠ ctxN.north
    ∧ runs (sS 0x123456789ABCDE07) 0 0 (segDec (oG 1) 1 false) = true := by decide +kernel
def oR (n : BitVec 12) : LIs := { g := always, r := 4, res := 0, num := n }
def sW (v : W64) : State := { ran { ctxN with g := [(4, v), (32, 0x1000)] } with time := { up.time with count := 0x1000 } }
/-- Ferry 2 aground and selected. -/
def sAg : State :=
  { sW 1 with
    spans := [(0, { Span.reset with ferrySel := 0x12 })]
    ferries := [(0, { Ferry.reset with berth := some 0 }), (2, { Ferry.reset with agr := { AgroundRec.reset with aground := true } })] }
theorem witness_SystemRegisterReads :
    ∀ n ∈ [0, 1, 2, 3, 4, 5, 6, 7, 8, 0x10, 0x17, 0x20, 0x21, 0x30, 0x3F, 0x40, 0x41, 0x80, 0x81, 0x110, 0x200, 0x207, 0x208, 0x20F, 0x219, 0x21A],
      runs s0 0 0 (sysDec always (wordIs (oR (BitVec.ofNat 12 n)) 0x19 false) n 0) = true := by decide +kernel
theorem witness_SystemRegisterWrites :
    (∀ v ∈ [0, 999, 1000, 4000000, 8192, 8193, 0x1000, 0x1001], ∀ n ∈ [0, 1, 2, 3, 4, 5, 6, 7, 8, 0x20, 0x21, 0x80, 0x60, 0x41, 0x30, 0x3F, 0x61,
        0x100, 0x108, 0x110, 0x210], runs (sW (BitVec.ofNat 64 v)) 0 0 (sysDec always (wordIs (oR (BitVec.ofNat 12 n)) 0x19 true) n 0) = true)
    ∧ (sW 0x1000).time.count = 0x1000
    ∧ (∀ v ∈ [0, 1], ∀ n ∈ [0x004, 0x081, 0x082, 0x062],
        runs (sW (BitVec.ofNat 64 v)) 0 0 (sysDec always (wordIs (oR (BitVec.ofNat 12 n)) 0x19 true) n 0) = true)
    ∧ (let s := sAg
       (s.ferry 2).agr.aground = true ∧ (s.ferry 2).refloat = false ∧ ferryOf (16 * 0 + (s.span 0).ferrySel.toNat % 16) = 2
       ∧ runs s 0 0 (sysDec always (wordIs (oR 0x062) 0x19 true) 0x062 0) = true) := by decide +kernel
def oS0 : LS := { g := always, ra := 0, pd := 0, imm := 0 }
def oAz : LA := { g := always, rd := 0, ra := 0, rb := 0, f := false }
def oSg : LA := { g := always, rd := 4, ra := 1, rb := 0, f := false }
/-- Berth 0 running in `c`, perhaps in a gate, and Berth 5 idle in `d`. -/
def two (c d : Ctx) (gate : Option GateSave) : State :=
  { up with berths := [(0, { Berth.reset with st := .running, ctx := c, ferry := some 0, gate := gate }), (5, { Berth.reset with ctx := d })]
            ferries := [(0, { Ferry.reset with berth := some 0 })] }
def gs : GateSave := { caller := ctxN, n := 224, frame := 0x80, ticks := 5, due := false, raised := false }
theorem witness_OrderSlackYieldSignalHalt :
    (∀ k ∈ [0x01, 0x0C], runs s0 0 0 (sysS oS0 k false (k == 0x0C)) = true) ∧ runs s0 0 0 (sysS oS0 0x02 false true) = true
    ∧ s0.ports.stgWrites = [] ∧ runs s0 0 0 (sysS oS0 0x0A false true) = true ∧ runs s0 0 0 (sysS oS0 0x0B false true) = true
    ∧ (s0.ctx 0).slack = false ∧ ((s0.span 0).world true).slackLim = 2000 ∧ s0.time.lost = false
    ∧ runs (ran { ctxN with slack := true, slackRem := 7 }) 0 0 (sysS oS0 0x0A false true) = true
    ∧ (s0.berth 0).gate = none ∧ ((two ctxN ctxN (some gs)).berth 0).gate = some gs
    ∧ runs (two ctxN ctxN (some gs)) 0 0 (sysS oS0 0x0C false true) = true
    ∧ (raised (two ctxN ctxN (some gs)) 0 0 (ax (two ctxN ctxN (some gs))) { cause := 0x0F, info := 224, info2 := 4 } 0x40).isSome = true
    ∧ runs s0 0 0 (berthDec oAz 0 false) = true ∧ ((s0.ferry 0).lb true).occ = false
    ∧ (∀ h : Bool, let s := two { ctxN with g := [(1, 5)] } { ctxN with home := h } none
        runs s 0 0 (berthDec oSg 1 false) = true ∧ (s.ctx 0).getG 1 = 5 ∧ (s.ctx 5).home = h)
    ∧ runs (two { ctxN with g := [(1, 64)] } ctxN none) 0 0 (berthDec oSg 1 false) = true := by decide +kernel
/-- A staging write of Berth 0 that its port has not accepted, checked under epoch 0 where the epoch is 1. -/
def sPw : State :=
  { s0 with ports := { s0.ports with stgWrites := [{ addr := stagingBase, data := [1], span := 0, berth := 0, key := 0, epoch := 0 }] }
            spans := [(0, { Span.reset with epoch := 1, north := { WorldRegs.reset with slackLim := 0 } })] }
def sOcc : State := s0.modFerry 0 fun y => { y with lbN := { y.lbN with occ := true } }
theorem witness_OrderSlackYieldSignalHalt_waits :
    runs sPw 0 0 (sysS oS0 0x01 false false) = true ∧ runs sPw 0 0 (sysS oS0 0x02 false true) = true ∧ (∃ p ∈ (ax sPw).ports.stgWrites, p.berth = 0)
    ∧ olderAccess (ax sPw) 0 1 = true ∧ olderAccess (ax s0) 0 0 = false ∧ mayLeave s0 0 = true
    ∧ runs sPw 0 0 (sysS oS0 0x0A false true) = true ∧ ((sPw.span 0).world true).slackLim = 0
    ∧ runs sOcc 0 0 (berthDec oAz 0 false) = true ∧ ((sOcc.ferry 0).lb true).occ = true := by decide +kernel
def oW (ra : BitVec 5) (pd : BitVec 3) (imm : BitVec 8) : LS := { g := always, ra := ra, pd := pd, imm := imm }
/-- Bit 7 is set; G2 the bit, G3 the deadline. -/
def bt (m d cnt : W64) : State :=
  { ran { ctxN with g := [(2, m), (3, d)] } with spans := [(0, { Span.reset with bitsN := [7] })], time := { up.time with count := cnt } }
def grp (v : W64) : State := { s0 with hregs := [(0x010000 + 0x100 + 8 * 3, v)] }
def via (st : PairSt) : State := { s0 with via := { Viaduct.reset with role := .lead, st := st, linkUp := true } }
def viaM : State := { via .paired with hregs := [(0x300100, 1)] }
theorem witness_WaitInstructions :
    (∀ m ∈ [7, 8], runs (bt (BitVec.ofNat 64 m) 0 0) 0 0 (sysS (oW 2 0 0) 0x06 false false) = true
      ∧ (bt (BitVec.ofNat 64 m) 0 0).bit 0 true m = (m == 7)
      ∧ ∀ c ∈ [99, 100], runs (bt (BitVec.ofNat 64 m) 100 (BitVec.ofNat 64 c)) 0 0 (sysS (oW 2 1 0) 0x07 false false) = true)
    ∧ (∀ v ∈ [0, 1], runs (grp (BitVec.ofNat 64 v)) 0 0 (sysS (oW 0 1 3) 0x03 false false) = true
      ∧ ((0 : BerthNo) ∈ (episode (grp (BitVec.ofNat 64 v)) 3).members ↔ v = 1) ∧ (episode (grp (BitVec.ofNat 64 v)) 3).twin = false)
    ∧ runs (grp 1) 0 0 (sysS (oW 2 0 3) 0x04 false false) = true ∧ (0 : BerthNo) ∈ groupMembers (grp 1) 3
    ∧ (∀ s ∈ [s0, viaM, via .paired], runs s 0 0 (sysS (oW 0 1 0) 0x05 false false) = true) ∧ ckptGoes viaM 0 = true ∧ ckptGoes s0 0 = false
    ∧ s0.via.st ≠ .paired ∧ (s0.ferry 0).berth = some 0 ∧ (s0.berth 0).st = .running
    ∧ ((sOcc.ferry 0).lb true).occ = true ∧ (sOcc.berth 0).st = .running ∧ mayLeave s0 0 = true
    ∧ (let s := { grp 1 with hregs := (grp 1).hregs ++ [(gopTwin, 8)] }
       runs s 0 0 (sysS (oW 0 1 3) 0x03 false false) = true ∧ (episode s 3).twin = true ∧ (0 : BerthNo) ∈ (episode s 3).members
       ∧ s.via.st ≠ .paired
       ∧ (let t := { s with via := (via .paired).via }
          runs t 0 0 (sysS (oW 0 1 3) 0x03 false false) = true ∧ (episode t 3).twin = true ∧ t.via.hbLost = false)) := by decide +kernel
def exn (c : Nat) : Exc := { cause := c, info := 0x1122334455667788, info2 := 0x99 }
def sE : State :=
  { ran { ctxN with ie := true, dzt := true, ipl := 3, slack := true, long := true, p := 0x54, flags := fl true false true false true,
                    loops := lps, lock := some { word := 3, count := 2 }, g := [(1, 5), (32, 0x1000)] } with
    mem := memWrite [] 0x10780F00 bytes200, spans := [(0, { Span.reset with north := { WorldRegs.reset with vbar := 0x3000 } })] }
def isWait {α : Type} (r : State × FRes α) : Bool :=
  match r.2 with
  | .wait => true
  | _ => false
/-- A Berth whose supervisor stack lies below S7's offset 0, its lifeboat set free or not; and one whose frame another Berth's LOCK holds up. -/
def sEx (occ : Bool) : State := (ran { ctxN with g := [(32, 64)] }).modFerry 0 fun y => { y with lbN := { y.lbN with occ := occ } }
def sEw : State := two ctxN { ctxN with lock := some { word := 0x10780F80 / 64, count := 0 } } none
theorem witness_ExceptionEntry :
    memOk sE = true ∧ (∀ k ∈ [9, 0x20, 0x30, 0x3F], enters sE 0 0 (exn k) 0x444 = true) ∧ (sE.ctx 0).late = []
    ∧ ((sE.ctx 0).seg 7).base.toNat + (0x1000 - 128) = 0x10780F80
    ∧ (∀ occ : Bool, memOk (sEx occ) = true ∧ storeClean (sEx occ) 0 = true ∧ ((sEx occ).ferry 0).agr.aground = false
        ∧ isExc (entry (sEx occ) 0 0 (exn 9) 0x444) 0x06 = true ∧ (((sEx occ).ferry 0).lb true).occ = occ ∧ ((sEx occ).ctx 0).late = [])
    ∧ memOk sEw = true ∧ storeClean sEw 0 = true ∧ isWait (entry sEw 0 0 (exn 9) 0x444) = true := by decide +kernel
def openReg : Toll := { Toll.reset with active := [(0, { base := 0x20000, last := 0x200FF, attr := 0x843F })] }
/-- Features `f0` and `f4`, an open program store for every level and world. -/
def sF (f0 f4 : W64) (h : Ctx → Ctx) : State :=
  { ran (h ctxN) with ldr := { up.ldr with feat0 := f0, feat4 := f4 }, spans := [(0, { Span.reset with tollS := openReg, tollN := openReg })] }
def sU : State := sF (BitVec.allOnes 64) (BitVec.allOnes 64) fun c => { c with sup := false }
def sSo : State :=
  sF (BitVec.allOnes 64) (BitVec.allOnes 64) fun c =>
    { c with north := false, sup := false, segs := c.segs.map fun e => (e.1, { e.2 with north := false }) }
def faultIs (s : State) (d : Dec) (k : Nat) : Bool :=
  quiet s 0 0 && (decodeFault (atFetch s 0 0) (s.ctx 0) d).any (fun e => e.cause == k)
    && (raised s 0 0 (atFetch s 0 0) { cause := k, info := d.word.setWidth 64, info2 := 0 } 0x40).isSome
theorem witness_DecodeChecksInOrder :
    faultIs (sF 0 0 id) (aluDec oA 0x00 none false) 5 = true ∧ faultIs (sF (BitVec.allOnes 64) 0 id) (aluDec oA 0x19 (some 0) false) 5 = true
    ∧ faultIs s0 (aluDec oA 0x02 none true) 2 = true ∧ faultIs (sF 0 0 id) (decM oM 0x0C 3) 5 = true
    ∧ faultIs s0 (wideDec { oM with rd := 3 } 2 8) 2 = true ∧ faultIs sU (segDec oAz 0 false) 3 = true
    ∧ faultIs sSo (decKey oAz false 0) 4 = true ∧ faultIs sSo (decKey oAz true 8) 4 = true ∧ faultIs sU (cntDec oAz 1 7 false true) 3 = true
    ∧ faultIs s0 (cntDec { oAz with rb := 8 } 1 7 false true) 1 = true
    ∧ faultIs sU (sysS { oS0 with imm := 255 } 0x08 false true) 3 = true
    ∧ isNop 0x0FC00000 = false ∧ slotAssigned 0x0FC00000 = false
    ∧ faultIs s0 { word := 0x0FC00000, major := 0x3F, g := guardOf 0x0FC00000, cls := .alu, enumBad := true } 1 = true := by decide +kernel
/-- An exception frame with STATUS `st`, loop depth `dep` and PC `pc`. -/
def frameOf (st : W64) (dep pc : Nat) : List Byte :=
  bytesOfNat 8 pc ++ bytesOfNat 8 st.toNat ++ [0x30, 0, 0x55, 0x1B, BitVec.ofNat 8 dep, 0, 0, 0] ++ zeros 8 ++ (List.range 48).map (BitVec.ofNat 8)
    ++ zeros 48
def cR : Ctx := { ctxN with ipl := 5, g := [(30, 3), (32, 0x1000)] }
def sRt (st : W64) (dep pc : Nat) : State := { ran cR with mem := memWrite [] 0x10781000 (frameOf st dep pc) }
def stOk : W64 := (cR.status 0 ||| 0x80000) &&& ~~~(0x1F00000 : W64)
theorem witness_TrapAndReturn :
    runs s0 0 0 (sysS { oS0 with imm := 223 } 0x08 false false) = true
    ∧ (raised s0 0 0 (ax s0) { cause := 0x30, info := 223, info2 := 0 } 0x44).isSome = true
    ∧ (let s := ran { cR with gate := true }
       runs s 0 0 (sysS { oS0 with imm := 224 } 0x08 false true) = true
       ∧ (takeExc (settle (ax s) 0 []) 0 0 { cause := 0x0F, info := 224, info2 := 2 } 0x40).isSome = true)
    ∧ (∀ p ∈ [(stOk, 4, 0x200), (0, 2, 0x200), (stOk, 5, 0x201), (stOk, 0, 0x202)],
        runs (sRt p.1 p.2.1 p.2.2) 0 0 (sysS oS0 0x09 false true) = true
        ∧ isOk (segLoad (ax (sRt p.1 p.2.1 p.2.2)) 0 0 7 0x1000 128 false) = true
        ∧ (raised (sRt p.1 p.2.1 p.2.2) 0 0 (segLoad (ax (sRt p.1 p.2.1 p.2.2)) 0 0 7 0x1000 128 false).1
            { cause := 0x10, info := 0x1000, info2 := 1 } 0x40).isSome = true)
    ∧ stOk.extractLsb' 29 3 = (cR.status 0).extractLsb' 29 3 ∧ (0 : W64).extractLsb' 29 3 ≠ (cR.status 0).extractLsb' 29 3 := by decide +kernel
/-- The gates of the South bank: which are enabled, and the profile. -/
def sGt (en sp : W32) : State :=
  { ran { cR with gate := false } with
    spans := [(0, { Span.reset with
      tollS := openReg, tollN := openReg
      south := { WorldRegs.reset with
        gateEn := en, gateSp := sp
        gateSegs := [(0, { base := 0x20000000, limit := 0xFFFFF, north := false, x := true, w := false, r := true }),
                     (7, { base := 0x10000000, limit := 0x7FFFF, north := false, x := false, w := true, r := true })] } })] }
/-- A Berth in a gate whose gate frame lies at its G30. -/
def sGr : State :=
  (ran { cR with gate := true, g := [(30, 7), (32, 3)] }).modBerth 0 fun x => { x with gate := some { caller := { ctxN with pc := 0x44 }, n := 225, frame := 3, ticks := 5, due := false, raised := false } }
theorem witness_TrapAndReturn_gates :
    enters ((settle (ax s0) 0 []).modFerry 0 fun y => { y with lockWait := false }) 0 0 { cause := 0x30, info := 223, info2 := 0 } 0x44 = true
    ∧ (∀ p ∈ [(0, 0x1000), (2, 0), (2, 0x1000)], runs (sGt (BitVec.ofNat 32 p.1) (BitVec.ofNat 32 p.2)) 0 0 (sysS { oS0 with imm := 225 } 0x08 false true) = true)
    ∧ (takeExc (settle (ax (sGt 0 0x1000)) 0 []) 0 0 { cause := 0x0F, info := 225, info2 := 1 } 0x40).isSome = true
    ∧ (takeExc (settle (ax (sGt 2 0)) 0 []) 0 0 { cause := 0x0F, info := 225, info2 := 3 } 0x40).isSome = true
    ∧ (gateCall (settle (ax (sGt 2 0x1000)) 0 []) 0 0 225).1.isSome = true ∧ ((sGt 2 0x1000).ctx 0).gate = false
    ∧ (((sGt 2 0x1000).span 0).world false).gateEn.getLsbD 1 = true ∧ ((sGt 2 0x1000).ctx 0).late = []
    ∧ runs sGr 0 0 (sysS oS0 0x09 false true) = true ∧ ((sGr.berth 0).gate.map (·.frame)) = some ((sGr.ctx 0).getG 30) ∧ (sGr.ctx 0).gate = true
    ∧ (∀ s ∈ [s0, sRt stOk 4 0x200], (s.berth 0).gate = none) := by decide +kernel
/-- A descriptor at 0x1000_0080 with done bit 10. -/
def sI : State :=
  { ran { ctxN with g := [(1, 64)] } with mem := memWrite [] 0x10000080 (overlay (zeros 64) 28 (bytesOfNat 4 21))
                                          spans := [(0, { Span.reset with bitsN := [20] })] }
def oD : LM := { g := always, rd := 3, ra := 1, sa := 1, disp := 1 }
theorem witness_IssueAcceptsJob :
    isOk (readDesc (ax sI) 0 0 oD) = true ∧ (∀ e, openJobs (((readDesc (ax sI) 0 0 oD).1.span 0).unit e) 0 < 4)
    ∧ (∀ m ∈ [0x20, 0x21, 0x22, 0x23, 0x1C], ∀ k ∈ [0, 1], runs sI 0 0 { word := wordM oD m k, major := m, g := always } = true) := by
  refine ⟨by decide +kernel, fun e => by cases e <;> decide +kernel, by decide +kernel⟩
/-- The same issue with four jobs open at each unit; at an address that is no multiple of 64; and in the local data. -/
def sI4 : State :=
  { sI with spans := [(0, { (sI.span 0) with units := (List.range 5).map fun k =>
      (k, { UnitSched.reset with jobs := (List.range 4).map fun q =>
        { berth := 0, north := true, sup := true, desc := zeros 64, geos := [], seq := q, started := false, await := none, prog := none, touched := [] } }) })] }
theorem witness_IssueAcceptsJob_more :
    isOk (readDesc (ax sI4) 0 0 oD) = true ∧ (∀ e ∈ [Engine.truss, .sealU, .cmpr, .hash, .tender], 4 ≤ openJobs (((readDesc (ax sI4) 0 0 oD).1.span 0).unit e) 0)
    ∧ (∀ m ∈ [0x20, 0x21, 0x22, 0x23, 0x1C], ∀ k ∈ [0, 1], runs sI4 0 0 { word := wordM oD m k, major := m, g := always } = true)
    ∧ ((((ax s1).ctx 0).seg 1).base.setWidth 64 + ((s1.ctx 0).getG 1 + 64)).toNat % 64 ≠ 0
    ∧ (∀ p ∈ [(1, 0x10000080), (2, 0x80)], (match segCheck ((ax sI).ctx 0) p.1 0x80 64 .r with | .ok a => a == p.2 | _ => false) = true
        ∧ inPontoon 0 p.2 = (p.1 == 1) ∧ p.2 % 64 = 0)
    ∧ (gateOnce (ax sI) (ferAcc (ax sI) 0 0 false) 0 false .read 0x10000080 64).2 = none
    ∧ (piecesFault (ax sI) (ferAcc (ax sI) 0 0 false) false (wordsOf 3 0x10000080 64)).2 = none ∧ (ax sI).ports.stgWrites = [] := by decide +kernel
def oRn : LA := { g := always, rd := 3, ra := 0, rb := 2, f := false }
def sD (st : DrbgSt) : State :=
  { ran { ctxN with g := [(2, 5)] } with ent := { Entropy.reset with st := st, key := zeros 32, v := zeros 16 } }
def drew (r : State × Draw) : Bool :=
  match r.2 with
  | .ok [_] => true
  | _ => false
def oP : LA := { g := always, rd := 3, ra := 1, rb := 2, f := false }
def sP (a v : W64) : State := { ran { ctxN with g := [(1, a), (2, v)] } with mem := memWrite [] 0x10000000 bytes200 }
def vv (len kind port : Nat) : Nat := len * 2 ^ 32 + port * 16 + kind
def gotN (r : State × FRes (List Byte)) (n : Nat) : Bool :=
  match r.2 with
  | .ok l => l.length == n
  | _ => false
theorem witness_RandomAndPost :
    (∀ st ∈ [DrbgSt.running, .stopped, .locked, .starting],
      runs (sD st) 0 0 { word := wordA oRn 0x26 0, major := 0x26, g := always, fieldBad := false } = true)
    ∧ drew (draws (ax (sD .running)) 0 [8]) = true ∧ (sD .running).ent.waits = [] ∧ (sD .running).ent.served < 1048576
    ∧ (∀ p ∈ [(0, vv 10 1 1), (0, vv 10 5 1), (0x10000001, vv 10 2 1), (0x10800000, vv 10 4 1), (0x10000000, vv 65473 2 1),
        (0x107FFFC0, vv 1 2 1), (0x10000000, vv 10 2 1 + 64), (0x10000040, vv 100 2 3)],
      runs (sP (BitVec.ofNat 64 p.1) (BitVec.ofNat 64 p.2)) 0 0 (berthDec oP 2 false) = true)
    ∧ (let s := { sD .running with ent := { (sD .running).ent with served := 1048576, seed := none } }
       runs s 0 0 { word := wordA oRn 0x26 0, major := 0x26, g := always, fieldBad := false } = true ∧ s.ent.waits = [])
    ∧ gotN (ferRead (ax (sP 0x10000040 (BitVec.ofNat 64 (vv 100 2 3)))) 0 0 false .read 0x10000040 164) 164 = true := by decide +kernel
def oC (k rd ra : BitVec 5) : LA := { g := always, rd := rd, ra := ra, rb := k, f := false }
theorem witness_CounterInstructions :
    (∀ k ∈ [0, 7, 8], runs s0 0 0 (cntDec (oC (BitVec.ofNat 5 k) 3 0) 0 8 false false) = true)
    ∧ (∀ k ∈ [0, 7], runs s0 0 0 (cntDec (oC (BitVec.ofNat 5 k) 0 1) 1 7 false true) = true
      ∧ runs s0 0 0 (cntDec (oC (BitVec.ofNat 5 k) 3 0) 2 7 false true) = true
      ∧ runs s0 0 0 (cntDec (oC (BitVec.ofNat 5 k) 0 1) 3 7 false true) = true)
    ∧ (∀ k ∈ [0, 15], runs s0 0 0 (cntDec (oC (BitVec.ofNat 5 k) 0 0) 4 15 false true) = true
      ∧ runs s0 0 0 (cntDec (oC (BitVec.ofNat 5 k) 0 0) 5 15 false true) = true) := by decide +kernel

/-- TRAP 7 enters at VBAR + 0x30 × 64 with the next PC in the frame (R212, R250). -/
theorem test_trap : (ctxAfter (.trap 0 { oS0 with imm := 7 }) s0).pc = 0xC00
    ∧ natOfBytes (memRead (after (.trap 0 { oS0 with imm := 7 }) s0).mem 0x10780F80 4) = 0x44
    ∧ memGet (after (.trap 0 { oS0 with imm := 7 }) s0).mem 0x10780F90 = 0x30 := by decide +kernel
/-- KEY in the South bank at user level raises 0x04, not 0x03 (R209). -/
theorem test_key_south : (decodeFault sSo (sSo.ctx 0) (decKey oAz false 0)).map (·.cause) = some 0x04 := by decide +kernel
/-- STATUS shows world, home and level (R237). -/
theorem test_status : gAfter (.mfsr 0 (oR 0)) s0 4 = 0xC1000000 := by decide +kernel
/-- POST of a kind that cannot be sent answers 1, and of a payload over 65,472 bytes 3 (R233). -/
theorem test_post : gAfter (.post 0 oP true) (sP 0 (BitVec.ofNat 64 (vv 10 1 1))) 3 = 1
    ∧ gAfter (.post 0 oP true) (sP 0x10000000 (BitVec.ofNat 64 (vv 65473 2 1))) 3 = 3 := by decide +kernel

/-! ### Witnesses: keys, scheduling, time and waits -/

def regs (l : List (Nat × W64)) : List (Nat × W64) := l ++ [(32, 0x1000)]
def ks (k : Nat) (id : W64) (key : List Byte) : KeySlot := { KeySlot.empty with st := .loaded, kind := k, keyId := id, key := key, inst := 3 }
def k32 (n : Nat) : List Byte := (List.range 32).map fun j => BitVec.ofNat 8 (j * n + 1)
def t0 : Ticket := { slot := 9, inst := 3, berth := 0, mask := 0x3F, expiry := 0, gen := 4 }
/-- Slot 0 holds the storage root key, slots 9 and 12 keys, slot 10 an erasure record; ticket 1 is live. -/
def kst : Keystone :=
  { up.keys with
    slots := [(0, ks 1 0 (k32 3)), (2, ks 7 0 (k32 21)), (3, ks 7 0 (k32 22)), (9, ks 2 0x55 (k32 7)),
              (10, { KeySlot.empty with erec := some (0x99, 4) }), (12, ks 6 1 (k32 9 ++ k32 11))]
    tickets := [(1, t0)], gens := [(1, 4), (2, 0x3FFFF)], nonce := some [1, 2, 3, 4] }
def drb : Entropy := { Entropy.reset with st := .running, key := zeros 32, v := zeros 16 }
def sKg (l : List (Nat × W64)) : State := { ran { ctxN with g := regs l } with keys := kst, ent := drb }
def keyOn (l : List (Nat × W64)) (fn : Nat) : Bool := runs (sKg l) 0 0 (decKey oAz false fn)
def pkOn (l : List (Nat × W64)) (fn : Nat) : Bool := runs (sKg l) 0 0 (decKey oAz true fn)

theorem witness_KeyOperations :
    (sKg []).via.role = .none ∧ (sKg []).lc.state = 1
    ∧ (∀ n ∈ [0, 8, 4095, 4096], keyOn [(2, BitVec.ofNat 64 n), (3, 0x10000000)] 0 = true ∧ keyOn [(2, BitVec.ofNat 64 n), (3, 0x10000000)] 1 = true)
    ∧ slotLoaded (sKg []) 0 = true ∧ ioPassed (keyRead (ax (sKg [])) 0 0x10000000 80) = true ∧ ((sKg []).slot 8).st = .empty
    ∧ keyOn [(2, 9), (3, 0x10000000)] 2 = true ∧ ((sKg []).slot 9).st = .loaded ∧ ((sKg []).slot 9).kind = 2
    ∧ ioPassed (keyWrite (ax (sKg [])) 0 0x10000000 (zeros 80)) = true
    ∧ keyOn [(2, 8), (3, 2), (4, 7)] 3 = true ∧ drewOk (draws (ax (sKg [])) 0 [32]) = true ∧ (sKg []).ent.waits = [] ∧ (sKg []).ent.served + 2 ≤ 1048576
    ∧ keyOn [(2, 9)] 4 = true ∧ keyOn [(2, 9), (3, 1023), (4, 0x3F), (5, 0)] 5 = true
    ∧ Table.has (sKg []).keys.tickets 3 = false ∧ Table.get 0 (sKg []).keys.gens 3 < 0x3FFFF
    ∧ (∀ k ∈ [6, 7], ∀ n ∈ [0x10001, 0x5555], keyOn [(2, BitVec.ofNat 64 n)] k = true)
    ∧ liveTicket (sKg []) 0x10001 = some t0 ∧ liveTicket (sKg []) 0x5555 = none
    ∧ (sKg []).time.count.toNat < 5 ∧ keyOn [(2, 9), (3, 1023), (4, 0x3F), (5, 5)] 5 = true := by decide +kernel
/-- The identity in the making: slots 2 and 3 are empty. -/
def sKi : State := { ran { ctxN with g := regs [(2, 2), (3, 7), (4, 0x77)] } with ent := drb }
theorem witness_KeyOperations_identity :
    runs sKi 0 0 (decKey oAz false 3) = true ∧ (sKi.slot 2).st = .empty ∧ (sKi.slot 3).st = .empty ∧ sKi.via.role = .none ∧ sKi.lc.state = 1
    ∧ sKi.ent.waits = [] ∧ drewOk (draws (ax sKi) 0 [32, 64]) = true := by decide +kernel
/-- The state in which a PK operation of Berth 0 has joined its engine, with none before it. -/
def pkx : State := pkJoin (ax (sKg [])) 0
/-- Another Berth's PK operation is there first. -/
def sKb : State :=
  { sKg [] with keys := { kst with pkQueue := [some 5] }
                berths := (sKg []).berths ++ [(5, { Berth.reset with st := .waiting, ctx := ctxN, wait := .key (.drbg true 5) })] }
theorem witness_PublicKeyOperations_behind :
    (∀ k ∈ [0, 1, 2, 3, 4, 5, 6, 7, 8], pkBehind pkx 0 k = false) ∧ drewOk (draws pkx 0 [64]) = true
    ∧ drewOk (draws pkx 0 [32, 64]) = true ∧ (sKg []).ent.waits = [] ∧ runs sKb 0 0 (decKey oAz true 7) = true
    ∧ pkBehind (pkJoin (ax sKb) 0) 0 7 = true := by decide +kernel
theorem witness_PublicKeyOperations :
    (∀ k ∈ [0, 1, 2, 3, 4, 5, 6, 7, 8], pkOn [(2, 8), (3, 0x10000000), (4, 16777217)] k = true)
    ∧ hasIdentity s0 = false ∧ hasIdentity (sKg []) = true ∧ (s0.lc.state = 1)
    ∧ (∀ k ∈ [0, 1, 2], runs s0 0 0 (decKey oAz true k) = true)
    ∧ ioPassed (keyWrite pkx 0 0x10000000 (zeros 2049)) = true ∧ keyAddrOk pkx 0 0x10000000 3584 = true
    ∧ ioPassed (keyRead pkx 0 0x10000000 128) = true ∧ needsNonce (sKg []) = false
    ∧ ((sKg []).slot 10).st = .empty ∧ ((sKg []).slot 10).erec = some (0x99, 4)
    ∧ ioPassed (keyReads pkx 0 [(0x10000000, 1952), (0x10001000, 5), (0x10002000, 3309), (0x10003000, 255)]) = true
    ∧ ioPassed (keyReads pkx 0 [(0x10000000, 97), (0x10001000, 5), (0x10002000, 96)]) = true
    ∧ ((sKg []).slot 8).st = .empty ∧ ((sKg []).slot 12).st = .loaded ∧ ((sKg []).slot 12).kind = 6 := by decide +kernel
def sKc : State :=
  { sKg [] with
    berths := [(0, { Berth.reset with st := .waiting, ctx := { ctxN with g := regs [(30, 9), (1, 1)] },
                                      wait := .key (.done [(1, 7), (2, 8), (30, 5), (0, 4)]) })]
    ferries := [], spans := [(0, { Span.reset with ready := [(3, [3])] })] }
theorem witness_KeyOperationCompletes :
    (sKc.berth 0).wait = .key (.done [(1, 7), (2, 8), (30, 5), (0, 4)]) ∧ (sKc.berth 0).st = .waiting ∧ (sKc.berth 0).cmd = none
    ∧ ([(1, 7), (2, 8), (30, 5), (0, (4 : W64))].map fun e => (sKc.ctx 0).key e.1).Nodup ∧ (sKc.ctx 0).loops = [] := by decide +kernel
/-- Ready queues, Berths and Ferries of Span 0. -/
def sQ (q : Table (List BerthNo)) (l : Table Berth) (m : Table Ferry) : State :=
  { up with spans := [(0, { Span.reset with ready := q })], berths := l, ferries := m }
def full16 : State :=
  sQ [(1, [20])] ((List.range 16).map fun k => (k, { Berth.reset with st := .running, ferry := some (ferryOf k), heldSince := 100 - k }))
    ((List.range 16).map fun k => (k, { Ferry.reset with berth := some (berthOf k) }))
theorem witness_PilotPlacesAndPreempts :
    (let s := sQ [(1, [20, 21]), (2, [7])] [(0, { Berth.reset with st := .running, ferry := some 0 })] [(0, { Ferry.reset with berth := some 0 })]
     s.power.st = .underWay ∧ s.power.target = none ∧ s.ldr.state = 5 ∧ s.tamper.hold = false ∧ (s.span 0).pilotFault = false
     ∧ ferryFree s 1 = true ∧ ferryFree s 0 = false ∧ readyQ s 0 1 = [20, 21] ∧ readyQ s 0 0 = [])
    ∧ (∀ g : FerryNo, ferrySpan g = 0 → ferryFree full16 g = false) ∧ (∀ v ∈ runningOf full16 0, (full16.berth v).switchReq = false)
    ∧ (3 : BerthNo) ∈ runningOf full16 0
    ∧ storeClean s0 1 = true ∧ noVector s0 1 0 = true ∧ 1 ∈ ((s0.modFerry 1 fun y => { y with cs := { y.cs with poison := [1] } }).ferry 1).cs.poison := by
  decide +kernel
theorem witness_QuantumAndSwitchOut :
    (let s := { s0 with spans := [(0, { Span.reset with ready := [(3, [7])] })] }.modBerth 0 fun x => { x with quantum := 20000 }
     (s.ferry 0).berth = some 0 ∧ (s.hreg 0x010800).toNat % 2 ^ 32 ≤ (s.berth 0).quantum ∧ (s.span 0).pilotFault = false)
    ∧ (∀ d : Option BerthSt, d = some .parked ∨ d = some .idle ∨ d = none → ∀ q : Bool,
      let s := s0.modBerth 0 fun x => { x with cmd := d, switchReq := q }
      (s.berth 0).wait = .none ∧ (s.berth 0).cmd = d ∧ (s.berth 0).switchReq = q ∧ (s.ferry 0).step = false)
    ∧ atBoundary s0 0 0 true = true ∧ mayLeave s0 0 = true ∧ offered s0 0 false = none ∧ postponed s0 0 = false
    ∧ atBoundary (s0.modBerth 0 fun x => { x with cmd := some .parked, switchReq := true }) 0 0 true = true := by
  refine ⟨by decide +kernel, fun d _ q => ⟨rfl, rfl, rfl, rfl⟩, by decide +kernel, by decide +kernel, by decide +kernel, by decide +kernel,
    by decide +kernel⟩
def cI : Ctx := { ctxN with ie := true, intPend := 0x2A, intRoute := 0x521436 }
theorem witness_BoundaryExceptions :
    (s0.ferry 0).berth = some 0 ∧ (∀ c ∈ [ctxN, cI, { cI with ipl := 4 }, { cI with ipl := 5 }, { cI with wdogPend := true }],
      atBoundary (ran c) 0 0 false = true)
    ∧ pendLevel cI = 5 ∧ (offered (ran cI) 0 false).isSome = true ∧ (offered (ran { cI with ipl := 5 }) 0 false) = none
    ∧ ((takeOffered ((ran cI).modFerry 0 fun y => { y with skipBrk := false, step := false, stepMask := false }) 0 0
        { cause := 0x25, info := 0x2A, info2 := 0 }).isSome = true)
    ∧ (let x := (ran cI).modFerry 0 fun y => { y with skipBrk := false, step := false, stepMask := false }
       let e : Exc := { cause := 0x25, info := 0x2A, info2 := 0 }
       enters (offerTaken (abandonRoutine x 0 0) 0 e) 0 0 e 0x40 = true) := by decide +kernel
def onF (h : Ferry → Ferry) (s : State) : State := s.modFerry 0 h
def agF : AgroundRec := { AgroundRec.reset with aground := true, cause := 0x1A }
theorem witness_HaltsAndRefloats :
    (∀ b : Option BerthNo, b = none ∨ b = some 0 →
      let s := onF (fun y => { y with halt := .halting, berth := b }) (ran { ctxN with late := [(4, 4)] })
      (s.ferry 0).halt = .halting ∧ (s.ferry 0).agr.aground = false ∧ (s.ferry 0).refloat = false ∧ (s.ferry 0).step = false
      ∧ (s.ferry 0).berth = b ∧ (s.ctx 0).lock = none ∧ (s.berth 0).wait = .none)
    ∧ haltsBerth (onF (fun y => { y with halt := .halting }) s0) 0 = true
    ∧ (let s := onF (fun y => { y with refloat := true, agr := agF, cs := { CStore.reset with spares := [9] }, berth := none }) s0
       (s.ferry 0).refloat = true ∧ testsRun s = true ∧ s.tamper.hold = false ∧ (s.ferry 15).agr.aground = false ∧ (s.ferry 15).refloat = false
       ∧ (s.ferry 0).cs.spares.length + [3].length ≤ 2)
    ∧ (let s := { up with ferries := (List.range 16).map fun k => (k, { Ferry.reset with agr := agF, refloat := k == 0 }) }
       (s.ferry 0).refloat = true ∧ testsRun s = true
       ∧ ∀ g, ferrySpan g = ferrySpan 0 → g ≠ 0 → (s.ferry g).agr.aground = true ∨ (s.ferry g).refloat = true) := by
  refine ⟨fun b _ => ⟨rfl, rfl, rfl, rfl, rfl, rfl, rfl⟩, by decide +kernel, by decide +kernel, by decide +kernel⟩
def gsv (t : Nat) (r : Bool) : GateSave := { caller := ctxN, n := 224, frame := 0x80, ticks := t, due := false, raised := r }
def cs : Ctx := { ctxN with slack := true, slackRem := 50, wdogLim := 1000, wdogRem := 60, timerArmed := true, timerCmp := 200 }
def sT (c : Ctx) (g : Option GateSave) : State :=
  { ran c with
    berths := [(0, { Berth.reset with st := .running, ctx := c, ferry := some 0, gate := g })]
    time := { up.time with count := 100 } }
theorem witness_TicksRunOut :
    ((sT cs none).ctx 0).slack = true ∧ ((sT cs none).ctx 0).wdogLim ≠ 0 ∧ ((sT cs none).ctx 0).wdogPend = false
    ∧ ((sT cs none).ctx 0).timerArmed = true ∧ ((sT cs none).ctx 0).timerCmp = 200 ∧ (sT cs none).time.count = 100
    ∧ ((sT cs none).berth 0).st = .running ∧ onHalted (sT cs none) ((sT cs none).berth 0) = false ∧ (sT cs none).power.st = .underWay
    ∧ (∀ r : Bool, ((sT ctxN (some (gsv 900 r))).berth 0).gate = some (gsv 900 r))
    ∧ (((sT ctxN none).span 0).world true).gateLim.toNat = 100000 ∧ ((sT { cs with timerCmp := 100 } none).ctx 0).timerCmp = 100 := by
  decide +kernel
def sWt (c : Ctx) (w : Wait) (bits : List Nat) : State :=
  { up with
    berths := [(0, { Berth.reset with st := .waiting, ctx := c, wait := w })]
    spans := [(0, { Span.reset with bitsN := bits, ready := [(3, [7])] })]
    time := { up.time with count := 100 } }
def barr (t : Bool) (m : List BerthNo) : State :=
  { sWt ctxN (.bar 3 2 none) [] with barriers := [(3, { members := m, twin := t, arrived := [0] })] }
theorem witness_WaitsEnd :
    (∀ w ∈ [Wait.bit 5, .unit .truss 5, .bitT 5 100 3], ((sWt ctxN w [5]).berth 0).st = .waiting ∧ ((sWt ctxN w [5]).berth 0).cmd = none
      ∧ ((sWt ctxN w [5]).berth 0).wait = w ∧ (sWt ctxN w [5]).bit 0 true 5 = true)
    ∧ (sWt ctxN (.bitT 5 100 3) []).time.count.toNat = 100 ∧ (sWt cI (.bit 5) []).bit 0 true 5 = false ∧ takeable cI = true
    ∧ (∀ t : Bool, Table.find (barr t [0]).barriers 3 = some { members := [0], twin := t, arrived := [0] }
      ∧ ((barr t [0]).berth 0).wait = .bar 3 2 none)
    ∧ Table.find (barr true [0, 7]).barriers 3 = some { members := [0, 7], twin := true, arrived := [0] }
    ∧ (∀ s ∈ [s0, sPw], let t := s.modBerth 0 fun x => { x with wait := .fence 1 }
        (t.berth 0).st = .running ∧ (t.berth 0).wait = .fence 1 ∧ olderAccess t 0 1 = (s == sPw)) := by decide +kernel
/-- Bytes that are all zero make the number 0. -/
theorem natOfBytes_replicate (n : Nat) : natOfBytes (List.replicate n 0) = 0 := by
  induction n with
  | zero => rfl
  | succ n ih => rw [List.replicate_succ, natOfBytes, ih]; rfl
/-- A polynomial unpacked from zeros is below the modulus. -/
theorem unpack_zeros (n j k : Nat) : ((unpackBits 12 ((List.replicate n (0 : Byte)).drop j)).all fun x => x < k + 1) = true := by
  have z : natOfBytes (((List.replicate n (0 : Byte)).drop j).take (32 * 12)) = 0 := by
    rw [List.drop_replicate, List.take_replicate]; exact natOfBytes_replicate _
  unfold unpackBits
  rw [z, Array.all_eq_true]
  intro i hi
  simp
/-- A key of zeros passes the modulus check. -/
theorem zero_key_valid (n : Nat) (h : n = 1568) : mlkemEkValid (List.replicate n 0) = true := by
  subst h
  unfold mlkemEkValid kemVec12
  rw [Bool.and_eq_true, List.length_replicate, List.all_map]
  exact ⟨rfl, List.all_eq_true.mpr fun i _ => unpack_zeros 1568 (384 * i) 3328⟩
theorem witness_PublicKeyOperations_keys :
    mlkemEkValid (List.replicate 1568 0) = true ∧ mlkemEkValid (List.replicate 1568 255) = false
    ∧ (ecPoint (ecBytes (0xAA87CA22BE8B05378EB1C71EF320AD746E1D3B628BA79B9859F741E082542A385502F25DBF55296C3A545E3872760AB7,
        0x3617DE4A96262C6F5D9E98BF9292DC29F8F41DBD289A147CE9DA3113B5F0B8C00A60B1CE1D7E819D7A431D7C90EA0E5F))).isSome = true :=
  ⟨zero_key_valid 1568 rfl, by decide +kernel, by decide +kernel⟩

/-! ### Witnesses: unit jobs, memory events, frames -/

def descOf (op rc : Nat) (l : List (Nat × List Byte)) : List Byte :=
  l.foldl (fun d e => overlay d e.1 e.2) (overlay (overlay (zeros 64) 0 (bytesOfNat 2 op)) 28 (bytesOfNat 4 20 ++ bytesOfNat 8 rc))
def mkJ (op rc : Nat) (l : List (Nat × List Byte)) : Job :=
  { berth := 0, north := true, sup := true, desc := descOf op rc l, geos := [[], []], seq := 0, started := true, await := none
    prog := none, touched := [] }
/-- The jobs `l`, the first of them under way at the unit of Span 0. -/
def wjs (e : Engine) (l : List Job) (m : List Host.Cell) (g : Table (List Byte)) : State :=
  { up with
    mem := m, berths := [(0, { Berth.reset with st := .ready, ctx := ctxN })]
    spans := [(0, { Span.reset with geos := g }.modUnit e fun u => { u with jobs := l, nextSeq := 9, current := [(0, ((l.head?.map Job.seq).getD 0))] })] }
def wj (e : Engine) (j : Job) (m : List Host.Cell) (g : Table (List Byte)) : State := wjs e [j] m g
def picked (e : Engine) (op : Nat) (j : Job) (m : List Host.Cell) (g : Table (List Byte)) : Bool := pickJob (wj e j m g) e 0 op == some j
def put300 : List Host.Cell := memWrite [] 0x10002000 ((List.range 300).map fun k => BitVec.ofNat 8 (k * 37 + 131))
def jCopy : Job := mkJ 0x10 0x10001000 [(8, bytesOfNat 8 0x10002003), (16, bytesOfNat 8 0x10003001), (24, bytesOfNat 4 100)]
def jSend : Job := mkJ 0x20 0x10001000 [(8, bytesOfNat 8 0x10002000), (24, bytesOfNat 4 100)]
/-- A later job of the same Berth, of class `c`, and a job of the next Berth. -/
def later (b : BerthNo) (c n : Nat) (j : Job) : Job :=
  { j with berth := b, desc := overlay j.desc 3 (bytesOfNat 1 c), seq := n, started := false }
/-- Berth 1 holds the word at `a` by LOCK. -/
def lockAt (a : Nat) (s : State) : State :=
  { s with berths := s.berths ++ [(1, { Berth.reset with st := .ready, ctx := { ctxN with lock := some { word := a / 64, count := 7 } } })] }
/-- How work stops: 0 with a status, 1 to wait for its frames, 2 to wait for an access, 3 at a boundary. -/
def stopKind (r : Except Stop Unit × JobRun) : Nat :=
  match r.1 with
  | .ok _ => 0
  | .error (.status _ _) => 0
  | .error (.await _ _) => 1
  | .error .wait => 2
  | .error .pause => 3
def kindOf (r : Instr) : Option JobKind := (jobKinds 0).find? fun k => k.row == r
/-- The row takes `j` at `s`; how its work stops, whether the record's address is good, and how the record's write ends. -/
def comesTo (r : Instr) (s : State) (j : Job) : Option (Nat × Bool × Nat) :=
  (kindOf r).bind fun k =>
    if unitsRun s && pickJob s k.e 0 k.op == some j then
      let w := workOf k j s
      let st := (stopStatus w).getD (9, 9)
      some (stopKind w, w.2.recOk, match (physWrite (spent w.2.s k.e j w.2.credit) (jobAcc k.e j) false (j.fld 32 8)
          (recordBytes st.1 st.2 w.2.mid w.2.clamps)).2 with
        | .ok _ => 0
        | .error .wait => 1
        | .error _ => 2)
    else none
def openB (s : State) (j : Job) : Bool := openBefore ((s.span 0).unit .tender) j
def jWaits : Job := { mkJ 0x20 0x10001020 [] with await := some ⟨0, 0, zeros 26, 0, true, false⟩ }
theorem witness_JobRowsComplete :
    pickJob up .truss 0 0 = none ∧ unitsRun up = true ∧ unitsRun State.reset = false
    ∧ comesTo (.trussNop 0) (wj .truss (mkJ 0 0x10001000 []) put300 []) (mkJ 0 0x10001000 []) = some (0, true, 0)
    ∧ comesTo (.cmprNop 0) (wj .cmpr (mkJ 0 0x10001001 []) put300 []) (mkJ 0 0x10001001 []) = some (0, false, 0)
    ∧ comesTo (.copy 0) (wj .tender jCopy put300 []) jCopy = some (0, true, 0) ∧ openB (wj .tender jCopy put300 []) jCopy = false
    ∧ comesTo (.copy 0) (wjs .tender [{ jCopy with seq := 1 }, jWaits] put300 []) { jCopy with seq := 1 } = some (0, true, 0)
    ∧ openB (wjs .tender [{ jCopy with seq := 1 }, jWaits] put300 []) { jCopy with seq := 1 } = true
    ∧ comesTo (.copy 0) (lockAt 0x10001000 (wj .tender jCopy put300 [])) jCopy = some (0, true, 1)
    ∧ comesTo (.landSend 0) (wj .tender jSend put300 []) jSend = some (1, true, 0)
    ∧ comesTo (.copy 0) (lockAt 0x10002040 (wj .tender jCopy put300 [])) jCopy = some (2, true, 0)
    ∧ comesTo (.copy 0) (wjs .tender [jCopy, later 1 0 1 jCopy] put300 []) jCopy = some (3, true, 0) := by decide +kernel
/-- A geometry descriptor of id 5 that passes every check, and one whose second check fails. -/
def geo : List Byte :=
  bytesOfNat 2 5 ++ bytesOfNat 2 4 ++ [2, 1] ++ bytesOfNat 2 7 ++ bytesOfNat 2 9 ++ zeros 6 ++ ([2, 2] ++ zeros 62)
    ++ (bytesOfNat 2 1 ++ bytesOfNat 2 2 ++ zeros 124) ++ zeros 48
def jGeo (op : Nat) : Job := mkJ op 0x10001000 [(8, bytesOfNat 8 0x10002000), (16, bytesOfNat 8 0x10003000), (60, bytesOfNat 2 5)]
def gotJob (r : State × Except AccFail (List Byte)) (d : List Byte) : Bool :=
  match r.2 with
  | .ok l => l == d
  | _ => false
def wrote (r : State × Except AccFail Unit) : Bool :=
  match r.2 with
  | .ok _ => true
  | _ => false
theorem witness_NopAndGeometryJobs :
    (∀ e ∈ [Engine.truss, .sealU, .cmpr, .hash, .tender], picked e 0 (mkJ 0 0x10001000 []) [] [] = true)
    ∧ (mkJ 0 0x10001000 []).fld 32 8 = 0x10001000 ∧ (mkJ 0 0x10001000 []).fld 3 1 ≤ 3 ∧ (mkJ 0 0x10001000 []).fld 40 4 ≤ 2097152
    ∧ inPon 0 0x10001000 32 = true ∧ inOpen 0 0x10001000 32 = true ∧ (jGeo 1).fld 0 2 = 1 ∧ (jGeo 1).prog = none
    ∧ picked .truss 1 (jGeo 1) (memWrite [] 0x10002000 geo) [] = true ∧ trussAddr (wj .truss (jGeo 1) [] []) (jGeo 1) 64 0x10002000 256 = true
    ∧ gotJob (physRead (wj .truss (jGeo 1) (memWrite [] 0x10002000 geo) []) (jobAcc .truss (jGeo 1)) 0x10002000 256) geo = true
    ∧ (∀ x ∈ geoFields geo, x.2.2.1 ≤ fieldAt geo x.1 x.2.1 ∧ fieldAt geo x.1 x.2.1 ≤ x.2.2.2)
    ∧ geoBad geo = none ∧ geoBad (overlay geo 6 (bytesOfNat 2 8)) ≠ none
    ∧ picked .truss 2 (jGeo 2) [] [(5, geo)] = true ∧ picked .truss 2 (jGeo 2) [] [(6, geo)] = true ∧ picked .truss 3 (jGeo 3) [] [(5, geo)] = true
    ∧ trussAddr (wj .truss (jGeo 3) [] [(5, geo)]) (jGeo 3) 64 0x10003000 256 = true
    ∧ wrote (physWrite (wj .truss (jGeo 3) [] [(5, geo)]) (jobAcc .truss (jGeo 3)) false 0x10003000 geo) = true := by
  decide +kernel
def ran1 (e : Engine) (m : JobM Unit) (s : State) (j : Job) (mid : List Byte) : Bool :=
  match goOn s e j mid m none with
  | (.ok _, w) => !w.loose
  | _ => false
def jHash (fl : Nat) : Job :=
  mkJ 0x10 0x10001000 [(2, [BitVec.ofNat 8 fl]), (4, bytesOfNat 4 0x600000), (8, bytesOfNat 8 0x10002000), (16, bytesOfNat 8 0x10001800),
    (24, bytesOfNat 4 3)]
def sJ : State := { up with mem := put300 }
/-- That Span with the Hash stream of operation 0x10 open. -/
def sJ1 : State :=
  { sJ with spans := [(0, { Span.reset with hashes := [(0x10600000, { op := 0x10, msg := [1], key := [], custom := [], damaged := false })] })] }
def tbl (l : List Nat) : List Byte := l.flatMap (bytesOfNat 8)
theorem witness_CopyHashEncodeContents :
    memOk sJ = true ∧ memOk sJ1 = true ∧ ran1 .tender (copyJob jCopy) sJ jCopy (zeros 26) = true ∧ jobOp .tender jCopy = 0x10
    ∧ sJ.ports.stgWrites = [] ∧ (∀ p, flagAt sJ.ports.stgRst p = false)
    ∧ ran1 .hash (hashJob (jHash 0x20)) sJ (jHash 0x20) (zeros 26) = true ∧ ran1 .hash (hashJob (jHash 0)) sJ1 (jHash 0) (zeros 26) = true
    ∧ (jHash 0x20).flag 5 = true ∧ (jHash 0x20).flag 6 = false ∧ (jHash 0).flag 4 = false ∧ jobOp .hash (jHash 0) ≠ 0 := by
  refine ⟨?_, ?_, ?_, ?_, rfl, fun _ => rfl, ?_, ?_, ?_⟩ <;> decide +kernel
theorem witness_CopyHashEncodeContents_digest :
    ran1 .hash (hashJob (jHash 0x30)) sJ (jHash 0x30) (zeros 26) = true ∧ (jHash 0x30).flag 4 = true := by decide +kernel
/-- Span 0 with two jobs of unit `e` that wait, of Berths 0 and 5, and its Pontoon out of spares. -/
def uj (e : Engine) : State :=
  { up with spans := [(0, { Span.reset with pon := { PonTest.reset with next := 8191, spares := List.range 64 } }.modUnit e fun u =>
      { u with jobs := [{ mkJ 0 0 [] with started := false, seq := 4 }, { mkJ 0 0 [] with started := false, seq := 5, berth := 5 }], nextSeq := 6 })] }
/-- A full encoding of one row of four data columns and two parities. -/
def jEnc : Job :=
  { mkJ 0x10 0x10001000 [(8, bytesOfNat 8 0x10580000), (16, bytesOfNat 8 0x10590000), (24, bytesOfNat 4 1), (60, bytesOfNat 2 5)] with
    geos := [geo, []] }
def sEnc : State :=
  { up with mem := memWrite (memWrite [] 0x10580000 (tbl [0x10002000, 0x10004000, 0x10006000, 0x10003000, 0, 0, 0])) 0x10590000
                     (tbl [0, 0, 0, 0, 0x10010000, 0, 0x10014000]) }
theorem witness_CopyHashEncodeContents_encode :
    ran1 .truss (encFull jEnc) sEnc jEnc trussMid = true ∧ 1 ≤ jobRows jEnc ∧ memOk sEnc = true := by decide +kernel
/-- A meeting of a read or write with another access. -/
def met (w o : Bool) (f : Option Bool) : Meeting := { write := w, other := o, first := f, bytes := 9 }
def row0 : RowTest := { fail := false, hits := [(3, 7)] }
/-- A copy that moves 100 bytes has one boundary: how many it passes first is free, and it stops there or at its end. -/
def sTwo : State := wjs .tender [{ jCopy with desc := overlay jCopy.desc 3 [3] }, later 0 0 1 jCopy] put300 []
def jOld : Job := { jCopy with desc := overlay jCopy.desc 3 [3] }
/-- Two errors in the word of one copy of the Pilot's store: it cannot be read. -/
def badCopy : CStore := { CStore.reset with flips := [(3, [1, 2])] }
def pil (a b : CStore) : State := { up with spans := [(0, { Span.reset with cs0 := a, cs1 := b })] }
theorem witness_MemoryAndUnitEvents :
    meetsBusy .gangway (met false true (some false)) = true ∧ meetsBusy .gangway (met false true (some true)) = false
    ∧ meetsBusy .viaduct (met true true none) = true ∧ meetsBusy (.engine 0 .truss) (met true true none) = false
    ∧ 4 ≤ Table.get 0 { Ports.reset with busy := [(3, 4)] }.busy 3 ∧ inAnyPontoon 0x10000000 = true ∧ inAnyPontoon 0x17FFFFFF = true
    ∧ flagAt up.ports.stgRst 11 = false ∧ up.portsUp = true ∧ flagAt { Ports.reset with stgRst := [(11, true)] }.stgRst 11 = true ∧ State.reset.portsUp = true
    ∧ testsRun up = true ∧ ((up.span 0).pon.shadow = none) ∧ fld (up.hreg (spanOff 0 0x900)) 31 0 ≠ 0 ∧ ((uj .truss).span 0).pon.spares.length = 64
    ∧ ((uj .truss).span 0).pon.next < 8192 ∧ (up.span 0).pon.spares.length < 64
    ∧ heldByOther up none 0x10000000 1024 = false ∧ heldByOther (lockAt 0x10000040 up) none 0x10000000 1024 = true
    ∧ Table.get 0 up.errs (errKey 0 0 0) < 2 ^ 16 ∧ ticking up = true
    ∧ up.ldr.state = 5 ∧ refloating up = false ∧ (up.ferry 0).cs.shadow = none
    ∧ (up.span 0).cs1.shadow = none ∧ (up.span 0).cs0.shadow = none ∧ unitsRun up = true ∧ unitsRun State.reset = false
    ∧ ((pil badCopy badCopy).span 0).cs0.unreadable 3 = true ∧ ((pilotReads (pil badCopy badCopy) 0 3).span 0).pilotFault = true
    ∧ ((pil CStore.reset badCopy).span 0).cs1.unreadable 3 = true ∧ ((pil CStore.reset badCopy).span 0).cs0.unreadable 3 = false
    ∧ nextJob .truss ((up.span 0).unit .truss) 0 = none ∧ (nextJob .truss (((uj .truss).span 0).unit .truss) 0).isSome = true
    ∧ onPipe (((uj .truss).span 0).unit .truss) 0 = none
    ∧ onPipe (((wj .tender jCopy [] []).span 0).unit .tender) 0 = some jCopy
    ∧ overtaken .tender (((wj .tender jCopy [] []).span 0).unit .tender) jCopy = false
    ∧ othersWait .tender (((wj .tender jCopy [] []).span 0).unit .tender) jCopy = false
    ∧ onPipe ((sTwo.span 0).unit .tender) 0 = some jOld ∧ overtaken .tender ((sTwo.span 0).unit .tender) jOld = true := by decide +kernel
/-- A copy of the Pilot's store with no wrong bit has every word. -/
theorem witness_MemoryAndUnitEvents_store :
    ∀ w, (cstoreRow CStore.reset 32 { row0 with hits := [] } 7).1.unreadable w = false ∧ CStore.reset.unreadable w = false := by
  intro w; exact ⟨rfl, rfl⟩
/-- What the job that is overtaken has reached at its boundary. -/
def atBound (r : JobRun) : Bool :=
  match r.base with
  | (_, some p, _) => p.parts.isEmpty
  | _ => false
set_option maxRecDepth 100000 in
theorem passes_bound (n : Nat) : (let r := advance sTwo.drawn .tender jOld (some (n + 1)); pauses r = false) := by
  cbv
theorem stops_at_bound : (let r := advance sTwo.drawn .tender jOld (some 0); pauses r = true ∧ atBound r.2 = true) := by decide +kernel
theorem witness_MemoryAndUnitEvents_aside : ∃ w v p c, toBoundary sTwo .tender jOld = some w ∧ w.base = (v, some p, c) ∧ p.parts = []
    ∧ (writeArea v .tender jOld (saveArea .tender).1 (saveArea .tender).2 p.next).2 = .ok () := by
  obtain ⟨h1, h2⟩ := stops_at_bound
  have h3 : ∃ w, toBoundary sTwo .tender jOld = some w ∧ atBound w = true := by
    unfold toBoundary
    rcases sTwo.freeWord.toNat % 2 ^ 21 with _ | n
    · exact ⟨_, by simp only [h1, if_true], h2⟩
    · exact ⟨_, by simp only [passes_bound n, h1, if_true, Bool.false_eq_true, if_false], h2⟩
  obtain ⟨w, hw, hb⟩ := h3
  unfold atBound at hb
  split at hb
  · rename_i p _ hp
    exact ⟨w, _, _, _, hw, hp, by simpa using hb, rfl⟩
  · simp at hb
/-- The bytes of a Landing frame of length field `n` and `k` beats. -/
def fb (n k : Nat) : List Byte := bytesOfNat 4 n ++ (List.range (64 * k - 4)).map fun j => BitVec.ofNat 8 (j * 3 + 1)
def sLf (h : Berth → Berth) : State :=
  { up with
    hregs := [(0x100008, 0x400)]
    berths := [(0, h { Berth.reset with st := .ready, ctx := ctxN, granted := 1000000, prod := 0x100 })] }
/-- The ring's last 64 bytes are left, and the first of them is not zero. -/
def sLw : State := { sLf (fun x => { x with prod := 5 * 65536 - 64 }) with mem := [(ringBase (sLf id) 0 + 5 * 65536 - 64, 1)] }
/-- How a record is filed: 0 in the ring, 1 refused, 2 waiting. -/
def filed (s : State) (l : List Byte) (space : Nat) : Nat :=
  match fileRecord s 0 l space with
  | (_, .ok) => 0
  | (_, .refused) => 1
  | (_, .wait) => 2
def held0 (h : HeldCmd) : State := { sLf id with ports := { Ports.reset with held := [h] } }
/-- A Tollgate in which one region of the North world bars every landing. -/
def barred (s : State) : State :=
  s.modSpan 0 fun x => { x with tollN := { Toll.reset with active := [(0, { base := 0, last := 0xFFFFFFFFF, attr := 0x9000 })] } }
theorem witness_LandingFrames :
    (∀ d ∈ [0, 1000000 - 192], landingRuns (sLf fun x => { x with received := d }) = true) ∧ flagAt (sLf id).ports.landRst 1 = false
    ∧ landingRuns { up with tamper := { up.tamper with hold := true } } = false
    ∧ (∀ p < 4, laneHeld (sLf id) p = false) ∧ laneHeld (held0 (.landing 1 0 2 [])) 1 = true
    ∧ (sLf id).ldr.state = 5 ∧ ((sLf id).span 0).pilotFault = false ∧ ringQ (sLf id) 0 ≠ 0 ∧ ringQ up 0 = 0 ∧ landingRuns up = true
    ∧ (let s := { sLf id with ldr := { up.ldr with state := 1, dma := true } }
       landingRuns s = true ∧ s.ldr.state ≠ 5)
    ∧ memOk (sLf id) = true ∧ filed (sLf id) (fb 100 3) 192 = 0 ∧ ringSize (sLf id) 0 = 5 * 65536
    ∧ filed (lockAt (ringBase (sLf id) 0 + 0x100) (sLf id)) (fb 100 3) 192 = 2 ∧ filed (barred (sLf id)) (fb 100 3) 192 = 1
    ∧ filed sLw (fb 100 3) 192 = 0 ∧ filed sLw (fb 0 1) 64 = 0 ∧ memOk sLw = true
    ∧ heldByOther (sLf id) none (ringBase (sLf id) 0) (ringSize (sLf id) 0) = false
    ∧ Table.get 0 (sLf id).ports.busy (busyKey (landAcc (sLf id) 0)) < 4 := by decide +kernel
def of1 : OutFrame := { beats := zeros 64, kind := 2, dest := 0, job := none, span := 0 }
def crd (h : Berth → Berth) (c : W64) (o : List OutFrame) : State :=
  { up with
    hregs := [(0x010808, 0x0014), (0x100008, 0x400), (0x100010, c)]
    berths := [(0, h { Berth.reset with st := .ready, ctx := ctxN })]
    ports := { Ports.reset with landOut := [(1, o)], slipOut := [(1, o)] } }
/-- A Tender job that waits for its last frame. -/
def jT : Job := { mkJ 0x20 0x10001000 [] with seq := 4, await := some ⟨0, 0, zeros 26, 0, true, false⟩ }
def sOut : State :=
  { crd id 0x30200 [{ of1 with job := some (0, 4) }] with
    spans := [(0, Span.reset.modUnit .tender fun u => { u with jobs := [jT], nextSeq := 5 })] }
theorem witness_CreditAndOutboundFrames :
    (let s := crd id 0x30200 [of1]
     landingRuns s = true ∧ s.ldr.state = 5 ∧ (s.span 0).pilotFault = false ∧ grantAble s 0 = true ∧ grantNext s 0 = some 0 ∧ 1 ≤ grantWant s 0
     ∧ grantAble s 1 = false ∧ s.portsUp = true ∧ flagAt s.ports.landRst 1 = false ∧ flagAt s.ports.slipRst 1 = false
     ∧ Table.get [] s.ports.slipOut 1 = of1 :: [] ∧ Table.get [] s.ports.landOut 0 = [])
    ∧ flagAt { Ports.reset with landRst := [(1, true)] }.landRst 1 = true
    ∧ (let s := crd (fun x => { x with granted := 65536, received := 66000, consumed := 0 }) 0x30200 []
       grantAble s 0 = true ∧ grantNext s 0 = none)
    ∧ (((sOut.span 0).unit .tender).jobs.find? fun j => j.seq == 4 && j.await.isSome) = some jT := by decide +kernel
/-- Session 5 on port 1, owner bit `own`, its window and the bytes left. -/
def ssl (own win left : Nat) (h : Berth → Berth) (ring : W64) : State :=
  { up with
    hregs := [(0x100008, ring), (0x1080A0, BitVec.ofNat 64 (2 ^ 63 + 2 ^ 40 + own * 2 ^ 42)), (0x1080A8, BitVec.ofNat 64 win),
              (0x1080B0, BitVec.ofNat 64 left), (0x700000, 1)]
    berths := [(0, h { Berth.reset with st := .ready, ctx := ctxN })] }
def sf (ty n : Nat) : List Byte := BitVec.ofNat 8 ty :: (List.range (n - 1)).map fun j => BitVec.ofNat 8 (j * 3 + 1)
/-- How the data of a frame reach the window of session 5: 0 written, 1 refused, 2 waiting. -/
def windowed (s : State) : Nat :=
  match (landWrites s (landAcc s (sessBerth s 5)) [(0x010000000000, (sf 0x46 204).drop 4)]).2 with
  | none => 0
  | some .wait => 2
  | some _ => 1
theorem witness_SlipwayFrames :
    (∀ r ∈ [(1, sf 0x01 28), (1, sf 0x05 28), (1, sf 0x07 28), (2, sf 0x34 20), (3, sf 0x46 204), (2, sf 0x46 204)],
      slipReceivable r.1 r.2 = true)
    ∧ slipReceivable 1 (sf 0x33 28) = false
    ∧ (∀ k ∈ [199, 200, 400], let s := ssl 1 0x010000000000 k id 0x400
       landingRuns s = true ∧ flagAt s.ports.slipRst 1 = false ∧ s.ldr.state = 5 ∧ (s.span (berthSpan (sessBerth s 5))).pilotFault = false
       ∧ laneHeld s 5 = false ∧ sessionOk s 5 1 = true ∧ s.inStaging (fld (s.hreg 0x1080A8) 47 0) = true ∧ fld (s.hreg 0x1080B0) 31 0 = k
       ∧ windowed s = 0)
    ∧ windowed (lockAt 0x010000000040 (ssl 1 0x010000000000 400 id 0x400)) = 2
    ∧ windowed (barred (ssl 1 0x010000000000 400 id 0x400)) = 1
    ∧ laneHeld (held0 (.slip 1 5 1 [])) 5 = true
    ∧ sessionOk (ssl 0 0 0 id 0x400) 5 1 = false ∧ ringQ (ssl 1 0 0 id 0) (sessBerth (ssl 1 0 0 id 0) 5) = 0
    ∧ (let s := ssl 1 0 0 (fun x => { x with received := 5 * 65536 - 192 }) 0x400
       (s.berth (sessBerth s 5)).received - (s.berth (sessBerth s 5)).consumed + 128 < ringSize s (sessBerth s 5))
    ∧ (let s := ssl 1 0 0 (fun x => { x with received := 5 * 65536 - 128 }) 0x400
       ringSize s (sessBerth s 5) ≤ (s.berth (sessBerth s 5)).received - (s.berth (sessBerth s 5)).consumed + 128)
    ∧ filed (ssl 1 0 0 id 0x400) (zeros 128) 128 = 0
    ∧ filed (lockAt (ringBase (sLf id) 0) (ssl 1 0 0 id 0x400)) (zeros 128) 128 = 2
    ∧ filed (barred (ssl 1 0 0 id 0x400)) (zeros 128) 128 = 1 := by decide +kernel

/-! ### Witnesses: the Viaduct -/

/-- A pairing in role `r` and state `st` with its link keys, epoch 5 and next sequence 7; channel 5 has a window of 8,320 bytes. -/
def lnk (r : Role) (st : PairSt) : State :=
  { up with
    keys := { up.keys with slots := [(0, ks 1 0 (k32 3)), (4, ks 4 0 (k32 41)), (5, ks 4 0 (k32 43)), (6, ks 4 0 (k32 45))] }
    via := { Viaduct.reset with role := r, st := st, linkUp := true, epoch := 5, rxSeq := 7, txSeq := 9, transcript := k32 7 }
    hregs := [(0x700000, 1), (0x3030A0, BitVec.ofNat 64 (2 ^ 63)), (0x3030A8, 0x010000000000), (0x3030B0, 8320)]
    berths := [(0, Berth.reset)] }
def withVia (s : State) (h : Viaduct → Viaduct) : State := { s with via := h s.via }
/-- The 32 header bytes of a frame of type `ty` with `n` payload bytes. -/
def hdr32 (s : State) (ty prot n : Nat) : List Byte :=
  bytesOfNat 2 0x5644 ++ bytesOfNat 1 ty ++ bytesOfNat 1 prot ++ bytesOfNat 4 n ++ bytesOfNat 8 s.via.rxSeq ++ bytesOfNat 4 s.via.epoch.toNat
    ++ zeros 4 ++ padTo 8 (s.via.transcript.take 8)
/-- A protected frame as the other side of the pairing sends it, and its encrypted payload. -/
def sealedBy (s : State) (ty : Nat) (l : List Byte) : List Byte × List Byte :=
  gcmEnc (linkKey s (viaRxSlot s)) (viaIv s.via.rxSeq) (hdr32 s ty 1 l.length) l
def sealedH (s : State) (ty : Nat) (l : List Byte) : ViaHeader :=
  { damaged := false, hdr := hdr32 s ty 1 l.length ++ zeros 96, trailer := (sealedBy s ty l).2 ++ zeros 112 }
def sealedB (s : State) (ty : Nat) (l : List Byte) : List Byte := (sealedBy s ty l).1
/-- The header of a frame of type `ty` with `n` payload bytes says so. -/
def carried (s : State) (ty n : Nat) : Bool :=
  let h := hdr32 s ty 1 n ++ zeros 96
  n ≤ 8192 && h.length == 128 && fieldAt h 0 2 == 0x5644 && fieldAt h 2 1 == ty && fieldAt h 3 1 == 1 && fieldAt h 4 4 == n
    && fieldAt h 8 8 == s.via.rxSeq && fieldAt h 20 4 == 0 && (h.drop 32).all (· == 0)
    && (h.drop 24).take 8 == padTo 8 (s.via.transcript.take 8) && h.take 32 == hdr32 s ty 1 n
/-- The link carries such a frame, and its type is one that this role receives. -/
def carries (s : State) (ty n : Nat) : Bool :=
  s.portsUp && viaLive s && !laneHeld s 8 && (s.via.st == .syncing || s.via.st == .paired || s.via.st == .detaching) && viaTypeOk s.via.role ty
    && fieldAt (hdr32 s ty 1 n ++ zeros 96) 16 4 ≤ s.via.epoch.toNat && carried s ty n
theorem iv_length (s : State) : (viaIv s.via.rxSeq).length = 12 := by simp [viaIv, zeros, bytesOfNat_length]
theorem sealed_opens (s : State) (ty : Nat) (l : List Byte) (h : carried s ty l.length = true) :
    viaHeaderOk (sealedH s ty l) (sealedB s ty l) = true ∧ viaProt (sealedH s ty l) = true ∧ viaType (sealedH s ty l) = ty
    ∧ fieldAt (sealedH s ty l).hdr 8 8 = s.via.rxSeq ∧ viaOpen s (sealedH s ty l) (sealedB s ty l) = some l
    ∧ pairIdOk s (sealedH s ty l) = true := by
  obtain ⟨g1, g2, g3⟩ := gcmDec_gcmEnc (linkKey s (viaRxSlot s)) (viaIv s.via.rxSeq) (hdr32 s ty 1 l.length) l (iv_length s)
  have ht : (sealedH s ty l).trailer.take 16 = (sealedBy s ty l).2 := List.take_left' g2
  have hd : (sealedH s ty l).trailer.drop 16 = zeros 112 := List.drop_left' g2
  have hl : (sealedH s ty l).trailer.length = 128 := by
    show ((sealedBy s ty l).2 ++ zeros 112).length = 128
    rw [List.length_append, show (sealedBy s ty l).2.length = 16 from g2]; rfl
  have hb : (sealedB s ty l).length = l.length := g1
  simp only [carried, Bool.and_eq_true, beq_iff_eq, decide_eq_true_eq] at h
  obtain ⟨⟨⟨⟨⟨⟨⟨⟨⟨⟨h4, h6⟩, h7⟩, h8⟩, h9⟩, h10⟩, h11⟩, h13⟩, h14⟩, h15⟩, h16⟩ := h
  have e : (sealedH s ty l).hdr = hdr32 s ty 1 l.length ++ zeros 96 := rfl
  refine ⟨?_, ?_, ?_, ?_, ?_, ?_⟩
  · simp only [viaHeaderOk, e, hb, hd, hl, Bool.and_eq_true, beq_iff_eq, decide_eq_true_eq]
    exact ⟨⟨⟨⟨⟨⟨⟨⟨⟨rfl, h6⟩, h7⟩, by rw [h9]; decide⟩, h10⟩, h4⟩, h13⟩, h14⟩, trivial⟩, by decide⟩
  · simp only [viaProt, e, h9, beq_self_eq_true]
  · simp only [viaType, e, h8]
  · rw [e, h11]
  · unfold viaOpen
    rw [ht, e, h11, h16]
    exact g3
  · simp only [pairIdOk, e, h15, beq_self_eq_true]
theorem sealed_passes (s : State) (ty n : Nat) (l : List Byte) (hn : l.length = n) (h : carries s ty n = true) :
    viaPasses s ty (sealedH s ty l) (sealedB s ty l) l := by
  subst hn
  simp only [carries, Bool.and_eq_true, Bool.or_eq_true, beq_iff_eq, decide_eq_true_eq, Bool.not_eq_true'] at h
  obtain ⟨⟨⟨⟨⟨⟨h1, h2⟩, h0⟩, h3⟩, h5⟩, h12⟩, h6⟩ := h
  obtain ⟨g1, g2, g3, g4, g5, g6⟩ := sealed_opens s ty l h6
  exact ⟨h1, h2, h0, or_assoc.1 h3, g1, g2, g3, g4, g5, g6, h5, fun _ => h12⟩
/-- The same frame with every byte of its tag changed. -/
def forgedH (s : State) (ty : Nat) (l : List Byte) : ViaHeader :=
  { sealedH s ty l with trailer := (sealedBy s ty l).2.map (· ^^^ 1) ++ zeros 112 }
theorem byte_flip : ∀ b : Byte, ¬ b = b ^^^ 1 := by decide +kernel
theorem forged_fails (s : State) (ty : Nat) (l : List Byte) (h : carried s ty l.length = true) :
    viaHeaderOk (forgedH s ty l) (sealedB s ty l) = true ∧ viaOpen s (forgedH s ty l) (sealedB s ty l) = none := by
  obtain ⟨g1, _, _, g4, _, _⟩ := sealed_opens s ty l h
  have g2 : (sealedBy s ty l).2.length = 16 := (gcmDec_gcmEnc _ _ _ l (iv_length s)).2.1
  have gm : ((sealedBy s ty l).2.map (· ^^^ (1 : Byte))).length = 16 := by rw [List.length_map, g2]
  have ht : (forgedH s ty l).trailer.take 16 = (sealedBy s ty l).2.map (· ^^^ 1) := List.take_left' gm
  have hd : (forgedH s ty l).trailer.drop 16 = zeros 112 := List.drop_left' gm
  have hl : (forgedH s ty l).trailer.length = 128 := by
    show ((sealedBy s ty l).2.map (· ^^^ (1 : Byte)) ++ zeros 112).length = 128
    rw [List.length_append, gm]; rfl
  have e : (forgedH s ty l).hdr = (sealedH s ty l).hdr := rfl
  have ed : (forgedH s ty l).damaged = (sealedH s ty l).damaged := rfl
  refine ⟨?_, ?_⟩
  · simp only [viaHeaderOk, Bool.and_eq_true] at g1 ⊢
    rw [e, ed, hl, hd]
    exact ⟨⟨g1.1.1, by decide⟩, by decide⟩
  · unfold viaOpen gcmDec
    have h16 : (hdr32 s ty 1 l.length ++ zeros 96).take 32 = hdr32 s ty 1 l.length := by
      simp only [carried, Bool.and_eq_true, beq_iff_eq] at h; exact h.2
    rw [ht, e, g4, show (sealedH s ty l).hdr = hdr32 s ty 1 l.length ++ zeros 96 from rfl, h16]
    apply if_neg
    rw [gm]
    intro hc
    have hg : gcmTag (aesRoundKeys (linkKey s (viaRxSlot s))) (viaIv s.via.rxSeq) (hdr32 s ty 1 l.length) (sealedB s ty l)
        = (sealedBy s ty l).2 := rfl
    rw [hg, List.take_of_length_le (by omega)] at hc
    cases hx : (sealedBy s ty l).2 with
    | nil => rw [hx] at g2; simp at g2
    | cons b t =>
      rw [hx, List.map_cons, List.cons.injEq] at hc
      exact byte_flip b hc.1
/-- The counting of a frame reads only how long it is. -/
theorem viaTaken_sealed (s : State) (ty : Nat) (l : List Byte) : viaTaken s (sealedB s ty l) = viaTaken s l := by
  have : (sealedB s ty l).length = l.length := (gcmDec_gcmEnc _ _ _ l (iv_length s)).1
  simp only [viaTaken, viaCounted, this]

/-- A frame that is not protected. -/
def plainH (s : State) (ty n : Nat) : ViaHeader := { damaged := false, hdr := hdr32 s ty 0 n ++ zeros 96, trailer := zeros 128 }

/-! #### Pairing -/

/-- A block that is pairing in role `r`, with ephemeral slots 8 and 9. -/
def pairing (r : Role) (h : Viaduct → Viaduct) : State :=
  { up with
    keys := { up.keys with slots := [(2, ks 7 0 (k32 21)), (3, ks 7 0 (k32 22)), (8, ks 6 1 (zeros 64)), (9, ks 6 2 (zeros 64))] }
    via := h { Viaduct.reset with role := r, st := .pairing, linkUp := true, epoch := 5, eslot := 8, helloOwn := [1] } }
/-- A HELLO payload of version `ver`, role `r`, epoch `ep`, `n` bytes long, whose point is the generator. -/
def helloOf (ver r ep n : Nat) : List Byte :=
  (bytesOfNat 4 ver ++ bytesOfNat 1 r ++ zeros 3 ++ bytesOfNat 4 ep ++ zeros 1956 ++ ecBytes (pGx, pGy)).take n
/-- The fingerprint registers that hold a hash, plus `d` in each. -/
def fingers (m : List Byte) (d : Nat) : Table W64 :=
  (List.range 4).map fun i => (0x300020 + 8 * i, BitVec.ofNat 64 (natOfBytes (((sha3_256 m).drop (8 * i)).take 8) + d))
def fingered (s : State) (m : List Byte) (d : Nat) : State := { s with hregs := fingers m d }
def fingerOf (s : State) : List Byte := (List.range 4).flatMap fun i => bytesOfNat 8 (s.hreg (0x300020 + 8 * i)).toNat
theorem foldl_size (f : Array W64 → Nat → Array W64) (hf : ∀ a r, (f a r).size = 25) (l : List Nat) (a : Array W64) (h : l ≠ []) :
    (l.foldl f a).size = 25 := by
  induction l generalizing a with
  | nil => exact absurd rfl h
  | cons x l ih =>
    cases l with
    | nil => exact hf _ _
    | cons y l => exact ih _ (by simp)
theorem keccakF_size (s : Array W64) : (keccakF s).size = 25 :=
  foldl_size keccakRound (fun a r => by simp [keccakRound]) _ s (by decide)
theorem sha3_256_length (m : List Byte) : (sha3_256 m).length = 32 := by
  have ha : ∀ (bs : List (List Byte)) (a : Array W64), a.size = 25 → (keccakAbsorb a bs).size = 25 := by
    intro bs
    induction bs with
    | nil => intro a h; exact h
    | cons b bs ih => intro a _; exact ih _ (keccakF_size _)
  have hb : ∀ l : List W64, (l.flatMap fun w => bytesOfNat 8 w.toNat).length = 8 * l.length := by
    intro l
    induction l with
    | nil => rfl
    | cons w l ih => rw [List.flatMap_cons, List.length_append, bytesOfNat_length, ih, List.length_cons]; omega
  simp only [sha3_256, sponge, keccakSqueeze, List.length_take, List.length_append, keccakBytes, hb, Array.length_toList,
    ha _ (Array.replicate 25 0) rfl]
  omega
theorem natOfBytes_lt (l : List Byte) : natOfBytes l < 256 ^ l.length := by
  induction l with
  | nil => decide
  | cons b l ih =>
    have := b.isLt
    simp only [natOfBytes, List.length_cons, Nat.pow_succ]
    omega
theorem bytesOfNat_natOfBytes (l : List Byte) : bytesOfNat l.length (natOfBytes l) = l := by
  induction l with
  | nil => rfl
  | cons b l ih =>
    have hb := b.isLt
    have e : natOfBytes (b :: l) = b.toNat + 256 * natOfBytes l := rfl
    simp only [List.length_cons, bytesOfNat, e]
    rw [show (b.toNat + 256 * natOfBytes l) / 256 = natOfBytes l by omega, ih]
    congr 1
    apply BitVec.eq_of_toNat_eq
    rw [BitVec.toNat_ofNat]
    omega
theorem four_pieces (l : List Byte) (h : l.length = 32) :
    l.take 8 ++ ((l.drop 8).take 8 ++ ((l.drop 16).take 8 ++ (l.drop 24).take 8)) = l := by
  have e3 : (l.drop 24).take 8 = l.drop 24 := List.take_of_length_le (by rw [List.length_drop]; omega)
  rw [e3]
  rw [show l.drop 24 = (l.drop 16).drop 8 by rw [List.drop_drop], List.take_append_drop,
    show l.drop 16 = (l.drop 8).drop 8 by rw [List.drop_drop], List.take_append_drop, List.take_append_drop]
theorem piece (l : List Byte) (h : l.length = 8) : bytesOfNat 8 (BitVec.ofNat 64 (natOfBytes l) : W64).toNat = l := by
  have h1 := natOfBytes_lt l
  rw [h] at h1
  have h2 : natOfBytes l < 2 ^ 64 := Nat.lt_of_lt_of_eq h1 (by decide)
  rw [BitVec.toNat_ofNat, Nat.mod_eq_of_lt h2, ← h, bytesOfNat_natOfBytes]
theorem finger_is (s : State) (m : List Byte) : fingerOf (fingered s m 0) = sha3_256 m := by
  have hl := sha3_256_length m
  have h : fingerOf (fingered s m 0) = bytesOfNat 8 (BitVec.ofNat 64 (natOfBytes ((sha3_256 m).take 8)) : W64).toNat
      ++ (bytesOfNat 8 (BitVec.ofNat 64 (natOfBytes (((sha3_256 m).drop 8).take 8)) : W64).toNat
      ++ (bytesOfNat 8 (BitVec.ofNat 64 (natOfBytes (((sha3_256 m).drop 16).take 8)) : W64).toNat
      ++ bytesOfNat 8 (BitVec.ofNat 64 (natOfBytes (((sha3_256 m).drop 24).take 8)) : W64).toNat)) := rfl
  rw [h, piece _ (by rw [List.length_take]; omega), piece _ (by rw [List.length_take, List.length_drop]; omega),
    piece _ (by rw [List.length_take, List.length_drop]; omega), piece _ (by rw [List.length_take, List.length_drop]; omega)]
  exact four_pieces _ hl
theorem finger_not (s : State) (m : List Byte) : fingerOf (fingered s m 1) ≠ sha3_256 m := by
  intro h
  have hl := sha3_256_length m
  have h8 : (fingerOf (fingered s m 1)).take 8 = bytesOfNat 8 (BitVec.ofNat 64 (natOfBytes ((sha3_256 m).take 8) + 1) : W64).toNat :=
    List.take_left' (bytesOfNat_length _ _)
  have ht : ((sha3_256 m).take 8).length = 8 := by rw [List.length_take]; omega
  have hb := bytesOfNat_natOfBytes ((sha3_256 m).take 8)
  have hn := natOfBytes_lt ((sha3_256 m).take 8)
  rw [h] at h8
  rw [ht] at hb hn
  have hv : ∀ v, natOfBytes (bytesOfNat 8 v) = v % 2 ^ 64 := fun v => by
    simp only [bytesOfNat, natOfBytes, BitVec.toNat_ofNat]; omega
  have h9 := congrArg natOfBytes h8
  rw [hv, BitVec.toNat_ofNat] at h9
  omega
/-- The frame comes while the block is pairing and its engines are free. -/
def opensPair (s : State) (h : ViaHeader) (body : List Byte) (ty : Nat) : Bool :=
  s.portsUp && viaLive s && !laneHeld s 8 && s.via.st == .pairing && !pkBusy s && viaHeaderOk h body && viaType h == ty && !viaProt h
/-- A Berth's key operation is still with the engines. -/
def pairBusy : State :=
  { pairing .lead id with
    keys := { (pairing .lead id).keys with pkQueue := [some 3] }
    berths := [(3, { Berth.reset with st := .waiting, wait := .key (.drbg true 0) })] }
theorem witness_PairingFrames_hello :
    (∀ r ∈ [Role.lead, .mirror], ∀ n ∈ [2064, 2065], let s := pairing r id
      opensPair s (plainH s 1 n) (helloOf 0x401 1 5 n) 1 = true ∧ s.via.helloPeer = [])
    ∧ fieldAt (helloOf 0x400 1 5 2065) 0 4 ≠ 0x401 ∧ fieldAt (helloOf 0x401 1 5 2065) 0 4 = 0x401
    ∧ fieldAt (helloOf 0x401 1 5 2065) 4 1 = roleCode (pairing .lead id).via.role
    ∧ fieldAt (helloOf 0x401 1 5 2065) 4 1 ≠ roleCode (pairing .mirror id).via.role
    ∧ fieldAt (helloOf 0x401 1 4 2065) 8 4 ≠ (pairing .mirror id).via.epoch.toNat
    ∧ fieldAt (helloOf 0x401 1 5 2065) 8 4 = (pairing .mirror id).via.epoch.toNat
    ∧ (helloOf 0x401 1 5 2064).length ≠ 2065 ∧ (helloOf 0x401 1 5 2065).length = 2065
    ∧ pairBusy.via.st = .pairing ∧ viaLive pairBusy = true ∧ laneHeld pairBusy 8 = false ∧ pkBusy pairBusy = true
    ∧ viaHeaderOk (plainH pairBusy 1 3) [] = false ∧ viaType (plainH pairBusy 1 3) = 1
    ∧ ecPoint ((helloOf 0x401 1 5 2064 ++ [0]).drop 1968) = none ∧ ecPoint ((helloOf 0x401 1 5 2065).drop 1968) ≠ none := by decide +kernel
theorem witness_PairingFrames_finger (r : Role) :
    let m := (helloOf 0x401 1 5 2065).drop 16
    sha3_256 m ≠ fingerOf (fingered (pairing r id) m 1) ∧ sha3_256 m = fingerOf (fingered (pairing r id) m 0)
    ∧ (fingered (pairing r id) m 0).via = (pairing r id).via ∧ (fingered (pairing r id) m 1).via = (pairing r id).via :=
  ⟨(finger_not _ _).symm, (finger_is _ _).symm, rfl, rfl⟩
theorem witness_PairingFrames_keys :
    (∀ n ∈ [1664, 1665], let s := pairing .mirror fun v => { v with helloPeer := [1] }
      opensPair s (plainH s 2 n) (zeros n) 2 = true ∧ s.via.helloPeer ≠ [] ∧ s.via.kex1 = [])
    ∧ (∀ n ∈ [1664, 1665], let s := pairing .lead fun v => { v with kex1 := [1] }
      opensPair s (plainH s 3 n) (zeros n) 3 = true ∧ s.via.kex1 ≠ [] ∧ s.via.kex2 = [])
    ∧ ecdhSecret (ecScalar ((pairing .lead id).keyOf 9)) ((zeros 1665).drop 1568) = none
    ∧ (∀ e ∈ [8, 4094], let s := pairing .lead fun v => { v with eslot := e, linkKeys := zeros 96 }
      s.portsUp = true ∧ viaLive s = true ∧ laneHeld s 8 = false ∧ pkBusy s = false ∧ s.via.st = .pairing ∧ s.via.linkKeys ≠ [] ∧ viaHeaderOk (plainH s 4 3405) (zeros 3405) = true
      ∧ viaType (plainH s 4 3405) = 4 ∧ 8 ≤ s.via.eslot ∧ s.via.eslot ≤ 4094) := by decide +kernel

/-! #### Frames of a pairing -/

/-- Every frame of these cases passes the checks of R377. -/
def allCarry (l : List (State × Nat × List Byte)) : Bool := l.all fun r => carries r.1 r.2.1 r.2.2.length
theorem all_pass (l : List (State × Nat × List Byte)) (h : allCarry l = true) :
    ∀ r ∈ l, viaPasses r.1 r.2.1 (sealedH r.1 r.2.1 r.2.2) (sealedB r.1 r.2.1 r.2.2) r.2.2 := fun r hr =>
  sealed_passes _ _ _ _ rfl (List.all_eq_true.1 h r hr)
def ldS := lnk .lead .paired
def miS := lnk .mirror .paired
/-- A Lead with one item in flight, whose Berth 0 waits in `w`; its Tender has the jobs `jobs`. -/
def flying (i : ViaItem) (w : Wait) (jobs : List Job) : State :=
  { withVia ldS (fun v => { v with items := [(3, i)], st := if i = .syncEnd then .syncing else .paired }) with
    berths := [(0, { Berth.reset with st := .waiting, ctx := ctxN, wait := w })]
    spans := [(0, Span.reset.modUnit .tender fun u => { u with jobs := jobs, nextSeq := 9 })] }
def viaCases : List (State × Nat × List Byte) :=
  [(miS, 0x10, []), (ldS, 0x10, []), (lnk .mirror .syncing, 0x05, []), (miS, 0x05, []), (ldS, 0x30, []), (miS, 0x30, []),
   (withVia ldS fun v => { v with st := .detaching }, 0x30, []), (ldS, 0x31, bytesOfNat 4 6), (ldS, 0x31, bytesOfNat 4 5),
   (flying (.batch 0 4 1) .none [jT], 0x11, bytesOfNat 8 3), (flying (.ckpt 0) (.ckpt 2 3 none) [], 0x11, bytesOfNat 8 3),
   (flying (.keyload 0 20 (ks 2 0x55 (k32 3))) (.key (.ack 3 [(1, 0)])) [], 0x11, bytesOfNat 8 3),
   (flying (.keyerase 0) (.key (.ack 3 [(1, 0)])) [], 0x11, bytesOfNat 8 4), (flying .syncEnd .none [], 0x11, bytesOfNat 8 3),
   (flying (.batch 0 4 1) .none [jT], 0x12, bytesOfNat 8 1 ++ [2]), (flying (.batch 0 4 1) .none [jT], 0x12, bytesOfNat 8 2 ++ [2])]
theorem witness_ViaductControlFrames :
    ∀ r ∈ viaCases, viaPasses r.1 r.2.1 (sealedH r.1 r.2.1 r.2.2) (sealedB r.1 r.2.1 r.2.2) r.2.2 := all_pass _ (by decide +kernel)
def jobWaits (s : State) : Bool :=
  match ((s.span 0).unit .tender).jobs.find? fun j => j.seq == 4 && j.await.isSome with
  | some j => j.await.isSome
  | none => false
theorem witness_ViaductControlFrames_parts :
    (∀ l ∈ [bytesOfNat 8 3, bytesOfNat 8 1 ++ [2]], let t0 := viaTaken (flying (.batch 0 4 1) .none [jT]) l
      jobWaits { t0 with via := { t0.via with items := [] } } = true ∧ jobWaits { t0 with via := { t0.via with items := [], nacks := 1 } } = true)
    ∧ (∀ st ∈ [PairSt.syncing, .paired, .detaching, .unpaired, .broken], let s := withVia (lnk .lead st) fun v => { v with epoch := 5 }
      s.portsUp = true ∧ viaLive s = true ∧ laneHeld s 8 = false ∧ s.via.st = st
      ∧ viaHeaderOk { plainH s 0x10 0 with damaged := true } [] = false ∧ viaHeaderOk (plainH s 0x10 0) [] = true ∧ viaProt (plainH s 0x10 0) = false
      ∧ s.via.epoch.toNat ≤ fieldAt (plainH s 0x10 0).hdr 16 4
      ∧ fieldAt (plainH (withVia s fun v => { v with epoch := 4 }) 0x10 0).hdr 16 4 < s.via.epoch.toNat
      ∧ (let h : ViaHeader := { plainH s 0x10 0 with hdr := hdr32 s 0x10 1 0 ++ zeros 96 }
         let h' : ViaHeader := { plainH s 0x10 0 with hdr := hdr32 (withVia s fun v => { v with rxSeq := 6, transcript := [9] }) 0x10 1 0 ++ zeros 96 }
         viaHeaderOk h [] = true ∧ viaProt h = true ∧ fieldAt h.hdr 8 8 = s.via.rxSeq ∧ viaHeaderOk h' [] = true ∧ viaProt h' = true
         ∧ fieldAt h'.hdr 8 8 ≠ s.via.rxSeq ∧ pairIdOk s h = true ∧ pairIdOk s h' = false))
    ∧ viaLive { miS with ports := { Ports.reset with vdRst := true } } = false
    ∧ laneHeld { miS with ports := { Ports.reset with held := [.via (plainH miS 0x10 0) []] } } 8 = true
    ∧ viaTypeOk .lead 0x20 = false ∧ viaTypeOk .mirror 0x12 = false
    ∧ (∀ b : BerthNo, viaMarked (lnk .mirror .syncing) b = false)
    ∧ (let s := { lnk .mirror .syncing with hregs := [(0x300100, 1)], berths := [(0, { Berth.reset with st := .ready })] }
       carries s 0x05 0 = true ∧ s.via.sync = [] ∧ viaMarked s 0 = true ∧ (s.berth 0).st ≠ .idle)
    ∧ (let s := withVia (lnk .mirror .syncing) fun v => { v with sync := [(0x24, [1])] }
       carries s 0x05 0 = true ∧ (syncApplied (viaTaken s [])).isNone = true)
    ∧ (syncApplied (viaTaken (lnk .mirror .syncing) [])).isSome = true := by decide +kernel
theorem witness_ViaductControlFrames_bad :
    (∀ r ∈ [(ldS, 0x20, zeros 8), (miS, 0x12, zeros 8)],
      viaHeaderOk (sealedH r.1 r.2.1 r.2.2) (sealedB r.1 r.2.1 r.2.2) = true ∧ viaProt (sealedH r.1 r.2.1 r.2.2) = true
      ∧ viaType (sealedH r.1 r.2.1 r.2.2) = r.2.1 ∧ fieldAt (sealedH r.1 r.2.1 r.2.2).hdr 8 8 = r.1.via.rxSeq
      ∧ viaOpen r.1 (sealedH r.1 r.2.1 r.2.2) (sealedB r.1 r.2.1 r.2.2) = some r.2.2 ∧ pairIdOk r.1 (sealedH r.1 r.2.1 r.2.2) = true)
    ∧ viaHeaderOk (forgedH ldS 0x10 []) (sealedB ldS 0x10 []) = true ∧ viaOpen ldS (forgedH ldS 0x10 []) (sealedB ldS 0x10 []) = none := by
  refine ⟨?_, forged_fails ldS 0x10 [] (by decide +kernel)⟩
  intro r hr
  have h : ∀ r ∈ [(ldS, 0x20, zeros 8), (miS, 0x12, zeros 8)], carried r.1 r.2.1 r.2.2.length = true := by decide +kernel
  exact sealed_opens _ _ _ (h r hr)

/-! #### What a Mirror does, and the link commands -/

/-- A batch record of channel `c` with `rows` cells. -/
def bat (c rows : Nat) : List Byte := overlay (zeros 128) 0 (bytesOfNat 4 0x42545754 ++ bytesOfNat 2 c ++ [0, 0] ++ bytesOfNat 4 rows)
def ckPart (part parts : Nat) (l : List Byte) : List Byte := bytesOfNat 2 0 ++ bytesOfNat 2 part ++ bytesOfNat 2 parts ++ zeros 10 ++ l
/-- A mirrored key of id 0x77 for slot 20, wrapped. -/
def keyText : List Byte := bytesOfNat 8 0x77 ++ padTo 48 (k32 3)
def keyFrame : List Byte := bytesOfNat 2 20 ++ [2] ++ zeros 5 ++ bytesOfNat 8 0x77 ++ kwWrap (k32 45) keyText
theorem keyFrame_parts : keyFrame.length = 80 ∧ kwUnwrap (miS.keyOf 6) (keyFrame.drop 16) = some keyText := by
  obtain ⟨h1, h2⟩ := kwUnwrap_kwWrap (k32 45) keyText 7 (by decide)
  have hd : keyFrame.drop 16 = kwWrap (k32 45) keyText := List.drop_left' (by decide)
  refine ⟨?_, by rw [hd]; exact h2⟩
  unfold keyFrame
  rw [List.length_append, h1]
  decide
/-- The same with the South world's regions barring every landing too. -/
def barredS (s : State) : State :=
  s.modSpan 0 fun x => { x with tollS := { Toll.reset with active := [(0, { base := 0, last := 0xFFFFFFFFF, attr := 0x9000 })] } }
def ckWin : State := { miS with hregs := (0x301000, BitVec.ofNat 64 (2 * 2 ^ 32 + 5)) :: miS.hregs }
def mirrorCases : List (State × Nat × List Byte) :=
  [(miS, 0x20, bat 5 0), (miS, 0x20, bat 5 1), (miS, 0x20, bat 5 2), (miS, 0x20, bat 5 3), (miS, 0x20, bat 6 1), (miS, 0x20, bat 64 1),
   (miS, 0x20, zeros 127), (miS, 0x21, zeros 4096),
   (withVia miS fun v => { v with batch := some (some 5, 4096, 128) }, 0x21, zeros 4096),
   (withVia miS fun v => { v with batch := some (some 5, 8192, 128) }, 0x21, zeros 4096),
   (withVia miS fun v => { v with batch := some (some 5, 4096, 128) }, 0x21, zeros 8192),
   (withVia miS fun v => { v with batch := some (none, 8192, 0) }, 0x21, zeros 8192),
   (ckWin, 0x22, ckPart 0 1 (zeros 1152)), (ckWin, 0x22, ckPart 0 2 (zeros 600)),
   (withVia ckWin fun v => { v with ckpt := some (0, 1, 2, zeros 600) }, 0x22, ckPart 1 2 (zeros 552)), (ckWin, 0x22, ckPart 0 1 (zeros 1151)),
   (miS, 0x23, zeros 16), (miS, 0x24, bytesOfNat 2 8), (miS, 0x24, bytesOfNat 2 7), (miS, 0x24, bytesOfNat 2 4096),
   (miS, 0x25, bytesOfNat 4 0x010800 ++ zeros 4 ++ bytesOfNat 8 5000), (miS, 0x25, bytesOfNat 4 0x2008 ++ zeros 12),
   (miS, 0x25, bytesOfNat 4 0x010800 ++ [1, 0, 0, 0] ++ bytesOfNat 8 5000), (miS, 0x25, bytesOfNat 4 0x300100 ++ [1, 0, 0, 0] ++ bytesOfNat 8 5000),
   (lnk .mirror .syncing, 0x23, zeros 80), (lnk .mirror .syncing, 0x24, zeros 2), (lnk .mirror .syncing, 0x25, zeros 16)]
theorem witness_MirrorDataFrames :
    (∀ r ∈ mirrorCases, viaPasses r.1 r.2.1 (sealedH r.1 r.2.1 r.2.2) (sealedB r.1 r.2.1 r.2.2) r.2.2)
    ∧ viaPasses miS 0x23 (sealedH miS 0x23 keyFrame) (sealedB miS 0x23 keyFrame) keyFrame :=
  ⟨all_pass _ (by decide +kernel), sealed_passes _ _ 80 _ keyFrame_parts.1 (by decide +kernel)⟩
/-- How a write of the Viaduct engine ends: 0 done, 1 refused or failed, 2 waiting. -/
def viaWrote (r : State × Except AccFail Unit) : Nat :=
  match r.2 with
  | .ok _ => 0
  | .error .wait => 2
  | .error _ => 1
/-- Another Berth holds the first word of channel 5's window, or the Tollgate bars it. -/
def batchAt (s : State) : Nat := viaWrote (viaWrite (viaTaken s (bat 5 1)) 0 0x010000000000 (bat 5 1))
/-- The window of Berth 0's checkpoint, as the Mirror writes it. -/
def ckptAt (s : State) : Nat :=
  viaWrote (viaWrite { viaTaken s (zeros 1168) with via := { (viaTaken s (zeros 1168)).via with ckpt := none } } 0 (ckptWindow s 0).1 (zeros 128))
theorem witness_MirrorDataFrames_batch :
    miS.via.role = .mirror ∧ miS.inStaging (fld (miS.hreg 0x3030A8) 47 0) = true ∧ fld (miS.hreg 0x3030B0) 31 0 = 128 + 4096 * 2
    ∧ tb (miS.hreg 0x3030A0) 63 = true ∧ tb (miS.hreg 0x3030C0) 63 = false ∧ tb (miS.hreg 0x303FE0) 63 = false
    ∧ (∀ k < 4, fieldAt (bat 5 k) 0 4 = 0x42545754 ∧ fieldAt (bat 5 k) 4 2 = 5 ∧ fieldAt (bat 5 k) 8 4 = k ∧ (bat 5 k).length = 128)
    ∧ fieldAt (bat 64 1) 4 2 = 64
    ∧ fld (miS.hreg 0x3030A8) 47 0 = 0x010000000000
    ∧ batchAt miS = 0 ∧ batchAt (barred (barredS miS)) = 1 ∧ batchAt (lockAt 0x010000000000 miS) = 2
    ∧ viaLive miS = true ∧ viaWrote (viaWrite (viaTaken miS (zeros 4096)) 0 0x010000000080 (zeros 4096)) = 0 := by decide +kernel
theorem witness_MirrorDataFrames_rest :
    (∀ n ∈ [600, 1152], (ckPart 0 1 (zeros n)).length = 16 + n ∧ fieldAt (ckPart 0 2 (zeros n)) 4 2 = 2 ∧ fieldAt (ckPart 1 2 (zeros n)) 2 2 = 1
      ∧ ∀ x ∈ ((ckPart 0 1 (zeros n)).drop 6).take 10, x = 0)
    ∧ (ckptWindow ckWin 0).2 = 128 ∧ (ckWin.berth 0).st = .idle
    ∧ ckptAt ckWin = 0 ∧ ckptAt (barred (barredS ckWin)) = 1 ∧ ckptAt (lockAt (ckptWindow ckWin 0).1 ckWin) = 2
    ∧ (mirrorSrc miS 0x010800).isSome = true ∧ (mirrorSrc miS 0x300100).isNone = true
    ∧ kwUnwrap (miS.keyOf 6) ((zeros 16).drop 16) = none
    ∧ fieldAt keyFrame 0 2 = 20 ∧ fieldAt keyFrame 2 1 = 2 ∧ fieldAt keyFrame 3 5 = 0 ∧ (miS.slot 20).st = .empty
    ∧ natOfBytes (keyText.take 8) = fieldAt keyFrame 8 8
    ∧ mirroredReg 0x010800 = true ∧ regExists 0x010800 = true ∧ mirroredReg 0x2008 = false := by decide +kernel
/-- A block that may pair, its command argument naming epoch 5 and ephemeral slot 8. -/
def pairable : State :=
  { up with
    keys := { up.keys with slots := [(2, ks 7 0 (k32 21)), (3, ks 7 0 (k32 22)), (8, ks 6 1 (zeros 64)), (9, ks 6 2 (zeros 64))] }
    via := { Viaduct.reset with linkUp := true }
    hregs := [(0x300008, BitVec.ofNat 64 (5 * 2 ^ 32 + 8 * 2 ^ 16))] }
theorem witness_ViaductCommandsAndTime_pair :
    pairable.hostUp = true ∧ pairable.ports.cpRst = false ∧ pairRefusal pairable true = none ∧ pairRefusal pairable false = none
    ∧ pairRefusal { pairable with hregs := [] } true = some 4 ∧ pairRefusal { pairable with keys := up.keys } true = some 3
    ∧ pairRefusal (withVia pairable fun v => { v with epoch := 6 }) false = some 6
    ∧ pairRefusal (withVia pairable fun v => { v with st := .broken }) true = some 1
    ∧ pairRefusal { pairable with lc := { pairable.lc with state := 0 } } true = some 2
    ∧ pairRefusal { pairable with keys := { pairable.keys with slots := (20, ks 2 1 (k32 3)) :: pairable.keys.slots } } false = some 5
    ∧ State.hostUp { up with power := { up.power with good := false } } = false := by decide +kernel
def inTime (st : PairSt) (r : Role) (u : Bool) : State :=
  withVia (lnk r st) fun v => { v with linkUp := u, detachAt := some 5, lags := [(3, (100, false)), (5, (90, false))] }
def timeOk (s : State) : Bool :=
  s.hostUp && !s.ports.cpRst && !s.ports.vdRst && ticking s && !s.via.hbLost && s.via.helloPeer == [] && firstLag s.via.lags == some (5, 90)
theorem witness_ViaductCommandsAndTime :
    (∀ st ∈ [PairSt.unpaired, .pairing, .syncing, .paired, .broken, .detaching], ∀ r ∈ [Role.none, .lead, .mirror], ∀ u ∈ [true, false],
      timeOk (inTime st r u) = true)
    ∧ (∀ b : BerthNo, viaMarked ldS b = false) ∧ ldS.via.items = [] ∧ viaLive ldS = true ∧ viaLive miS = true
    ∧ { Ports.reset with cpRst := true }.cpRst = true ∧ { Ports.reset with vdRst := true }.vdRst = true
    ∧ ldS.via.epoch.toNat < fld (State.hreg { miS with hregs := [(0x300008, BitVec.ofNat 64 (6 * 2 ^ 32))] } 0x300008) 63 32 := by decide +kernel
def fckpt : State := flying (.ckpt 0) (.ckpt 2 3 none) []
theorem witness_ViaductCommandsAndTime_waits :
    (fckpt.berth 0).wait = .ckpt 2 3 none ∧ Table.has fckpt.berths 0 = true
    ∧ ((passUntil fckpt.via.lastRx (fld (fckpt.hreg 0x300060) 63 32) fckpt).berth 0).wait = .ckpt 2 3 none := by decide +kernel

/-! ### Witnesses: power, resets, life cycle, tamper and entropy -/

/-- A block with something in every kind of memory, key slots, a running DRBG, a pairing and a job under way. -/
def full : State :=
  { ran ctxN with
    mem := [(0x10000000, 1), (0x10600000, 2), (0x107FFFFF, 3), (0x20000000, 4), (stagingBase, 5)]
    keys := { up.keys with slots := [(0, ks 1 0 (k32 3)), (9, ks 2 0x55 (k32 7))] }
    ent := { Entropy.reset with st := .running, key := zeros 32, v := zeros 16 }
    time := { up.time with count := 555, ticks := 888 }
    via := { Viaduct.reset with role := .lead, st := .paired, linkUp := true, epoch := 4 }
    spans := [(0, { Span.reset with bitsN := [5] }.modUnit .truss fun u =>
      { u with jobs := [{ mkJ 0x10 0x10001000 [] with seq := 4 }], nextSeq := 5, current := [(0, 4)] })]
    hregs := [(0x010108, 1)], rstCount := 3 }
/-- That block with nothing for its units to do. -/
def rest : State := { full with spans := [(0, { Span.reset with bitsN := [5] })] }
def pw (s : State) (h : Power → Power) : State := { s with power := h s.power }
def held : State := pw full fun p => { p with st := .holding }
def debugged (s : State) : State := { s with gw := { s.gw with attached := true }, hregs := (0x5F0000, 3) :: s.hregs }
def idleUp : State := { up with power := { up.power with target := some .holding } }
def slackRun : State := pw (full.modBerth 0 fun b => { b with ctx := { ctxN with slack := true } }) fun p => { p with target := some .holding }
theorem witness_PowerStates :
    full.hostUp = true ∧ full.ports.cpRst = false ∧ full.power.emul = 0 ∧ full.power.target = none ∧ full.power.st = .underWay ∧ full.power.good = true
    ∧ (pw full fun p => { p with good := false }).hostUp = false ∧ (pw full fun p => { p with emul := 3 }).hostUp = true
    ∧ (pw full fun p => { p with target := some .holding }).hostUp = true ∧ held.hostUp = true ∧ held.power.st = .holding
    ∧ anyLifeboat held = false ∧ emulates held = false ∧ emulates (debugged held) = true ∧ (debugged held).hostUp = true
    ∧ anyLifeboat (held.modFerry 0 fun y => { y with lbN := { y.lbN with occ := true } }) = true
    ∧ enginesStopped idleUp = true ∧ enginesStopped slackRun = false ∧ slackRun.power.target = some .holding
    ∧ idleUp.power.st = .underWay ∧ jobless rest = true ∧ jobless full = false ∧ rest.power.good = true
    ∧ mayLeave full 0 = true ∧ (full.berth 0).st = .running := by decide +kernel
theorem witness_PowerStates_units : ∀ i e, ((up.span i).unit e).current = [] := fun _ _ => rfl
def lines (st : PowerSt) (fin : Option PowerEnd) (seq : List (Nat × Bool)) (req ack : BitVec 4) : State :=
  pw full fun p => { p with st := st, fin := fin, seq := seq, req := req, ack := ack }
/-- An acknowledgement of line `n` to level `v` that the sequence awaits. -/
def awaited (s : State) (n : Nat) (v : Bool) : Bool :=
  s.power.good && s.power.req.getLsbD n == v && s.power.ack.getLsbD n != v && s.power.seq.head? == some (n, v)
theorem witness_PowerStates_lines :
    awaited (lines .holding (some .moored) [(3, false), (1, false), (0, false)] 0x7 0xF) 3 false = true
    ∧ awaited (lines .holding (some .moored) [(0, false)] 0x4 0x5) 0 false = true
    ∧ awaited (lines .holding (some .laidUp) [(2, false)] 0x0 0x4) 2 false = true
    ∧ awaited (lines .moored (some .woken) [(3, true)] 0xF 0x7) 3 true = true
    ∧ awaited (lines .moored (some .restored) [(1, true)] 0x7 0x5) 1 true = true
    ∧ awaited (lines .laidUp (some .started) [(3, true)] 0xF 0x7) 3 true = true ∧ full.lc.latch = none
    ∧ isMoored full = false ∧ isMoored (lines .moored none [] 0x4 0x4) = true ∧ (lines .moored none [] 0x4 0x4).power.emul ≠ 3
    ∧ isMoored (pw full fun p => { p with st := .moored, emul := 3 }) = true := by decide +kernel
/-- The control port serves. -/
def cpServesB (s : State) : Bool := s.hostUp && !s.ports.cpRst
def watched (c : W64) : State := { full with hregs := [(0x5F0020, c)], gw := { full.gw with bwRem := 100 } }
def mirrorFull : State := { full with via := { full.via with role := .mirror } }
def stgd : State := { up with hregs := [(0x700000, 1)] }
theorem witness_ResetsLeave :
    full.power.good = true ∧ full.power.st = .underWay ∧ full.hostUp = true ∧ full.via.role ≠ .mirror
    ∧ (∀ n ∈ [0x10000, 0x8000000000010000], let c := BitVec.ofNat 64 n; bwCounts (watched c) = true ∧ ticking (watched c) = true
        ∧ tb ((watched c).hreg 0x5F0000) 0 = false ∧ tb ((watched c).hreg 0x5F0020) 63 = tb c 63)
    ∧ mirrorFull.via.role = .mirror ∧ synced mirrorFull = true ∧ mirrorFull.hostUp = true
    ∧ ferryBusy full 0 = false ∧ (full.ferry 0).berth = some 0 ∧ (full.berth 0).ferry = some 0
    ∧ ferryBusy (full.modBerth 0 fun b => { b with wait := .rnd 3 4 }) 0 = true
    ∧ portsOf stgd stagingBase 2 = [0] ∧ flagAt stgd.ports.stgRst 0 = false ∧ flagAt { Ports.reset with stgRst := [(11, true)] }.stgRst 11 = true
    ∧ cpServesB full = true ∧ cpServesB { full with ports := { full.ports with cpRst := true } } = false
    ∧ full.via.role ≠ .mirror ∧ (∀ u ∈ (rest.span 0).units, u.2.jobs = []) ∧ mayLeave full 0 = true
    ∧ flagAt full.ports.landRst 2 = false ∧ flagAt { Ports.reset with slipRst := [(2, true)] }.slipRst 2 = true := by decide +kernel
theorem witness_ResetsLeave_write : { Ports.reset with stgWrites := [⟨stagingBase, [7, 8], 0, 0, 0, 0⟩] }.stgWrites = [⟨stagingBase, [7, 8], 0, 0, 0, 0⟩] := rfl
def writes (l : List (OtpJob × Nat × W32)) : State :=
  { full with lc := { full.lc with writes := l, latch := some 2, pinNext := 2, req := true } }
theorem witness_LifeCycleTamperTimebase :
    full.power.good = true ∧ isMoored full = false ∧ isMoored (pw full fun p => { p with st := .moored }) = true
    ∧ (∀ t : BitVec 3, lcLegal full t = (t == 2 || t == 4)) ∧ full.lc.writes = []
    ∧ (writes [(.lifeCycle, 0x31, 0xFFFFFFFF)]).lc.writes = (.lifeCycle, 0x31, 0xFFFFFFFF) :: []
    ∧ (0xFFFFFFFF &&& 0xFFFFFFFF : W32) = 0xFFFFFFFF ∧ (0x7FFFFFFF &&& 0xFFFFFFFF : W32) ≠ 0xFFFFFFFF
    ∧ (writes [(.enroll, 0x28, 1), (.commitVersion, 0x11, 1)]).lc.writes ≠ [] ∧ ticking full = true
    ∧ State.reset.keys.kpWait = true ∧ State.reset.power.good = true ∧ full.keys.kpWait = false ∧ State.reset.lc.state ≠ 4
    ∧ full.tamper.hold = false ∧ full.via.st ≠ .unpaired ∧ full.time.armed = none
    ∧ ticking { full with time := { full.time with armed := some 7 } } = true
    ∧ ticking { full with time := { full.time with lost := true } } = false := by decide +kernel
def en (s : State) (h : Entropy → Entropy) : State := { s with ent := h s.ent }
def eddies (h : Eddy → Eddy) : State := en full fun e => { e with e0 := h e.e0, e1 := h e.e1 }
def both : State := eddies fun x => { x with st := .enabled, testing := false }
def lone : State := en both fun e => { e with e1 := { e.e1 with st := .disabled, testing := false } }
theorem witness_EntropyMachinery :
    both.time.lost = false ∧ entropyOn both = true ∧ entropyOn (pw both fun p => { p with st := .moored }) = false ∧ (both.eddy false).st = .enabled ∧ (both.eddy false).testing = false
    ∧ (let y := (eddyTests (both.eddy false) true).1; ¬ 35 ≤ y.run ∧ ¬ 757 ≤ y.recur)
    ∧ (let s := eddies fun x => { x with st := .enabled, run := 34, last := true, win := 4, first := true, recur := 3 }
       35 ≤ (eddyTests (s.eddy false) true).1.run ∧ (s.eddy true).st = .enabled)
    ∧ (let s := eddies fun x => { x with st := .enabled, run := 3, last := true, win := 800, first := true, recur := 756 }
       757 ≤ (eddyTests (s.eddy false) true).1.recur)
    ∧ (lone.eddy true).st = .disabled ∧ lone.ent.st ≠ .locked
    ∧ (let s := eddies fun x => { x with testing := true, taken := 1023 }; (s.eddy false).testing = true ∧ (s.eddy false).taken < 1024)
    ∧ (∀ f ∈ [true, false], let s := eddies fun x => { x with testing := true, taken := 1024, failed := f }
       (s.eddy false).taken = 1024 ∧ s.ent.retest = false ∧ (s.eddy false).failed = f)
    ∧ (∀ f ∈ [true, false], let s := en (eddies fun x => { x with st := .disabled, testing := true, taken := 1024, failed := f }) fun e =>
          { e with retest := true, st := .stopped, e1 := { e.e1 with testing := false } }
       (s.eddy false).taken = 1024 ∧ s.ent.retest = true ∧ (s.eddy false).failed = f ∧ underRetest (s.eddy true) = false ∧ s.ent.retestRan = false
       ∧ (s.eddy true).st = .disabled ∧ entropyOn s = true)
    ∧ both.ent.scramble = none ∧ both.ent.raw.length < 767
    ∧ (let s := en both fun e => { e with raw := List.replicate 767 true }; s.ent.raw.length = 767 ∧ s.ent.scramble = none)
    ∧ (let s := en both fun e => { e with scramble := some (zeros 48) }; s.ent.scramble ≠ none)
    ∧ full.hostUp = true := by decide +kernel
def bits768 : List Bool := (List.range 768).map fun n => n % 3 == 0
def waitsRnd : State :=
  { full.modBerth 0 fun b => { b with st := .waiting, wait := .rnd 3 4, ferry := none } with
    ent := { full.ent with waits := [{ berth := 0, since := 0, tmo := 10, got := [] }] }, ferries := [] }
def waitsKey : State := waitsRnd.modBerth 0 fun b => { b with wait := .key (.drbg true 2) }
theorem witness_EntropyMachinery_drbg :
    bits768.length = 768 ∧ full.ent.seed = none ∧ full.ent.dead = false ∧ full.ent.waits = [] ∧ full.ent.st = .running ∧ full.ent.served < 1048576
    ∧ 2 ^ fld (full.hreg 0x400010) 3 0 ≤ 1048576
    ∧ waitsRnd.ent.waits.length = 1 ∧ (waitsRnd.berth 0).wait = .rnd 3 4 ∧ ticking waitsRnd = true
    ∧ (waitsKey.berth 0).wait = .key (.drbg true 2) ∧ entropyOn full = true ∧ cpServesB full = true
    ∧ (∀ c ∈ [DrbgSt.starting, .stopped, .locked, .running], let s := en both fun e => { e with st := c, seed := some (zeros 48), served := 1048576 }
       entropyOn s = true ∧ s.ent.waits = [] ∧ s.ent.dead = false ∧ s.ent.retest = false ∧ (s.eddy true).st ≠ .disabled)
    ∧ (lone.eddy true).st = .disabled ∧ lone.ent.retest = false ∧ lone.ent.st ≠ .locked ∧ lone.ent.dead = false := by decide +kernel

/-! ### Witnesses: the Berth table, the loader, host registers and the Gangway -/

def berthIn (st : BerthSt) (h : Berth → Berth) : State :=
  { full with
    ferries := [], hregs := [(bteOff 0 0, 0x0000123400020005)]
    berths := [(0, h { Berth.reset with st := st, ctx := ctxN })] }
def runHalted : State := full.modFerry 0 fun y => { y with halt := .halted }
theorem witness_BerthCommands :
    (∀ st ∈ [BerthSt.idle, .parked, .ready, .waiting], (berthIn st id).hostUp = true ∧ (berthIn st id).ports.cpRst = false)
    ∧ (∀ src ∈ [WSrc.fwNorth 0, .fwSouth 0], gatePasses (berthIn .idle id) src (bteOff 0 0) = true)
    ∧ gatePasses (full.modSpan 0 fun x => { x with tollN := { Toll.reset with active := [(0, { base := 0, last := 0xFFFFFFFFF, attr := 0x8400 })] } })
        (.fwNorth 0) (bteOff 0 0) = false ∧ berthSpan 0 = 0
    ∧ mayLeave runHalted 0 = true
    ∧ ((berthIn .idle fun b => { b with ctx := { ctxN with home := false } }).ctx 0).home = false
    ∧ cmdAccepted (berthIn .idle id) 0 .start = true ∧ cmdAccepted (berthIn .idle id) 0 .resume = true
    ∧ cmdAccepted (berthIn .parked id) 0 .unpark = true ∧ cmdAccepted (berthIn .idle id) 0 .rehome = true
    ∧ cmdAccepted (berthIn .ready id) 0 .start = false ∧ cmdAccepted (berthIn .idle id) 0 .stop = false
    ∧ (∀ k ∈ [BCmd.park, .stop], cmdAccepted full 0 k = true ∧ cmdAccepted runHalted 0 k = true ∧ cmdAccepted (berthIn .ready id) 0 k = true
        ∧ cmdAccepted (berthIn .waiting fun b => { b with wait := .rnd 3 4 }) 0 k = true)
    ∧ (full.berth 0).st = .running ∧ onHalted full (full.berth 0) = false ∧ onHalted runHalted (runHalted.berth 0) = true := by decide +kernel
def loading (n : Nat) (h : Loader → Loader) : State :=
  { full with hregs := [(0x600010, 16), (0x600020, 0x123456789)], ldr := h { full.ldr with state := n } }
theorem witness_MicrocodeLoader :
    (∀ n < 7, cpServesB (loading n id) = true ∧ (loading n id).ldr.state = n) ∧ cpServesB { full with ports := { full.ports with cpRst := true } } = false
    ∧ (loading 3 id).lc.state = 1 ∧ (loading 3 id).otpWord 0x28 = 0
    ∧ ({ loading 3 id with lc := { full.lc with state := 3 } } : State).lc.state.toNat = 3
    ∧ ({ loading 3 id with lc := { full.lc with otp := [(0x28, 1)] } } : State).otpWord 0x28 ≠ 0
    ∧ (loading 1 id).ldr.dma = false ∧ (loading 1 fun l => { l with dma := true }).ldr.dma = true
    ∧ (loading 1 fun l => { l with len := 300, got := zeros 240 }).ldr.got.length + 8 < 256
    ∧ (loading 1 fun l => { l with len := 16, got := zeros 8 }).ldr.len ≤ 8 + 8
    ∧ (commitWrites (loading 3 id) 5).length = 1 := by decide +kernel
def tolled (h : Toll → Toll) : State := full.modSpan 0 fun x => { x with tollN := h x.tollN, tollS := h x.tollS }
/-- Regions that would let a Ferry read the secure partition at user level and write staging memory, at user or at supervisor level. -/
def leak (attr : BitVec 16) : Table Region := [(0, { base := 0x10600, last := 0x10600, attr := 0x8401 }), (1, { base := 0x10000000, last := 0x10000000, attr := attr })]
def counting (v : Nat) : State :=
  { full with hregs := [(0x500000, BitVec.ofNat 64 v), (0x510000, BitVec.ofNat 64 v)], cnts := [(0x500008, 100), (0x510008, 0xFFFFFFFFFFF0)] }
def quotas : State :=
  { full with hregs := [(0x700000, 1), (0x701010, 4), (0x701030, 1)], alloc := { held := [(0, 0), (1, 1)], told := [] } }
def grouped : State :=
  { full with
    barriers := [(0, { members := [0, 1], twin := false, arrived := [0] })], ferries := []
    berths := [(0, { Berth.reset with st := .waiting, ctx := ctxN, wait := .bar 0 3 none })] }
theorem witness_HostRegisterAccesses :
    cpServesB full = true ∧ mirrorBusy full = false
    ∧ (((tolled id).span 0).toll true).busy = false ∧ (((tolled fun t => { t with busy := true, pending := true }).span 0).toll true).busy = true
    ∧ cpServesB quotas = true ∧ mirrorBusy quotas = false ∧ quotas.alloc.held.length < quotas.stagingSize / 0x200000
    ∧ heldBy quotas 0 < quotaOf quotas 0 ∧ quotaOf quotas 1 ≤ heldBy quotas 1
    ∧ extentAt quotas (BitVec.ofNat 64 stagingBase) = some 0 ∧ extentAt quotas (BitVec.ofNat 64 (stagingBase + 0x400000)) = some 2
    ∧ extentAt quotas 0 = none ∧ quotas.alloc.held.find 0 = some 0 ∧ Table.has quotas.alloc.held 2 = false
    ∧ (grouped.berth 0).wait = .bar 0 3 none ∧ (Table.find grouped.barriers 0).any (fun y => y.arrived == [0]) = true
    ∧ regExists 0xFFFFF8 = false ∧ 0xFFFFF8 < 0x1000000 ∧ 0xFFFFF8 % 8 = 0 := by decide +kernel
theorem witness_HostRegisterAccesses_commit :
    plaintextReason full 0 true [] [] = 0 ∧ plaintextReason stgd 0 true (leak 0x8402) [] = 1 ∧ plaintextReason stgd 0 true (leak 0x8410) [] = 2 := by
  decide +kernel
theorem witness_HostRegisterAccesses_counter :
    (∀ c ∈ [CounterNo.block 0, .span 0 0], let o := (counterAt c).1
      let s := counting 0x8000000000000001
      o ∈ [0x500008, 0x510008] ∧ tb (s.hreg (o - 8)) 63 = true ∧ fld (s.hreg (o - 8)) 11 0 ≠ 0 ∧ frozenBy s (s.hreg (o - 8)) = false
      ∧ tb (s.hreg (o - 8)) 61 = false ∧ tb (s.hreg (o - 8)) 60 = false ∧ tb ((counting 1).hreg (o - 8)) 63 = false
      ∧ 2 ^ 48 ≤ (Table.get 0 s.cnts o).toNat + 2 ^ 48 ∧ (Table.get 0 s.cnts o).toNat + 0 < 2 ^ 48) := by decide +kernel
def attached (s : State) : State := { s with gw := { s.gw with attached := true } }
def shut (s : State) : State := { s with lc := { s.lc with state := 2 } }
theorem witness_GangwayCommands :
    full.hostUp = true ∧ full.gw.attached = false ∧ (∀ k < 8, tb (full.hreg (0x500000 + 16 * k)) 60 = false)
    ∧ (∀ x ∈ full.ports.outst, x.key ≠ 512) ∧ laneHeld full 9 = false
    ∧ laneHeld { full with ports := { full.ports with held := [.gw true 0 none] } } 9 = true
    ∧ heldByOther (lockAt 0x10000000 (attached full)) none 0x10000000 8 = true
    ∧ poisonedIn { attached full with poison := [0x10000000 / 64] } 0x10000000 8 ≠ none
    ∧ Table.get 0 { Ports.reset with busy := [(512, 2)] }.busy 512 ≠ 0 ∧ inAnyPontoon 0x10000000 = true
    ∧ (shownCtx full 0).custody = false ∧ (full.ctx 0).custody = false
    ∧ (attached full).hostUp = true ∧ (attached full).gw.attached = true
    ∧ (attached full).power.emul = 0 ∧ (pw (attached full) fun p => { p with st := .moored, emul := 3 }).power.emul = 3
    ∧ (attached full).openDebug = true ∧ (shut (attached full)).openDebug = false
    ∧ regExists 0x010108 = true ∧ regExists 0x5F0020 = true ∧ northPage 0x010108 = false
    ∧ (let s := attached full
       Table.get 0 s.ports.busy 512 = 0 ∧ heldByOther s none 0x10000000 8 = false ∧ poisonedIn s 0x10000000 8 = none
       ∧ gwHaltedBerth s true = none ∧ gwHaltedBerth (attached runHalted) true = some (0, 0) ∧ ((attached runHalted).ctx 0).custody = false) := by
  decide +kernel
def gateOk (s : State) (n : Bool) (k : AKind) (a : Nat) : Bool := (gateCheck s (gwAcc n a) false k a 8).2.isNone
theorem witness_GangwayCommands_gate :
    gateOk (attached full) true .read 0x10000000 = true ∧ gateOk (attached full) true .write 0x10000000 = true
    ∧ gateOk (attached full) false .read 0x10000000 = true
    ∧ (let s := (attached full).modSpan 0 fun x => { x with tollN := { x.tollN with active := [(0, { base := 0x10000, last := 0x10000, attr := 0xC400 })] } }
       gateOk s false .read 0x10000000 = false ∧ gateOk s true .read 0x10000000 = false ∧ gateOk s false .write 0x10000000 = false) := by
  decide +kernel
theorem witness_GangwayCommands_run :
    (let s := attached full
     gwTargets s 0x400 true = none ∧ gwTargets s 0x400 false = none ∧ gwTargets s 0x100 false = none ∧ gwTargets s 0x107 true ≠ none
     ∧ gwTargets s 0 true = some [0] ∧ gwTargets s 0 false = some [0] ∧ (gwTargets s 0x2FF true).isSome = true ∧ fld (0x2FF : W64) 9 8 ≠ 1
     ∧ s.tamper.hold = false ∧ runState (s.ferry 0) ≠ 2)
    ∧ (let s := attached runHalted
       (s.ferry 0).halt = .halted ∧ (s.ferry 0).agr.aground = false ∧ (s.ferry 0).refloat = false ∧ (s.ferry 0).berth = some 0
       ∧ runState (s.ferry 0) = 2 ∧ s.tamper.hold = false) := by decide +kernel

/-! ### The routine of R278's example, and the codes of GW_CMD -/

/-- A word of the fields given, with wsel 127. -/
def mword (l : List (Nat × Nat)) : List Byte := bytesOfNat 18 (l.foldl (fun w e => w + e.2 * 2 ^ e.1) 0)
/-- The example of R278, ST.D g5, [s2 + g4 + 16] as a routine of four words, placed at words 3 to 6: MA := g4 + 16; the check of eight
bytes through S2; the post; the retirement. -/
def stRoutine : List Byte :=
  zeros (128 + 54) ++ mword [(105, 127), (98, 2), (92, 1), (86, 0x1D), (80, 0x18)] ++ mword [(105, 127), (69, 4), (64, 3)]
    ++ mword [(105, 107), (92, 3), (80, 0x19), (69, 3), (64, 3), (55, 1), (53, 2), (56, 7)] ++ mword [(105, 127), (132, 5), (56, 1)]
def sMw : State :=
  { ran { ctxN with g := [(5, 0x1122334455667788), (4, 0x100)] } with
    ldr := { up.ldr with stores := [(0, stRoutine)] }
    mem := memWrite [] 0x20000040 (bytesOfNat 4 (wordM { g := always, rd := 5, ra := 4, sa := 2, disp := 2 } 0x0D 3).toNat)
    ferries := [(0, { Ferry.reset with berth := some 0, micro := { Micro.reset with upc := 3 } })] }
def outCode : WordOut → Nat
  | .waits => 1000
  | .fault _ => 1001
  | .word a => a
  | .dispatch r => if r then 1003 else 1002
  | .leave _ => 1004
  | .aground c => 2000 + c
def endOf (n : Nat) : Nat × Nat × List Byte :=
  let r := wordRun 0 0 n sMw
  (outCode r.2, (r.1.ferry 0).micro.ma.toNat, memRead (r.1.ferry 0).localMem 0x110 8)
/-- MA := g4 + 16; the check leaves memory alone; the third word posts g5 there; the last one retires. -/
theorem test_microword_store :
    endOf 1 = (1000, 0x110, zeros 8) ∧ endOf 2 = (1000, 0x110, zeros 8) ∧ (endOf 3).2.2 = bytesOfNat 8 0x1122334455667788
    ∧ endOf 4 = (1002, 0, bytesOfNat 8 0x1122334455667788) := by decide +kernel
/-- A word that the store cannot give sends the Ferry aground with cause 0x19 (R279). -/
theorem test_microword_poisoned :
    outCode (wordStep (sMw.modFerry 0 fun y => { y with cs := { y.cs with poison := [3] } }) 0 0).2 = 2000 + 0x19 := by decide +kernel
/-- Codes 0x2, 0x6 and 0x8 to 0xB of the table of R426, and a reserved one. -/
theorem test_gangway_codes :
    gangwayCode (.gwReadSouthTake 0) = some 2 ∧ gangwayCode (.gwReadNorthTake 0) = some 6 ∧ gangwayCode (.gwHalt 0) = some 8
    ∧ gangwayCode (.gwRunstat 0) = some 11 ∧ gangwayCode (.gwReservedCommand 15) = some 15 ∧ gangwayCode .coldReset = none := by decide +kernel

/-! ### Well-formedness, the queue and words of the table -/

/-- One ill-formed command for each check, and well-formed neighbours of theirs (R407, R314, R376, R465, R335). -/
theorem test_wellFormed_lengths :
    WellFormed (.landingCommandFrame 0 0 (zeros 65)) = false ∧ WellFormed (.landingCommandFrame 0 0 (zeros 64)) = true
    ∧ WellFormed (.landingDataFrame 0 0 []) = false ∧ WellFormed (.landingDataFrame 0 0 (zeros 128)) = true
    ∧ WellFormed (.landingFrameDiscarded 0 0 1 (zeros 63)) = false ∧ WellFormed (.loaderDmaFrame 0 1023 2 (zeros 65)) = false
    ∧ WellFormed (.sspDataIn 0 0 []) = false ∧ WellFormed (.sspDataIn 0 0 (zeros 28)) = true
    ∧ WellFormed (.fisDataIn 0 0 true []) = false := by decide +kernel
theorem test_wellFormed_places :
    WellFormed (.registerWrite .host 4 0 0xFF) = false ∧ WellFormed (.registerWrite .host 0x1000000 0 0xFF) = false
    ∧ WellFormed (.registerWrite .host 0xFFFFF8 0 0xFF) = true ∧ WellFormed (.rcCounterTake (.peek 0x1000008)) = false
    ∧ WellFormed (.rcCounterTake (.take 0x1018)) = true ∧ WellFormed (.stagingPortReset { port := 12, cut := 0 }) = false ∧ WellFormed (.stagingPortReset { port := 11, cut := 3 }) = true
    ∧ WellFormed (.stagingPortResetRelease 15) = false ∧ WellFormed (.stagingReadBeat 12 0 .stray) = false := by decide +kernel
theorem test_wellFormed_viaduct :
    let h : ViaHeader := { damaged := false, hdr := [], trailer := [] }
    WellFormed (.viaHeartbeat h (List.replicate 8193 0)) = false ∧ WellFormed (.viaCells h (List.replicate 8192 0)) = true := by decide +kernel
/-- No row of the table has bits. -/
theorem test_no_word_spells_a_command (n w : Nat) : decodeTableWord n w = none ∧ s0.withFetchWord n w = s0 := ⟨rfl, rfl⟩
/-- A step runs the command at the front of the queue with the rest still in it. -/
theorem test_step_takes_the_front :
    step { s0 with pending := [.powerLoss, .wake] } = .next { s0 with pending := [.wake], power := { s0.power with good := false } } := by rfl
/-- On an empty queue one tick passes. -/
theorem test_step_ticks : (match step s0 with | .next t => t.time.ticks | _ => 0) = s0.time.ticks + 1 := by decide +kernel

end Sys2Proof.Tests
end

namespace Sys2Proof.Machine
open Sys2Proof.Safety

/-! ### What the work of jobs leaves alone, operation by operation -/

/-- The state with everything that the work of a job may change blanked out: memory and its marks, the Spans' tables, what the Ferries
hold for run control and fetching, the Viaduct's frames on their way out, the ports, counters, logs and free values. -/
def State.beyondJobs (s : State) : State :=
  { s with
    free := 0, logs := Logs.reset, hregs := [], mem := [], poison := [], soft := [], errs := [], ponAddr := [], spans := []
    ferries := [], via := { s.via with out := [], txSeq := 0, lastTx := 0, items := [] }, gw := Gangway.reset, ports := Ports.reset
    cnts := [] }

/-- A fold keeps what each of its steps keeps. -/
theorem foldl_keeps {α β : Type} (g : State → β) (h : State → α → State) (l : List α) (s : State) (k : ∀ s a, g (h s a) = g s) :
    g (l.foldl h s) = g s := by
  induction l generalizing s with
  | nil => rfl
  | cons a l ih => exact (ih _).trans (k s a)

/-- So does a choice whose branches both keep it. -/
theorem ite_keeps {β : Type} {g : State → β} {p : Prop} [Decidable p] {t u : State} {c : β} (ht : g t = c) (hu : g u = c) :
    g (if p then t else u) = c := by
  split
  · exact ht
  · exact hu

theorem Quietly.beyondJobs {s t : State} (h : Quietly s t) : t.beyondJobs = s.beyondJobs := by
  obtain ⟨⟨⟨h1, h2, h3, h4, h5, h6, h7, -, -, -, -, h8, h9, h10, h11, h12, h13, -, -⟩, -, -, -, -⟩, h14⟩ := h
  simp only [State.beyondJobs, h1, h2, h3, h4, h5, h6, h7, h8, h9, h10, h11, h12, h13, h14]

@[simp] theorem beyondJobs_drawn (s : State) : s.drawn.beyondJobs = s.beyondJobs := rfl
@[simp] theorem beyondJobs_modSpan (s : State) (i : SpanNo) (h : Span → Span) : (s.modSpan i h).beyondJobs = s.beyondJobs := rfl
@[simp] theorem beyondJobs_setSpan (s : State) (i : SpanNo) (x : Span) : (s.setSpan i x).beyondJobs = s.beyondJobs := rfl
@[simp] theorem beyondJobs_bumpErr (s : State) (k n : Nat) : (bumpErr s k n).beyondJobs = s.beyondJobs := rfl
@[simp] theorem beyondJobs_countSpan (s : State) (i : SpanNo) (cls bit : Nat) (w : Who) (a : Option Nat) (n : Nat) :
    (countSpan s i cls bit w a n).beyondJobs = s.beyondJobs := (quietly_countSpan ..).beyondJobs
@[simp] theorem beyondJobs_countBlock (s : State) (cls bit n : Nat) : (countBlock s cls bit n).beyondJobs = s.beyondJobs :=
  (quietly_countBlock ..).beyondJobs
@[simp] theorem beyondJobs_raise (s : State) (src code : Nat) : (raise s src code).beyondJobs = s.beyondJobs :=
  (quietly_raise ..).beyondJobs
@[simp] theorem beyondJobs_clampLog (s : State) (src kind : Nat) (f : W32) (v a : W64) :
    (clampLog s src kind f v a).beyondJobs = s.beyondJobs := (quietly_clampLog ..).beyondJobs

/-! #### Accesses -/

@[simp] theorem beyondJobs_gateCheck (s : State) (q : Acc) (dst : Bool) (k : AKind) (a n : Nat) :
    (gateCheck s q dst k a n).1.beyondJobs = s.beyondJobs := by
  unfold gateCheck
  dsimp only
  split
  · rfl
  · simp [recordViolation]

@[simp] theorem beyondJobs_gateOnce (s : State) (q : Acc) (key : Nat) (dst : Bool) (k : AKind) (a n : Nat) :
    (gateOnce s q key dst k a n).1.beyondJobs = s.beyondJobs := by
  unfold gateOnce
  split
  · rfl
  · simp

@[simp] theorem beyondJobs_takeBusy (s : State) (q : Acc) (key a : Nat) : (takeBusy s q key a).1.beyondJobs = s.beyondJobs := by
  unfold takeBusy
  split
  · simp only [beyondJobs_countSpan, beyondJobs_bumpErr]; rfl
  · rfl

@[simp] theorem beyondJobs_notePoison (s : State) (q : Acc) (a : Nat) : (notePoison s q a).beyondJobs = s.beyondJobs :=
  (beyondJobs_countSpan ..).trans (beyondJobs_bumpErr ..)

@[simp] theorem beyondJobs_readFault (s : State) (q : Acc) (key : Nat) (b : Option Nat) (a n : Nat) :
    (readFault s q key b a n).1.beyondJobs = s.beyondJobs := by
  have ht := beyondJobs_takeBusy s q key a
  unfold readFault
  split
  · rfl
  · generalize takeBusy s q key a = r at ht
    obtain ⟨u, spent⟩ := r
    dsimp only at ht ⊢
    split
    · exact ht
    · split
      · split <;> simp [ht]
      · split
        · exact ht
        · split
          · exact ht
          · exact (foldl_keeps State.beyondJobs (fun s (e : Nat × Nat) => bumpErr s (errKey 0x1000 e.2 1) 32) _ _
              fun _ _ => rfl).trans ht

@[simp] theorem beyondJobs_writeFault (s : State) (q : Acc) (key : Nat) (b : Option Nat) (a n : Nat) :
    (writeFault s q key b a n).1.beyondJobs = s.beyondJobs := by
  have ht := beyondJobs_takeBusy s q key a
  unfold writeFault
  split
  · rfl
  · generalize takeBusy s q key a = r at ht
    obtain ⟨u, spent⟩ := r
    cases spent <;> exact ht

@[simp] theorem beyondJobs_endsOut (s : State) (q : Acc) (key : Nat) (k : AKind) (a n : Nat) :
    (endsOut s q key k a n).beyondJobs = s.beyondJobs := by
  unfold endsOut
  dsimp only
  split <;> rfl

@[simp] theorem beyondJobs_stopped (s : State) (q : Acc) (key : Nat) (k : AKind) (a n : Nat) (x : AccFail) :
    (stopped s q key k a n x).beyondJobs = s.beyondJobs := by
  unfold stopped
  split
  · unfold staysOut
    dsimp only
    split <;> rfl
  · simp

@[simp] theorem beyondJobs_correctSoft (s : State) (q : Acc) (write : Bool) (a n : Nat) :
    (correctSoft s q write a n).beyondJobs = s.beyondJobs :=
  foldl_keeps State.beyondJobs _ _ _ fun _ _ => beyondJobs_countSpan ..

@[simp] theorem beyondJobs_countDiverted (s : State) (q : Acc) (a n : Nat) : (countDiverted s q a n).beyondJobs = s.beyondJobs :=
  foldl_keeps State.beyondJobs _ _ _ fun _ _ => beyondJobs_countSpan ..

@[simp] theorem beyondJobs_driveStaging (s : State) (write : Bool) (a n : Nat) :
    (driveStaging s write a n).beyondJobs = s.beyondJobs := by
  exact foldl_keeps State.beyondJobs _ _ _ fun s w => ite_keeps (beyondJobs_countBlock ..) rfl

@[simp] theorem beyondJobs_countAccess (s : State) (q : Acc) (write : Bool) (a n : Nat) :
    (countAccess s q write a n).beyondJobs = s.beyondJobs := by
  exact ite_keeps (ite_keeps (foldl_keeps State.beyondJobs _ _ _ fun _ _ => beyondJobs_countSpan ..) rfl)
    (ite_keeps (beyondJobs_driveStaging ..) rfl)

@[simp] theorem beyondJobs_served (s : State) (q : Acc) (key : Nat) (k : AKind) (a n : Nat) :
    (served s q key k a n).beyondJobs = s.beyondJobs := by
  have he := beyondJobs_endsOut s q key k a n
  have hb : (if inAnyPontoon a && Table.has (endsOut s q key k a n).ports.busy key then
      { endsOut s q key k a n with ports := { (endsOut s q key k a n).ports with
        busy := Table.del (endsOut s q key k a n).ports.busy key } }
      else endsOut s q key k a n).beyondJobs = s.beyondJobs := ite_keeps he he
  exact (beyondJobs_countAccess ..).trans <| (beyondJobs_countDiverted ..).trans <| (beyondJobs_correctSoft ..).trans <|
    ite_keeps hb hb

@[simp] theorem beyondJobs_dropLines (s : State) (a n : Nat) : (dropLines s a n).beyondJobs = s.beyondJobs := by
  unfold dropLines
  split
  · rfl
  · split <;> rfl

@[simp] theorem beyondJobs_damageStreams (s : State) (i : SpanNo) (a n : Nat) (same : Bool) :
    (damageStreams s i a n same).beyondJobs = s.beyondJobs := by
  unfold damageStreams
  dsimp only
  split <;> rfl

@[simp] theorem beyondJobs_rawWrite (s : State) (a : Nat) (l : List Byte) : (rawWrite s a l).beyondJobs = s.beyondJobs := by
  have h := beyondJobs_dropLines s a l.length
  unfold rawWrite
  dsimp only
  split
  · exact (beyondJobs_damageStreams ..).trans h
  · exact h

@[simp] theorem beyondJobs_landAs (s : State) (q : Acc) (e : W32) (a : Nat) (l : List Byte) :
    (landAs s q e a l).beyondJobs = s.beyondJobs := by
  unfold landAs
  dsimp only
  split
  · exact foldl_keeps State.beyondJobs _ _ _ fun s w => ite_keeps rfl (beyondJobs_rawWrite ..)
  · simp

@[simp] theorem beyondJobs_physRead (s : State) (q : Acc) (a n : Nat) : (physRead s q a n).1.beyondJobs = s.beyondJobs := by
  have hg := beyondJobs_gateOnce s q (busyKey q) false .read a n
  unfold physRead readAs
  split
  · next e => simpa [e] using hg
  · next u e =>
    have hu : u.beyondJobs = s.beyondJobs := by simpa [e] using hg
    have hf := beyondJobs_readFault u q (busyKey q) q.holder a n
    split
    · next v x e' => simpa [e', hu] using hf
    · next v e' => simpa [e', hu] using hf

@[simp] theorem beyondJobs_physWrite (s : State) (q : Acc) (dst : Bool) (a : Nat) (l : List Byte) :
    (physWrite s q dst a l).1.beyondJobs = s.beyondJobs := by
  have hg := beyondJobs_gateOnce s q (busyKey q) dst .write a l.length
  unfold physWrite writeAs
  split
  · next e => simpa [e] using hg
  · next u e =>
    have hu : u.beyondJobs = s.beyondJobs := by simpa [e] using hg
    have hf := beyondJobs_writeFault u q (busyKey q) q.holder a l.length
    split
    · next v x e' => simpa [e', hu] using hf
    · next v e' => simpa [e', hu] using hf

/-! #### Context areas and frames -/

@[simp] theorem beyondJobs_writeArea (s : State) (e : Engine) (j : Job) (o k next : Nat) :
    (writeArea s e j o k next).1.beyondJobs = s.beyondJobs := by
  unfold writeArea
  split
  · rfl
  · simp [keepStreams]

@[simp] theorem beyondJobs_writeParts (s : State) (e : Engine) (j : Job) (l : List (Nat × Nat)) :
    (writeParts s e j l).1.beyondJobs = s.beyondJobs := by
  induction l generalizing s with
  | nil => rfl
  | cons p t ih =>
    have hw := beyondJobs_physWrite s.drawn (jobAcc e j) false p.1 (freeBytes s.free p.2)
    unfold writeParts
    split
    · next u _ e' => simpa [e', ih] using hw
    · simp

@[simp] theorem beyondJobs_queueFrame (s : State) (slip : Bool) (port : Nat) (x : OutFrame) :
    (queueFrame s slip port x).beyondJobs = s.beyondJobs := rfl

@[simp] theorem beyondJobs_viaSend (s : State) (ty : Nat) (prot : Bool) (body : List Byte) :
    (viaSend s ty prot body).beyondJobs = s.beyondJobs := by
  unfold viaSend
  split
  · rfl
  · dsimp only
    split <;> simp only [beyondJobs_countBlock] <;> rfl

@[simp] theorem beyondJobs_viaSendItem (s : State) (ty : Nat) (body : List Byte) (it : ViaItem) :
    (viaSendItem s ty body it).beyondJobs = s.beyondJobs := beyondJobs_viaSend s ty true body

/-! ### Job programs change no more than that -/

/-- The state of a run, and that at its last boundary, show `c` beyond what jobs may change. -/
def JobRun.within (w : JobRun) (c : State) : Prop := w.s.beyondJobs = c ∧ w.base.1.beyondJobs = c

/-- From `w` on, `m` changes no more than a job may. -/
def KeepsAt {α : Type} (w : JobRun) (m : JobM α) : Prop := ∀ c, w.within c → ((m.run).run w).2.within c

/-- `m` changes no more than a job may, wherever it begins. -/
structure Keeps {α : Type} (m : JobM α) : Prop where
  at' : ∀ w, KeepsAt w m

/-! #### The constructs of a program -/

section Constructs
variable {α β : Type}

theorem run_bind (m : JobM α) (f : α → JobM β) (w : JobRun) :
    (m >>= f).run.run w = match m.run.run w with
      | (.ok a, v) => (f a).run.run v
      | (.error e, v) => (.error e, v) := by
  show (ExceptT.bindCont f (m.run.run w).1).run (m.run.run w).2 = _
  obtain ⟨_ | _, _⟩ := m.run.run w <;> rfl

theorem run_tryCatch (m : JobM α) (f : Stop → JobM α) (w : JobRun) :
    (tryCatch m f).run.run w = match m.run.run w with
      | (.ok a, v) => (.ok a, v)
      | (.error e, v) => (f e).run.run v := by
  show (ExceptT.tryCatch m f).run.run w = _
  unfold ExceptT.tryCatch ExceptT.run ExceptT.mk
  rw [StateT.run_bind]
  obtain ⟨_ | _, _⟩ := StateT.run m w <;> rfl

theorem KeepsAt.bind {w : JobRun} {m : JobM α} {f : α → JobM β} (hm : KeepsAt w m) (hf : ∀ a, Keeps (f a)) : KeepsAt w (m >>= f) := by
  intro c h
  rw [run_bind]
  have h' := hm c h
  split
  · next a v e => exact (hf a).at' v c (by simpa [e] using h')
  · next x v e => simpa [e] using h'

theorem KeepsAt.ite {w : JobRun} {p : Prop} [Decidable p] {m n : JobM α} (hm : KeepsAt w m) (hn : KeepsAt w n) :
    KeepsAt w (if p then m else n) := by
  split
  · exact hm
  · exact hn

theorem KeepsAt.get_bind {w : JobRun} {f : JobRun → JobM β} (h : KeepsAt w (f w)) : KeepsAt w (get >>= f) := h

theorem KeepsAt.put {w v : JobRun} (h : ∀ c, w.within c → v.within c) : KeepsAt w (set v : JobM PUnit) := h

theorem KeepsAt.put_bind {w v : JobRun} {f : PUnit → JobM β} (h : ∀ c, w.within c → v.within c) (hf : KeepsAt v (f ⟨⟩)) :
    KeepsAt w ((set v : JobM PUnit) >>= f) := fun c hw => hf c (h c hw)

theorem Keeps.pure (a : α) : Keeps (Pure.pure a : JobM α) := ⟨fun _ _ h => h⟩

theorem Keeps.throw (e : Stop) : Keeps (MonadExcept.throw e : JobM α) := ⟨fun _ _ h => h⟩

theorem Keeps.get : Keeps (MonadState.get : JobM JobRun) := ⟨fun _ _ h => h⟩

theorem Keeps.get_bind {f : JobRun → JobM β} (h : ∀ w, KeepsAt w (f w)) : Keeps (MonadState.get >>= f) := ⟨h⟩

theorem Keeps.bind {m : JobM α} {f : α → JobM β} (hm : Keeps m) (hf : ∀ a, Keeps (f a)) : Keeps (m >>= f) :=
  ⟨fun w => (hm.at' w).bind hf⟩

theorem Keeps.map {m : JobM α} {f : α → β} (hm : Keeps m) : Keeps (f <$> m) := hm.bind fun a => .pure (f a)

theorem Keeps.tryCatch {m : JobM α} {f : Stop → JobM α} (hm : Keeps m) (hf : ∀ e, Keeps (f e)) :
    Keeps (MonadExcept.tryCatch m f) := by
  refine ⟨fun w c h => ?_⟩
  rw [run_tryCatch]
  have h' := hm.at' w c h
  split
  · next a v e => simpa [e] using h'
  · next x v e => exact (hf x).at' v c (by simpa [e] using h')

theorem Keeps.ite {p : Prop} [Decidable p] {m n : JobM α} (hm : Keeps m) (hn : Keeps n) : Keeps (if p then m else n) :=
  ⟨fun w => (hm.at' w).ite (hn.at' w)⟩

/-- `if p then m`, and on with `k`. -/
theorem Keeps.when {p : Prop} [Decidable p] {m : JobM PUnit} {k : PUnit → JobM β} (hm : Keeps m) (hk : ∀ r, Keeps (k r)) :
    Keeps (if p then m >>= k else k ⟨⟩) := .ite (hm.bind hk) (hk _)

/-- `if p then` two actions, and on with `k`. -/
theorem Keeps.when₂ {γ : Type} {p : Prop} [Decidable p] {m : JobM γ} {n : γ → JobM PUnit} {k : PUnit → JobM β} (hm : Keeps m)
    (hn : ∀ a, Keeps (n a)) (hk : ∀ r, Keeps (k r)) : Keeps (if p then m >>= fun a => n a >>= k else k ⟨⟩) :=
  .ite (hm.bind fun a => (hn a).bind hk) (hk _)

/-- `if p then m else n`, and on with `k`. -/
theorem Keeps.either {p : Prop} [Decidable p] {m n : JobM α} {k : α → JobM β} (hm : Keeps m) (hn : Keeps n) (hk : ∀ r, Keeps (k r)) :
    Keeps (if p then m >>= k else n >>= k) := .ite (hm.bind hk) (hn.bind hk)

theorem Keeps.note {f : JobRun → JobRun} (h : ∀ w, (f w).s.beyondJobs = w.s.beyondJobs ∧ (f w).base = w.base) :
    Keeps (modify f : JobM PUnit) := by
  refine ⟨fun w c hw => ?_⟩
  obtain ⟨hs, hb⟩ := h w
  obtain ⟨h1, h2⟩ := hw
  exact ⟨hs.trans h1, (congrArg (fun b => State.beyondJobs b.1) hb).trans h2⟩

theorem Keeps.forIn {l : List α} {b : β} {f : α → β → JobM (ForInStep β)} (h : ∀ a b, Keeps (f a b)) : Keeps (ForIn.forIn l b f) := by
  induction l generalizing b with
  | nil => exact .pure b
  | cons a l ih =>
    rw [List.forIn_cons]
    refine .bind (h a b) fun r => ?_
    cases r with
    | done c => exact .pure c
    | yield c => exact ih

theorem Keeps.mapM {l : List α} {f : α → JobM β} (h : ∀ a, Keeps (f a)) : Keeps (l.mapM f) := by
  induction l with
  | nil => exact .pure []
  | cons a l ih =>
    rw [List.mapM_cons]
    exact .bind (h a) fun _ => .bind ih fun _ => .pure _

theorem Keeps.foldlM {l : List α} {b : β} {f : β → α → JobM β} (h : ∀ b a, Keeps (f b a)) : Keeps (l.foldlM f b) := by
  induction l generalizing b with
  | nil => exact .pure b
  | cons a l ih =>
    rw [List.foldlM_cons]
    exact .bind (h b a) fun _ => ih

theorem Keeps.forM {l : List α} {f : α → JobM PUnit} (h : ∀ a, Keeps (f a)) : Keeps (l.forM f) := by
  induction l with
  | nil => exact .pure _
  | cons a l ih =>
    exact .bind (h a) fun _ => ih

end Constructs

/-! #### The operations of every job -/

section Operations
variable {α : Type} {e : Engine} {j : Job}

theorem Keeps.jfail {st d : Nat} : Keeps (jfail st d : JobM α) := .throw _

theorem Keeps.jcheck {c : Bool} {st d : Nat} : Keeps (jcheck c st d) := .bind .get fun _ => .ite (.pure _) .jfail

theorem Keeps.jget : Keeps jget := .bind .get fun _ => .pure _

theorem Keeps.jmod {h : State → State} (k : ∀ s, (h s).beyondJobs = s.beyondJobs) : Keeps (jmod h) := by
  refine .note fun w => ?_
  split
  · exact ⟨rfl, rfl⟩
  · exact ⟨k w.s, rfl⟩

theorem Keeps.jpop : Keeps jpop := by
  refine .get_bind fun w => ?_
  split
  · exact (Keeps.pure _).at' w
  · exact .put_bind (fun _ h => h) ((Keeps.pure _).at' _)

theorem Keeps.jnote {l : List Byte} : Keeps (jnote l) := .note fun _ => ⟨rfl, rfl⟩

theorem Keeps.jask {h : State → Nat} : Keeps (jask h) :=
  .bind .get fun _ => .ite (.bind .jpop fun _ => .pure _) (.bind .jget fun _ => .bind .jnote fun _ => .pure _)

theorem Keeps.jdraw : Keeps jdraw := .bind .jask fun _ => .bind (.jmod beyondJobs_drawn) fun _ => .pure _

theorem Keeps.jrecord {o : Nat} {l : List Byte} : Keeps (jrecord o l) := .note fun _ => ⟨rfl, rfl⟩

theorem Keeps.jclamped : Keeps jclamped := .note fun _ => ⟨rfl, rfl⟩

/-- An answer of memory changes the state of the run, and notes or throws something. -/
theorem KeepsAt.answer {w v : JobRun} {m : JobM α} (hs : v.s.beyondJobs = w.s.beyondJobs) (hb : v.base = w.base)
    (hm : Keeps m) : KeepsAt w ((set v : JobM PUnit) >>= fun _ => m) := by
  refine .put_bind (fun c h => ?_) (hm.at' v)
  obtain ⟨h1, h2⟩ := h
  exact ⟨by rw [hs, h1], by rw [hb, h2]⟩

theorem Keeps.jread {a n : Nat} : Keeps (jread e j a n) := by
  refine .ite (.pure _) (.get_bind fun w => .ite (Keeps.jpop.at' w) ?_)
  have h := beyondJobs_physRead w.s (jobAcc e j) a n
  split
  · next s l r => exact .answer (by simpa [r] using h) rfl (.pure l)
  · next s x r => exact .answer (by simpa [r] using h) rfl (.throw _)

theorem Keeps.jwriteTo {dst : Bool} {a : Nat} {l : List Byte} : Keeps (jwriteTo e j dst a l) := by
  refine .get_bind fun w => .ite ((Keeps.pure _).at' w) ?_
  have h := beyondJobs_physWrite w.s (jobAcc e j) dst a l
  split
  · next s _ r => exact KeepsAt.answer (by simpa [r] using h) rfl (.pure PUnit.unit)
  · next s x r => exact .answer (by simpa [r] using h) rfl (.throw _)

theorem Keeps.jwrite {a : Nat} {l : List Byte} : Keeps (jwrite e j a l) := .jwriteTo

theorem Keeps.jwriteOut {dst : Bool} {a : Nat} {l : List Byte} : Keeps (jwriteOut e j dst a l) :=
  .bind .get fun _ => .ite (.bind .jdraw fun _ => .jwriteTo) .jwriteTo

theorem Keeps.jloose {dsts srcs keeps : List (Nat × Nat)} : Keeps (jloose e j dsts srcs keeps) :=
  .bind .jask fun _ => .note fun _ => ⟨rfl, rfl⟩

theorem Keeps.jcount {cls bit n : Nat} : Keeps (jcount e j cls bit n) := .jmod fun _ => beyondJobs_countSpan ..

theorem Keeps.jlog {kind o n a : Nat} : Keeps (jlog e j kind o n a) := .jmod fun _ => beyondJobs_clampLog ..

theorem Keeps.jclamp {o n lo hi : Nat} : Keeps (jclamp e j o n lo hi) :=
  .ite (.pure _) (.bind .jlog fun _ => .bind .jclamped fun _ => .pure _)

theorem Keeps.jref {o n st d : Nat} {c : Bool} : Keeps (jref e j o n c st d) :=
  .bind .get fun _ => .ite (.pure _) (.bind .jlog fun _ => .jfail)

theorem Keeps.jhead {clamps : JobM Unit} {ok : State → Nat → Nat → Bool} (h : Keeps clamps) : Keeps (jhead e j clamps ok) :=
  .bind .jget fun _ => .ite
    (.bind h fun _ => .bind .jref fun _ => .note fun _ => ⟨rfl, rfl⟩)
    (.bind .jlog fun _ => .bind .jclamped fun _ => .bind (.note fun _ => ⟨rfl, rfl⟩) fun _ => .jfail)

theorem Keeps.jwriteArea {o k : Nat} : Keeps (jwriteArea e j o k) := by
  refine .get_bind fun w => .ite ((Keeps.pure _).at' w) ?_
  have h := beyondJobs_writeArea w.s e j o k 0
  split
  · next s _ r => exact KeepsAt.answer (by simpa [r] using h) rfl (.pure PUnit.unit)
  · next s x r => exact .answer (by simpa [r] using h) rfl (.throw _)

theorem Keeps.jback : Keeps (jback e j) := by
  refine .bind .get fun w => .ite (.bind (.forIn fun p _ => .get_bind fun v => ?_) fun _ => .note fun _ => ⟨rfl, rfl⟩) (.pure _)
  have h := beyondJobs_physRead v.s (jobAcc e j) p.1 p.2
  split
  · next s _ r => exact .answer (by simpa [r] using h) rfl (.pure _)
  · next s x r => exact .answer (by simpa [r] using h) rfl (.bind (.throw _) fun _ => .pure _)

theorem KeepsAt.throw_bind {β : Type} {w : JobRun} {x : Stop} {f : β → JobM α} : KeepsAt w (throw x >>= f) := fun _ h => h

/-- A boundary remembers the state as it stands. -/
theorem KeepsAt.boundary {w v : JobRun} {m : JobM α} (hs : v.s = w.s) (hb : v.base.1 = w.s) (hm : KeepsAt v m) :
    KeepsAt w ((set v : JobM PUnit) >>= fun _ => m) := by
  refine .put_bind (fun c h => ?_) hm
  exact ⟨by rw [hs]; exact h.1, by rw [hb]; exact h.1⟩

theorem Keeps.jstep {cost : Nat} : Keeps (jstep e j cost) := by
  refine .bind .get fun _ => .bind .get fun _ => .ite (.bind .jpop fun _ => .pure _) 
    (.bind .get fun _ => .when₂ ?_ (fun _ => .jback) fun _ => ?_)
  · exact .note fun _ => ⟨rfl, rfl⟩
  · refine .get_bind fun w => .boundary rfl rfl (.ite .throw_bind (.ite .throw_bind (.put fun _ h => ?_)))
    exact h

theorem Keeps.jparts {l : List (Nat × Nat)} : Keeps (jparts l) := .note fun _ => ⟨rfl, rfl⟩

theorem Keeps.jreadCell {a n : Nat} : Keeps (jreadCell e j a n) :=
  .bind .jstep fun _ => .bind .jread fun _ => .bind (.note fun _ => ⟨rfl, rfl⟩) fun _ => .pure _

theorem Keeps.jreadHead {a n : Nat} : Keeps (jreadHead e j a n) := .bind .jstep fun _ => .jread

theorem Keeps.jtry {m : JobM α} (h : Keeps m) : Keeps (jtry m) :=
  .tryCatch (.bind h fun _ => .pure _) fun
    | .status _ _ => .pure _
    | .await _ _ => .throw _
    | .wait => .throw _
    | .pause => .throw _

theorem Keeps.jreadPart {bound : Bool} {note : Nat → JobM Unit} {total n : Nat} {l : List (Nat × Nat)} {acc : List (List Byte)}
    (h : ∀ k, Keeps (note k)) : Keeps (jreadPart e j bound note total l n acc) := by
  induction l generalizing n acc with
  | nil => exact .pure _
  | cons p t ih =>
    rw [Machine.jreadPart]
    exact .when .jstep fun _ => .bind (.jtry .jread) fun
      | .error _ => .pure _
      | .ok _ => .bind (h _) fun _ => ih

theorem Keeps.jreadBuf {bound : Bool} {note : Nat → JobM Unit} {total : Nat} {l : List (Nat × Nat)} (h : ∀ k, Keeps (note k)) :
    Keeps (jreadBuf e j bound note total l) :=
  .bind (.jreadPart h) fun
    | (_, none) => .pure _
    | (_, some (_, _)) => .jfail

theorem Keeps.jwriteBuf {bound : Bool} {note : Nat → JobM Unit} {total n : Nat} {l : List (Nat × Nat)} {d : List Byte}
    (h : ∀ k, Keeps (note k)) : Keeps (jwriteBuf e j bound note total l n d) := by
  induction l generalizing n d with
  | nil => exact .pure _
  | cons p t ih => exact .when .jstep fun _ => .bind .jwriteOut fun _ => .bind (h _) fun _ => ih

theorem Keeps.jbetween {lo hi : Nat} : Keeps (jbetween lo hi) := .bind .jdraw fun _ => .pure _

end Operations

/-! #### The Truss -/

section Truss
variable {α : Type} {j : Job}

theorem Keeps.trussHead : Keeps (trussHead j) :=
  .jhead (.bind .jclamp fun _ => .ite (.bind .jclamp fun _ => .pure _) (.pure _))

theorem Keeps.trussFields {target sel stripe : Bool} : Keeps (trussFields j target sel stripe) :=
  .bind .jref fun _ => .when .jref fun _ => .bind .jref fun _ => .when .jref fun _ =>
    .ite (.bind .jref fun _ => .jref) (.pure _)

theorem Keeps.early {m : JobM α} (h : Keeps m) : Keeps (early m) :=
  .bind .jrecord fun _ => .bind h fun _ => .bind .jrecord fun _ => .pure _

theorem Keeps.readTable {a n : Nat} : Keeps (readTable j a n) := .bind (.early .jreadHead) fun _ => .pure _

theorem Keeps.checkColumns {base : Nat} {t : List Nat} : Keeps (checkColumns j base t) := by
  refine .bind .jget fun s => ?_
  split
  · exact .pure _
  · exact .jcheck

theorem Keeps.checkOverlap {src dst : List Nat} {tables : List (Nat × Nat)} : Keeps (checkOverlap j src dst tables) := .jloose

theorem Keeps.readCell {col r : Nat} : Keeps (readCell j col r) := .bind .jreadCell fun _ => .pure _

theorem Keeps.writeCell {col r : Nat} {v : List Nat} : Keeps (writeCell j col r v) := .jwriteOut

theorem Keeps.readRow {src slots : List Nat} {r : Nat} : Keeps (readRow j src slots r) :=
  .foldlM fun _ _ => .bind .readCell fun _ => .pure _

theorem Keeps.runRows {outs : List Nat} {f : Nat → JobM Unit} (h : ∀ r, Keeps (f r)) : Keeps (runRows j outs f) :=
  .bind (.forIn fun _ _ => .bind .jrecord fun _ => .bind .jparts fun _ => .bind (h _) fun _ => .bind .jrecord fun _ => .pure _)
    fun _ => .jrecord

theorem Keeps.countMacs {n : Nat} : Keeps (countMacs j n) := .jcount

/-- Cells of a row written in turn. -/
theorem Keeps.writeCells {l : List Nat} {col : Nat → Nat} {r : Nat} {v : Nat → List Nat} {f : PUnit → JobM α} (h : ∀ x, Keeps (f x)) :
    Keeps ((ForIn.forIn l PUnit.unit fun o _ => do Machine.writeCell j (col o) r (v o); Pure.pure (ForInStep.yield PUnit.unit)) >>= f) :=
  .bind (.forIn fun _ _ => .bind .writeCell fun _ => .pure _) h

theorem Keeps.trussNop : Keeps (trussNop j) := .trussHead

theorem Keeps.geoReg : Keeps (geoReg j) := by
  refine .bind .trussHead fun _ => .bind .jget fun _ => .bind .jref fun _ => .bind .jread fun d => .bind ?_ fun _ =>
    .bind .jcheck fun _ => ?_
  · exact .forIn fun _ _ => .bind (.jmod fun _ => beyondJobs_clampLog ..) fun _ => .pure _
  · split
    · exact .jfail
    · exact .bind .jget fun _ => .bind .jcheck fun _ => .bind .jcheck fun _ => .jmod fun _ => rfl

theorem Keeps.geoDel : Keeps (geoDel j) :=
  .bind .trussHead fun _ => .bind .jget fun _ => .bind .jref fun _ => .jmod fun _ => rfl

theorem Keeps.geoRead : Keeps (geoRead j) := by
  refine .bind .trussHead fun _ => .bind .jget fun s => ?_
  split
  · exact .jref
  · exact .bind .jref fun _ => .jwrite

theorem Keeps.checkPattern {p : Pattern} {src dst : List Nat} : Keeps (checkPattern p src dst) := .bind .jcheck fun _ => .jcheck

theorem Keeps.codingHead {sel : Bool} : Keeps (codingHead j sel) :=
  .bind .trussHead fun _ => .bind .trussFields fun _ => .bind .jget fun _ => .bind .jref fun _ => .bind .jref fun _ =>
    .ite (.pure _) (.bind .readTable fun _ => .bind .readTable fun _ => .bind .checkColumns fun _ => .bind .checkColumns fun _ =>
      .bind .checkOverlap fun _ => .pure _)

/-- A coding operation goes on with its tables, where it has rows. -/
theorem Keeps.coding {sel : Bool} {f : Option (List Nat × List Nat) → JobM Unit} (hn : Keeps (f none))
    (hs : ∀ src dst, Keeps (f (some (src, dst)))) : Keeps (Machine.codingHead j sel >>= f) :=
  .bind .codingHead fun
    | none => hn
    | some (src, dst) => hs src dst

theorem Keeps.encFull : Keeps (encFull j) :=
  .coding (.pure _) fun _ _ => .bind .checkPattern fun _ => .runRows fun _ => .bind .readRow fun _ => .writeCells fun _ => .countMacs

theorem Keeps.encGroup : Keeps (encGroup j) :=
  .coding (.pure _) fun _ _ => .bind .checkPattern fun _ => .runRows fun _ => .bind .readRow fun _ => .writeCells fun _ => .countMacs

theorem Keeps.repLocal : Keeps (repLocal j) := by
  refine .coding (.pure _) fun src dst => ?_
  dsimp only
  split
  · exact .bind .checkPattern fun _ => .runRows fun _ => .bind .readRow fun _ => .bind .writeCell fun _ => .countMacs
  · exact .jfail

theorem Keeps.judgePattern {x : Geo} {erased : List Nat} : Keeps (judgePattern j x erased) :=
  .bind .jrecord fun _ => .bind .jcheck fun _ => .bind .jcheck fun _ => .ite (.pure _) (.bind (.early .jwriteArea) fun _ => .pure _)

theorem Keeps.repGlobal : Keeps (repGlobal j) :=
  .coding (.pure _) fun _ _ => .bind .checkPattern fun _ => .bind .judgePattern fun _ => .runRows fun _ => .bind .readRow fun _ =>
    .writeCells fun _ => .countMacs

theorem Keeps.repTest : Keeps (repTest j) :=
  .coding (.pure _) fun _ _ => .bind .checkPattern fun _ => .bind .judgePattern fun _ => .pure _

theorem Keeps.xcode : Keeps (xcode j) :=
  .bind .trussHead fun _ => .bind .trussFields fun _ => .bind .jget fun _ => .bind .jref fun _ => .bind .jref fun _ => .bind .jref fun _ =>
    .ite (.pure _) (.bind .readTable fun _ => .bind .readTable fun _ => .bind (.early .jreadHead) fun _ => .bind .checkColumns fun _ =>
      .bind .checkColumns fun _ => .bind .checkOverlap fun _ => .bind .jcheck fun _ => .runRows fun _ =>
        .bind (.foldlM fun _ _ => .either (.pure _) (.map .jreadCell) fun _ => .pure _) fun _ => .writeCells fun _ => .countMacs)

theorem Keeps.scrubGo {x : Geo} {src need pars rows bad : List Nat} {macs : Nat} {first : Option Nat} :
    Keeps (scrubRows.go j x src need pars macs rows bad first) := by
  induction rows generalizing bad first with
  | nil => exact .pure _
  | cons r rs ih =>
    exact .bind .jrecord fun _ => .bind .readRow fun _ => .bind .readRow fun _ => .bind .countMacs fun _ => .bind .jrecord fun _ =>
      .ite (.pure _) ih

theorem Keeps.scrubRows {x : Geo} {src need pars : List Nat} {macs : Nat} : Keeps (scrubRows j x src need pars macs) :=
  .bind .scrubGo fun _ => .bind .jrecord fun _ => .bind .jrecord fun _ => .jcheck

theorem Keeps.scrubPar : Keeps (scrubPar j) := .coding (.pure _) fun _ _ => .bind .checkPattern fun _ => .scrubRows

theorem Keeps.scrubGroup : Keeps (scrubGroup j) := .coding (.pure _) fun _ _ => .bind .checkPattern fun _ => .scrubRows

end Truss

/-! #### The Cofferdam -/

section Coffer
variable {α : Type} {j : Job}

theorem Keeps.readEntry : Keeps (readEntry j) := .bind .jreadHead fun _ => .pure _

theorem Keeps.readRows {i n : Nat} : Keeps (readRows j i n) := .bind .jreadHead fun _ => .pure _

theorem Keeps.writeRow {i : Nat} {e : RowEnt} : Keeps (writeRow j i e) := .bind .jread fun _ => .jwrite

theorem Keeps.setBusy {b : Bool} : Keeps (setBusy j b) := .jwrite

theorem Keeps.checkEntry {e : Entry} : Keeps (checkEntry j e) :=
  .bind .jcheck fun _ => .bind .jcheck fun _ => .bind .jcheck fun _ => .bind .jcheck fun _ => .bind .jcheck fun _ => .jcheck

theorem Keeps.scanEntry {e : Entry} : Keeps (scanEntry j e) :=
  .ite (.pure _) (.bind (.early .readRows) fun _ => .bind (.early .jwriteArea) fun _ => .bind .jcheck fun _ => .early .jwrite)

theorem Keeps.cofferFail {st d : Nat} : Keeps (cofferFail j st d : JobM α) := .bind .setBusy fun _ => .jfail

theorem Keeps.cofferHead {src dst : State → Bool} : Keeps (cofferHead j src dst) :=
  .bind .trussHead fun _ => .bind .trussFields fun _ => .bind .jget fun _ => .bind .jref fun _ => .bind .jref fun _ => .jref

theorem Keeps.openEntry : Keeps (openEntry j) :=
  .bind (.early .readEntry) fun _ => .bind .jcheck fun _ => .bind .checkEntry fun _ => .pure _

theorem Keeps.readAcc {e : Entry} {r : RowEnt} {g : Nat} : Keeps (readAcc j e r g) :=
  .ite (.pure _) (.mapM fun _ => .bind .jread fun _ => .pure _)

theorem Keeps.freeSlot {e : Entry} : Keeps (freeSlot j e) := .bind .jread fun _ => .when .cofferFail fun _ => .pure _

theorem Keeps.commitRow {e : Entry} {i : Nat} {r : RowEnt} {new mask : Nat} {acc : List (List Nat)} :
    Keeps (commitRow j e i r new mask acc) :=
  .bind (.forIn fun _ _ => .bind .jwrite fun _ => .pure _) fun _ => .bind .writeRow fun _ => .bind .jwrite fun _ => .pure _

theorem Keeps.judgeRows {e : Entry} {l : Nat} {bad : RowEnt → Option (Nat × Nat)} : Keeps (judgeRows j e l bad) := by
  refine .bind (.early .readRows) fun rs => ?_
  dsimp only
  split
  · exact .pure _
  · exact .bind .jrecord fun _ => .cofferFail

theorem Keeps.endSkipped {n : Nat} : Keeps (endSkipped j n) :=
  .bind .jrecord fun _ => .bind .setBusy fun _ => .ite (.pure _) .jfail

theorem Keeps.takeEntry {e : Entry} {l : Nat} {bad : RowEnt → Option (Nat × Nat)} : Keeps (takeEntry j e l bad) :=
  .bind .scanEntry fun _ => .bind (.early .setBusy) fun _ => .judgeRows

/-- Cells of a row written in turn, but for those that are absent. -/
theorem Keeps.writeSome {β : Type} {l : List β} {p : β → Prop} [DecidablePred p] {col : β → Nat} {r : Nat} {v : β → List Nat}
    {f : PUnit → JobM α} (h : ∀ x, Keeps (f x)) :
    Keeps ((ForIn.forIn l PUnit.unit fun o _ =>
      if p o then do Machine.writeCell j (col o) r (v o); Pure.pure (ForInStep.yield PUnit.unit)
      else Pure.pure (ForInStep.yield PUnit.unit)) >>= f) :=
  .bind (.forIn fun _ _ => .ite (.bind .writeCell fun _ => .pure _) (.pure _)) h

theorem Keeps.cofferAcc : Keeps (cofferAcc j) := by
  refine .bind .cofferHead fun _ => .ite (.pure _) <| .bind .readTable fun _ => .bind .readTable fun _ => .bind .checkColumns fun _ =>
    .bind .checkColumns fun _ => .bind .checkOverlap fun _ => .bind .openEntry fun _ => .bind .jcheck fun _ => .bind .jcheck fun _ =>
    .bind .takeEntry fun _ => .bind (.forIn fun _ _ => .bind .jrecord fun _ => .ite (.ite ?skipped ?next) ?added) fun _ => .endSkipped
  case next => exact .bind .jrecord fun _ => .pure _
  case skipped =>
    exact .bind .jparts fun _ => .bind .readRow fun _ => .writeSome fun _ => .bind .jrecord fun _ => .pure _
  case added =>
    exact .bind .freeSlot fun _ => .bind .jparts fun _ => .bind .readRow fun _ => .writeSome fun _ => .bind .readAcc fun _ =>
      .bind .commitRow fun _ => .bind .countMacs fun _ => .bind .jrecord fun _ => .pure _

theorem Keeps.cofferFold : Keeps (cofferFold j) := by
  refine .bind .cofferHead fun _ => .ite (.pure _) <| .bind .readTable fun _ => .bind .checkColumns fun _ => .bind .checkOverlap fun _ =>
    .bind .openEntry fun _ => .bind .jcheck fun _ => .bind .jcheck fun _ => .bind .takeEntry fun _ =>
    .bind (.forIn fun _ _ => .bind .jrecord fun _ => .ite ?skipped ?added) fun _ => .endSkipped
  case skipped => exact .bind .jrecord fun _ => .pure _
  case added =>
    exact .bind .freeSlot fun _ => .bind .jparts fun _ => .bind (.mapM fun _ => .readCell) fun _ => .bind .readAcc fun _ =>
      .bind .commitRow fun _ => .bind .countMacs fun _ => .bind .jrecord fun _ => .pure _

theorem Keeps.cofferRelease : Keeps (cofferRelease j) := by
  refine .bind .cofferHead fun _ => .ite (.pure _) <| .bind .readTable fun _ => .bind .readTable fun _ => .bind .checkColumns fun _ =>
    .bind .checkColumns fun _ => .bind .checkOverlap fun _ => .bind .openEntry fun _ => .bind .jcheck fun _ => .bind .jcheck fun _ =>
    .bind .takeEntry fun _ => .bind (.forIn fun _ _ => .bind .jrecord fun _ => .either (.pure _) .freeSlot fun _ =>
      .bind .jparts fun _ => .bind .jstep fun _ => .bind .readRow fun _ => .writeSome fun _ => .bind .readAcc fun _ =>
      .writeSome fun _ => .either (.pure _) .commitRow fun _ => .ite ?released ?next) fun _ => .endSkipped
  case next => exact .bind .countMacs fun _ => .bind .jrecord fun _ => .pure _
  case released =>
    exact .bind .writeRow fun _ => .bind .jwrite fun _ => .when .jwrite fun _ => .bind .countMacs fun _ => .bind .jrecord fun _ => .pure _

theorem Keeps.cofferSnap : Keeps (cofferSnap j) := by
  refine .bind .cofferHead fun _ => .ite (.pure _) <| .bind .openEntry fun _ => .bind .jcheck fun _ => .bind (.early .readRows) fun _ => ?_
  split
  · exact .bind .jrecord fun _ => .jfail
  · exact .bind .jget fun _ => .bind .jref fun _ => .bind .jrecord fun _ => .bind .jwrite fun _ =>
      .bind (.forIn fun _ _ => .bind .jwrite fun _ => .pure _) fun _ =>
      .bind (.forIn fun _ _ => .bind (.forIn fun _ _ => .bind .jreadCell fun _ => .bind .jwrite fun _ => .pure _) fun _ => .pure _)
        fun _ => .bind .jwrite fun _ => .jrecord

theorem Keeps.createEntry {base r gen : Nat} : Keeps (createEntry j base r gen) := .bind .jwrite fun _ => .jwrite

theorem Keeps.loadEmpty {e : Entry} : Keeps (loadEmpty j e) :=
  .when₂ .jcheck (fun _ => .jfail) fun _ => .bind .jcheck fun _ => .bind .jrecord fun _ => .bind .createEntry fun _ =>
    .bind .jstep fun _ => .bind .setBusy fun _ => .jrecord

theorem Keeps.loadRows {r gen p released i0 : Nat} {old : List RowEnt} {recs : List (List Byte)} :
    Keeps (loadRows j r gen p released i0 old recs) := by
  refine .bind (.forIn fun _ _ => .bind .jrecord fun _ => .bind .jstep fun _ => .bind .writeRow fun _ => .ite ?carried ?next) fun _ =>
    .bind .jwrite fun _ => .bind .jwrite fun _ => .bind .jwrite fun _ => .bind .setBusy fun _ => .jrecord
  case next => exact .bind .jrecord fun _ => .pure _
  case carried =>
    exact .bind (.forIn fun _ _ => .bind .jreadCell fun _ => .bind .jwrite fun _ => .pure _) fun _ => .bind .jrecord fun _ => .pure _

theorem Keeps.loadSnap {e : Entry} : Keeps (loadSnap j e) := by
  have hrefuse : ∀ {β : Type} {st d : Nat}, Keeps (if e.isOpen then Machine.cofferFail j st d else Machine.jfail st d : JobM β) :=
    .ite .cofferFail .jfail
  refine .either .checkEntry .jcheck fun _ => .when₂ .scanEntry (fun _ => .early .setBusy) fun _ => .bind (.early .jreadHead) fun _ => ?_
  dsimp only
  split
  · exact hrefuse
  refine .bind .jask fun _ => .when₂ .jlog (fun _ => hrefuse) fun _ => .bind (.early (.mapM fun _ => .jreadHead)) fun _ => ?_
  split
  · exact hrefuse
  refine .when hrefuse fun _ => .when hrefuse fun _ => .either (.early .readRows) (.pure _) fun _ => ?_
  split
  · exact .bind .jrecord fun _ => hrefuse
  · exact .when (.early .createEntry) fun _ => .either (.pure _) (.early .readRows) fun _ => .loadRows

theorem Keeps.cofferLoad : Keeps (cofferLoad j) :=
  .bind .cofferHead fun _ => .ite (.pure _) (.bind (.early .readEntry) fun _ => .ite .loadEmpty .loadSnap)

end Coffer

/-! #### The compression unit -/

section Cmpr
variable {α : Type} {j : Job}

theorem Keeps.jcountAt {o n : Nat} : Keeps (jcountAt o n) := .jrecord

theorem Keeps.putOut {bound : Bool} {l : List Byte} : Keeps (putOut j bound l) := .jwriteBuf fun _ => .jcountAt

theorem Keeps.putCounted {bound : Bool} {l : List Byte} {used : Nat → JobM Unit} (h : ∀ k, Keeps (used k)) :
    Keeps (putCounted j bound l used) :=
  .bind (.jtry .putOut) fun
    | .ok _ => .pure _
    | .error _ => .bind .get fun _ => .bind (h _) fun _ => .jfail

theorem Keeps.cmprHead : Keeps (cmprHead j) := by
  refine .bind (.jhead ?clamps) fun _ => .ite (.pure _) <| .bind .jref fun _ => .bind .jref fun _ => .bind .jref fun _ =>
    .bind .jloose fun _ => .pure _
  refine .bind .jclamp fun _ => .ite (.bind .jclamp fun _ => ?_) ?_
  · exact .bind .jclamp fun _ => .ite (.bind .jclamp fun _ => .ite .jrecord (.pure _)) (.ite .jrecord (.pure _))
  · exact .bind .jclamp fun _ => .ite (.bind .jclamp fun _ => .ite .jrecord (.pure _)) (.ite .jrecord (.pure _))

theorem Keeps.dropStream : Keeps (dropStream j) := .ite (.jmod fun _ => rfl) (.pure _)

theorem Keeps.endsStream {m : JobM Unit} (h : Keeps m) : Keeps (endsStream j m) :=
  .bind (.jtry h) fun
    | .ok _ => .bind .dropStream fun _ => .pure _
    | .error _ => .bind .dropStream fun _ => .jfail

theorem Keeps.zstdCompJob : Keeps (zstdCompJob j) := by
  have hused : ∀ n, Keeps (do Machine.jcountAt 4 (← Machine.jbetween 0 n)) := fun n => .bind .jbetween fun _ => .jcountAt
  refine .endsStream <| .bind .cmprHead fun _ => .ite (.bind .jrecord fun _ => .pure _) <| .bind .jwriteArea fun _ =>
    .bind (.jreadPart fun _ => .jcountAt) fun
      | (_, some _) => ?_
      | (src, none) => ?_
  · exact .bind .jbetween fun _ => .bind .jrecord fun _ => .bind .jdraw fun _ => .bind .putOut fun _ => .jfail
  · refine .bind .jrecord fun _ => .bind .jcount fun _ => .ite (.bind .jdraw fun _ => .bind (.putCounted fun _ => hused _) fun _ =>
      .bind (hused _) fun _ => .bind .jbetween fun _ => .bind .jcountAt fun _ => .bind .jfail fun _ => ?_) ?_
    · exact .putCounted fun _ => hused _
    · exact .putCounted fun _ => hused _

theorem Keeps.zFail {lo hi st d : Nat} : Keeps (zFail lo hi st d : JobM α) := .bind .jbetween fun _ => .bind .jcountAt fun _ => .jfail

theorem Keeps.zJudge {a : Array Byte} {cut : Nat → Nat × Nat} : Keeps (zJudge j a cut) := by
  unfold Machine.zJudge
  split
  · exact .bind .jcountAt fun _ => .zFail
  refine .bind .jcountAt fun _ => .when .zFail fun _ => .when .zFail fun _ => .when .zFail fun _ => .when .zFail fun _ => ?_
  split
  · exact .zFail
  refine .bind .jrecord fun _ => .when .zFail fun _ => .when .zFail fun _ => .when .zFail fun _ => ?_
  dsimp only
  split
  · exact .pure _
  · exact .when .zFail fun _ => .when .zFail fun _ => .pure _

theorem Keeps.zstdDecompJob : Keeps (zstdDecompJob j) := by
  have hused : ∀ {a : Array Byte} {w n k : Nat}, Keeps (match zUsed a w n k with
      | (lo, hi) => do Machine.jcountAt 4 (← Machine.jbetween lo hi)) := .bind .jbetween fun _ => .jcountAt
  refine .endsStream <| .bind .cmprHead fun _ => .ite (.pure _) <| .bind .jwriteArea fun _ => .bind (.jreadPart fun _ => .pure _) fun _ =>
    .bind .zJudge fun _ => .ite (.bind .jbetween fun _ => .bind .jcountAt fun _ => .pure _) ?_
  dsimp only
  split
  · refine .bind .jbetween fun _ => .bind hused fun _ => .bind (.putCounted fun _ => hused) fun _ => .bind .jcount fun _ => ?_
    split
    · exact .jfail
    · exact .jfail
  · exact .bind .jbetween fun _ => .bind .jcountAt fun _ => .bind (.putCounted fun _ => hused) fun _ => .bind .jcount fun _ =>
      .bind .jcheck fun _ => .bind .jcountAt fun _ => .bind .jcheck fun _ => .bind .jcheck fun _ => .bind .jcheck fun _ => .jcheck

theorem Keeps.jreadHist {d : DeflStream} : Keeps (jreadHist j d) := .bind (.mapM fun _ => .jread) fun _ => .pure _

theorem Keeps.deflateWork : Keeps (deflateWork j) := by
  refine .bind .cmprHead fun go => .ite (.pure _) (.bind .jget fun s => ?_)
  extract_lets old decode
  have hdecode : ∀ d, Keeps (decode d) := by
    refine fun d => .bind .jreadHist fun _ => .bind .jwriteArea fun _ => .bind (.jreadPart fun _ => .pure _) fun x => ?_
    split
    next src stopped =>
    extract_lets all a limit
    split
    next z e _ =>
    extract_lets lo full before kept deliver
    have hdeliver : ∀ got, Keeps (deliver got) := by
      intro got
      unfold deliver
      extract_lets new finish
      have hfinish : ∀ used, Keeps (finish used) := by
        refine fun used => .bind .jcountAt fun _ => .bind .jdraw fun _ => .bind .jrecord fun _ =>
          .bind (.putCounted fun _ => .bind .jrecord fun _ => .bind .jbetween fun _ => .jcountAt) fun _ => .bind .jcount fun _ =>
          .bind .jrecord fun _ => ?_
        dsimp only
        split
        · exact .bind .jcheck fun _ => .pure _
        · exact .jfail
        · split
          · exact .jfail
          · exact .pure _
        · exact .pure _
      clear_value finish
      split
      · exact .bind (.pure _) hfinish
      · exact .bind .jbetween hfinish
      · exact .bind .jbetween hfinish
      · exact .bind .jbetween hfinish
    clear_value deliver
    split
    · exact .bind .jbetween hdeliver
    · exact .bind .jbetween hdeliver
    · exact .bind (.pure _) hdeliver
  clear_value old decode
  refine .ite (.bind .jreadHead fun _ => ?_) (.bind (.pure _) hdecode)
  split
  · exact .either .jfail (.pure _) hdecode
  · exact .bind .jfail hdecode

theorem Keeps.deflateJob : Keeps (deflateJob j) :=
  .bind (.jtry .deflateWork) fun
    | .ok (some _) => .bind (.jmod fun _ => rfl) fun _ => .jfail
    | .ok none => .dropStream
    | .error _ => .bind .dropStream fun _ => .jfail

theorem Keeps.cmprNop : Keeps (cmprNop j) := .bind .cmprHead fun _ => .pure _

end Cmpr

/-! #### The Hash unit -/

section Hash
variable {j : Job}

theorem Keeps.hashHead : Keeps (hashHead j) := by
  refine .bind (.jhead ?clamps) fun _ => .ite (.pure _) <| .bind .jref fun _ => .bind .jget fun _ => .bind .jref fun _ =>
    .bind .jref fun _ => .when .jref fun _ => .bind .jloose fun _ => .pure _
  refine .bind .jclamp fun _ => .ite (.bind .jclamp fun _ => .ite (.bind .jclamp fun _ => ?_) ?_) (.pure _)
  · exact .ite (.bind .jclamp fun _ => .bind .jclamp fun _ => .pure _) (.pure _)
  · exact .ite (.bind .jclamp fun _ => .bind .jclamp fun _ => .pure _) (.pure _)

theorem Keeps.hashStream : Keeps (hashStream j) := by
  refine .ite (.ite (.bind .jreadHead fun _ => .pure _) (.pure _)) (.bind .jreadHead fun _ => .bind .jget fun _ => ?_)
  split
  · exact .ite (.pure _) .jfail
  · exact .jfail

theorem Keeps.hashJob : Keeps (hashJob j) :=
  .bind .hashHead fun _ => .ite (.pure _) <| .bind .hashStream fun _ => .bind .jrecord fun _ => .bind .jcheck fun _ =>
    .bind (.jreadBuf fun _ => .jrecord) fun _ => .bind .jwriteArea fun _ => .when .jwriteOut fun _ => .bind .jcount fun _ => .jmod fun _ => rfl

end Hash

/-! #### The Seal unit -/

/-- The work on one cell changes no more than a job may. -/
structure CellKeeps {α : Type} (m : CellM α) : Prop where
  run : Keeps m.run

section Seal
variable {α β : Type} {j : Job}

theorem CellKeeps.pure (a : α) : CellKeeps (Pure.pure a : CellM α) := ⟨.pure _⟩

theorem CellKeeps.throw (n : Nat) : CellKeeps (MonadExcept.throw n : CellM α) := ⟨.pure _⟩

theorem CellKeeps.lift {m : JobM α} (h : Keeps m) : CellKeeps (liftM m : CellM α) := ⟨.map h⟩

theorem CellKeeps.bind {m : CellM α} {f : α → CellM β} (hm : CellKeeps m) (hf : ∀ a, CellKeeps (f a)) : CellKeeps (m >>= f) :=
  ⟨.bind hm.run fun
    | .ok a => (hf a).run
    | .error _ => .pure _⟩

theorem CellKeeps.ite {p : Prop} [Decidable p] {m n : CellM α} (hm : CellKeeps m) (hn : CellKeeps n) : CellKeeps (if p then m else n) := by
  split
  · exact hm
  · exact hn

theorem CellKeeps.either {p : Prop} [Decidable p] {m n : CellM α} {k : α → CellM β} (hm : CellKeeps m) (hn : CellKeeps n)
    (hk : ∀ r, CellKeeps (k r)) : CellKeeps (if p then m >>= k else n >>= k) := .ite (hm.bind hk) (hn.bind hk)

theorem CellKeeps.cellCheck {c : Bool} {n : Nat} : CellKeeps (cellCheck c n) := .ite (.pure _) (.throw _)

theorem Keeps.askTickets {op : Nat} : Keeps (askTickets j op) := by
  refine .bind .jask fun n => ?_
  cases n with
  | zero => exact .pure _
  | succ d => exact .pure _

theorem Keeps.checkTickets {op : Nat} : Keeps (checkTickets j op) :=
  .bind .askTickets fun
    | none => .pure _
    | some _ => .when .jlog fun _ => .jfail

theorem Keeps.writeTag {e : CellEnt} {a : Nat} {c : List Byte} : Keeps (writeTag j e a c) := .bind .jget fun _ => .jwrite

theorem CellKeeps.sealOne {e : CellEnt} : CellKeeps (sealOne j e) := by
  have hout : ∀ c, CellKeeps (do Machine.jwriteOut .sealU j false e.out c; Machine.writeTag j e e.out c : CellM Unit) :=
    fun c => .bind (.lift .jwriteOut) fun _ => .lift .writeTag
  exact .bind (.lift .jread) fun _ => .bind .cellCheck fun _ => .bind .cellCheck fun _ => .bind .cellCheck fun _ =>
    .ite (.bind (.pure _) hout) (.bind (.lift .jread) fun _ => .bind (.lift .jget) fun _ => .bind (.pure _) hout)

theorem CellKeeps.openOne {e : CellEnt} : CellKeeps (openOne j e) := by
  refine .bind (.lift .jread) fun _ => .bind (.lift .jget) fun _ => .bind .cellCheck fun _ => .bind .cellCheck fun _ =>
    .bind .cellCheck fun _ => .bind .cellCheck fun _ => ?_
  split
  · exact .throw _
  · exact .pure _

theorem CellKeeps.rekeyOne {e : CellEnt} : CellKeeps (rekeyOne j e) :=
  .bind .openOne fun _ => .bind .cellCheck fun _ => .bind (.lift .jget) fun _ => .lift .jwriteOut

theorem CellKeeps.cellOp {op : Nat} {e : CellEnt} : CellKeeps (cellOp j op e) := by
  refine .ite .sealOne <| .ite (.bind .openOne fun _ => .lift .jwriteOut) <| .ite .rekeyOne <| .ite ?data <| .ite ?parity ?check
  case data => exact .bind (.lift .jread) fun _ => .bind .cellCheck fun _ => .bind .cellCheck fun _ => .lift .writeTag
  case parity => exact .bind (.lift .jread) fun _ => .lift .writeTag
  case check =>
    exact .bind (.lift .jread) fun _ => .bind (.lift .jget) fun _ => .bind .cellCheck fun _ =>
      .ite (.bind .cellCheck fun _ => .cellCheck) (.pure _)

theorem Keeps.noteEntry {n : Nat} : Keeps (noteEntry n) := by
  refine .note fun w => ?_
  split
  · exact ⟨rfl, rfl⟩
  · exact ⟨rfl, rfl⟩

theorem Keeps.bumpRecord {o : Nat} : Keeps (bumpRecord o) := .note fun _ => ⟨rfl, rfl⟩

theorem Keeps.atEntry {n : Nat} {m : JobM α} (h : Keeps m) : Keeps (atEntry n m) :=
  .tryCatch h fun _ => .bind .noteEntry fun _ => .throw _

theorem Keeps.readCells {op : Nat} : Keeps (readCells j op) :=
  .bind (.mapM fun _ => .atEntry <| .bind (.note fun _ => ⟨rfl, rfl⟩) fun _ => .when .jstep fun _ => .bind .jread fun _ => .pure _)
    fun _ => .bind .jget fun _ => .bind (.forIn fun _ _ => .bind .jcheck fun _ => .bind .jcheck fun _ => .pure _) fun _ =>
    .bind (.forIn fun _ _ => .bind .jcheck fun _ => .pure _) fun _ => .pure _

theorem Keeps.runCells {op n : Nat} {l : List CellEnt} {last : Bool} : Keeps (runCells j op l n last) := by
  induction l generalizing n last with
  | nil => exact .pure _
  | cons e t ih =>
    rw [Machine.runCells]
    refine .when₂ (.note fun _ => ⟨rfl, rfl⟩) (fun _ => .jstep) fun _ => .bind .askTickets fun
      | some d => .ite (.pure _) (.bind .noteEntry fun _ => .jfail)
      | none => .bind (.atEntry CellKeeps.cellOp.run) fun _ => .bind .jask fun _ => .bind (.atEntry .jwrite) fun _ =>
          .bind .bumpRecord fun _ => .bind .jcount fun _ => .ite ?failed ?next
    case next => exact .ite (.pure _) (.ite (.bind .jdraw fun _ => .ite ih (.pure _)) ih)
    case failed =>
      exact .bind .jcount fun _ => .bind .noteEntry fun _ => .bind .bumpRecord fun _ =>
        .ite (.pure _) (.ite (.bind .jdraw fun _ => .ite ih (.pure _)) ih)

theorem Keeps.sealJob : Keeps (sealJob j) := by
  refine .bind (.jhead ?clamps) fun _ => .ite (.pure _) <| .bind .jref fun _ => .bind .jref fun _ => .bind .jget fun _ =>
    .bind .jref fun _ => .ite .checkTickets <| .bind .readCells fun _ => .bind .checkTickets fun _ => .when (.forM fun _ => .jloose)
    fun _ => .bind .runCells fun _ => .bind .get fun _ => .jcheck
  exact .bind .jclamp fun _ => .ite (.bind .jclamp fun _ => .pure _) (.pure _)

end Seal

/-! #### The Tender -/

section Tender
variable {j : Job}

theorem Keeps.tenderHead : Keeps (tenderHead j) := by
  refine .bind (.jhead ?clamps) fun _ => .ite (.pure _) <| .bind .jget fun _ => .bind .jref fun _ => .when .jref fun _ =>
    .when .jref fun _ => .when .jref fun _ => .bind .jcheck fun _ => .when₂ .jref (fun _ => .jref) fun _ => .when .jref fun _ => .pure _
  exact .bind .jclamp fun _ => .ite (.bind .jclamp fun _ => .pure _) (.pure _)

theorem Keeps.tenderCount {bytes frames : Nat} : Keeps (tenderCount j bytes frames) :=
  .bind .get fun _ => .bind .jrecord fun _ => .jcount

theorem Keeps.copyGo {n src : Nat} {l : List (Nat × Nat)} : Keeps (copyJob.go j n src l) := by
  induction l with
  | nil => exact .pure _
  | cons p t ih =>
    rw [Machine.copyJob.go]
    exact .when .jstep fun _ => .bind .jread fun _ => .bind .jwriteOut fun _ => .bind .tenderCount fun _ => ih

theorem Keeps.copyJob : Keeps (copyJob j) := .bind .tenderHead fun _ => .ite (.pure _) (.bind .jloose fun _ => .copyGo)

theorem Keeps.tenderAwait : Keeps tenderAwait := .bind .get fun _ => .throw _

theorem Keeps.afterFrames {m : JobM Unit} (h : Keeps m) : Keeps (afterFrames m) :=
  .tryCatch h fun
    | .status _ _ => .bind .get fun _ => .ite (.throw _) (.throw _)
    | .await _ _ => .throw _
    | .wait => .throw _
    | .pause => .throw _

theorem Keeps.tenderRead {o n : Nat} : Keeps (tenderRead j o n) :=
  .bind (.jreadPart fun _ => .pure _) fun
    | (_, none) => .pure _
    | (_, some (_, _)) => .jfail

theorem Keeps.landSendJob : Keeps (landSendJob j) :=
  .afterFrames <| .bind .tenderHead fun _ => .ite (.pure _) <| .bind (.forIn fun _ _ => .bind .tenderRead fun _ =>
    .bind (.jmod fun _ => rfl) fun _ => .bind .tenderCount fun _ => .pure _) fun _ => .tenderAwait

theorem Keeps.slipSend {l : List Byte} : Keeps (slipSend j l) := by
  refine .bind .jask fun _ => ?_
  dsimp only
  split
  · exact .jfail
  · exact .jmod fun _ => rfl

theorem Keeps.slipFrameJob : Keeps (slipFrameJob j) :=
  .afterFrames <| .bind .tenderHead fun _ => .ite (.pure _) <| .bind .tenderRead fun _ => .bind .slipSend fun _ =>
    .bind .tenderCount fun _ => .tenderAwait

theorem Keeps.slipDataJob : Keeps (slipDataJob j) :=
  .afterFrames <| .bind .tenderHead fun _ => .ite (.pure _) <| .bind .jask fun _ => .bind .jread fun _ => .bind (.forIn fun _ _ =>
    .bind .tenderRead fun _ => .bind .slipSend fun _ => .bind .tenderCount fun _ => .pure _) fun _ => .tenderAwait

theorem Keeps.twinRead {o n : Nat} : Keeps (twinRead j o n) := .bind (.note fun _ => ⟨rfl, rfl⟩) fun _ => .jreadBuf fun _ => .pure _

theorem Keeps.twinSendJob : Keeps (twinSendJob j) := by
  have hsend : ∀ {last : Bool} {ty : Nat} {body : List Byte} {it : ViaItem},
      Keeps (Machine.jmod fun s => if last then viaSendItem s ty body it else viaSend s ty true body) := fun {_ _ _ _} =>
    .jmod fun _ => ite_keeps (beyondJobs_viaSendItem ..) (beyondJobs_viaSend ..)
  exact .bind .tenderHead fun _ => .ite (.pure _) <| .bind .jstep fun _ => .bind .jget fun _ => .bind .jcheck fun _ => .bind .jcheck fun _ =>
    .either (.pure _) .twinRead fun _ => .bind .jcheck fun _ => .bind .jcheck fun _ => .bind .jget fun _ => .bind hsend fun _ =>
    .bind .tenderCount fun _ => .bind (.forIn fun _ _ => .bind .twinRead fun _ => .bind hsend fun _ => .bind .tenderCount fun _ =>
      .pure _) fun _ => .tenderAwait

theorem Keeps.tenderNop : Keeps (tenderNop j) := .bind .tenderHead fun _ => .pure _

end Tender

/-! #### Jobs that are cut off -/

/-- Whatever a job does, it changes no more than a job may. -/
theorem Keeps.jobProgram {e : Engine} {j : Job} : Keeps (jobProgram e j) := by
  cases e with
  | truss =>
    unfold Machine.jobProgram
    dsimp only
    split
    · exact .geoReg
    · exact .geoDel
    · exact .geoRead
    · exact .encFull
    · exact .encGroup
    · exact .repLocal
    · exact .repGlobal
    · exact .repTest
    · exact .xcode
    · exact .scrubPar
    · exact .scrubGroup
    · exact .cofferAcc
    · exact .cofferFold
    · exact .cofferRelease
    · exact .cofferSnap
    · exact .cofferLoad
    · exact .trussNop
  | sealU => exact .sealJob
  | cmpr =>
    unfold Machine.jobProgram
    dsimp only
    split
    · exact .zstdCompJob
    · exact .zstdDecompJob
    · exact .zstdDecompJob
    · exact .deflateJob
    · exact .cmprNop
  | hash => exact .hashJob
  | tender =>
    unfold Machine.jobProgram
    dsimp only
    split
    · exact .copyJob
    · exact .copyJob
    · exact .landSendJob
    · exact .slipFrameJob
    · exact .slipDataJob
    · exact .twinSendJob
    · exact .tenderNop

theorem advance_within (s : State) (e : Engine) (j : Job) (left : Option Nat) : (advance s e j left).2.within s.beyondJobs :=
  Keeps.jobProgram.at' _ _ ⟨rfl, rfl⟩

@[simp] theorem beyondJobs_cutJob (s : State) (e : Engine) (j : Job) : (cutJob e j s).beyondJobs = s.beyondJobs := by
  obtain ⟨-, h⟩ := advance_within s.drawn e j (some (s.freeWord.toNat % 2 ^ 21))
  unfold cutJob
  dsimp only
  exact ite_keeps (by simpa using h) (by simpa using h)

@[simp] theorem beyondJobs_cutPipe (i : SpanNo) (e : Engine) (side : Nat) (s : State) (pipe : Nat) :
    (cutPipe i e side s pipe).beyondJobs = s.beyondJobs := by
  unfold cutPipe
  dsimp only
  split
  · simp
  · split
    · rfl
    · exact ite_keeps (by simp [takeUp]) rfl

@[simp] theorem beyondJobs_cutSpan (s : State) (i : SpanNo) : (cutSpan s i).beyondJobs = s.beyondJobs := by
  refine ite_keeps rfl ((beyondJobs_modSpan ..).trans (ite_keeps ?_ rfl))
  exact foldl_keeps State.beyondJobs _ _ _ fun s e => foldl_keeps State.beyondJobs _ _ _ fun s side =>
    foldl_keeps State.beyondJobs _ _ _ fun s pipe => beyondJobs_cutPipe ..

/-- Cutting off every job changes no more than the jobs themselves could. -/
@[simp] theorem beyondJobs_cutJobs (s : State) : (cutJobs s).beyondJobs = s.beyondJobs :=
  foldl_keeps State.beyondJobs _ _ _ fun _ _ => beyondJobs_cutSpan ..

/-! ### The step's front command -/

/-- Settles O1: the step's own case for a queue with a command in front. -/
theorem stepRunsFrontCommand : Obligations.StepRunsFrontCommand := by
  intro s c rest h
  unfold step
  rw [h]

/-! ### What the ticks of the timebase leave alone -/

/-- The state with everything blanked out that a tick may touch besides the timebase: free values, logs, counters, and the records of
Spans, Ferries, Berths and the Gangway. -/
def State.beyondTicks (s : State) : State :=
  { s with free := 0, logs := Logs.reset, hregs := [], spans := [], ferries := [], berths := [], gw := Gangway.reset, cnts := [] }

theorem beyondTicks_of_coreKept {s t : State} (h : coreKept s t) : t.beyondTicks = s.beyondTicks := by
  obtain ⟨⟨h1, h2, h3, h4, h5, h6, h7, h8, h9, h10, -, h11, h12, h13, h14, h15, h16, -, -⟩, h17, h18, h19, -⟩ := h
  simp only [State.beyondTicks, h1, h2, h3, h4, h5, h6, h7, h8, h9, h10, h11, h12, h13, h14, h15, h16, h17, h18, h19]

theorem beyondTicks_countBerth (s : State) (b : BerthNo) (cls bit n : Nat) (a : Option Nat) :
    (countBerth s b cls bit n a).beyondTicks = s.beyondTicks := beyondTicks_of_coreKept (counted_countBerth ..).1

theorem beyondTicks_countTicks (s : State) (b : BerthNo) (n : Nat) : (countTicks s b n).beyondTicks = s.beyondTicks := by
  unfold countTicks
  have h := beyondTicks_countBerth s b 6 0 n none
  have h' := ite_keeps (p := ((countBerth s b 6 0 n none).ctx b).slack = true) ((beyondTicks_countBerth _ b 6 1 n none).trans h) h
  refine ite_keeps (ite_keeps ((beyondTicks_countBerth ..).trans h') ?_) h'
  exact (beyondTicks_countBerth ..).trans <| (beyondTicks_countBerth ..).trans <| (beyondTicks_countBerth ..).trans <|
    (beyondTicks_countBerth ..).trans h'

theorem beyondTicks_slackExpire (s : State) (b : BerthNo) : (slackExpire s b).beyondTicks = s.beyondTicks := ite_keeps rfl rfl

theorem beyondTicks_berthTicks (n : Nat) (s : State) (b : BerthNo) : (berthTicks n s b).beyondTicks = s.beyondTicks := by
  unfold berthTicks
  extract_lets x held stopped c c' x' t u d
  have hu : u.beyondTicks = s.beyondTicks := ite_keeps (beyondTicks_countTicks ..) rfl
  exact ite_keeps (ite_keeps hu ((beyondTicks_slackExpire ..).trans hu)) hu

theorem beyondTicks_countSpan (s : State) (i : SpanNo) (cls bit : Nat) (w : Who) (a : Option Nat) (n : Nat) :
    (countSpan s i cls bit w a n).beyondTicks = s.beyondTicks := beyondTicks_of_coreKept (quietly_countSpan ..).1

theorem beyondTicks_spanBusy (n : Nat) (s : State) (i : SpanNo) : (spanBusy n s i).beyondTicks = s.beyondTicks := by
  have busy : ∀ {p : Prop} [Decidable p] {t : State} {bit : Nat} {w : Who}, t.beyondTicks = s.beyondTicks →
      (if p then countSpan t i 5 bit w none n else t).beyondTicks = s.beyondTicks :=
    fun h => ite_keeps ((beyondTicks_countSpan ..).trans h) h
  exact busy <| busy <| busy <| busy <| busy <| busy <| busy <| busy rfl

/-- The timebase `n` ticks on. -/
def Timebase.after (t : Timebase) (n : Nat) : Timebase := { t with count := t.count + BitVec.ofNat 64 n, ticks := t.ticks + n }

/-- Ticks move the timebase on and change no more than ticks may. -/
theorem beyondTicks_passTicks (n : Nat) (s : State) (h : ticking s = true) :
    (passTicks n s).beyondTicks = { s with time := s.time.after n }.beyondTicks := by
  unfold passTicks
  by_cases hn : n = 0
  · subst hn
    simp [Timebase.after]
  · rw [if_pos (by simp [h, hn])]
    extract_lets t u v gw w x
    have hv : v.beyondTicks = u.beyondTicks := foldl_keeps State.beyondTicks _ _ _ fun _ _ => beyondTicks_berthTicks ..
    have hw : w.beyondTicks = u.beyondTicks := ite_keeps hv hv
    have hx : x.beyondTicks = w.beyondTicks :=
      foldl_keeps State.beyondTicks _ _ _ fun _ _ => ite_keeps (beyondTicks_spanBusy ..) rfl
    exact (beyondTicks_of_coreKept (quietly_countBlock ..).1).trans (hx.trans hw)

/-- After the wait for a deadline the clock has reached it, and nothing else has changed than what ticks may. -/
theorem passUntil_spec (start n : Nat) (s : State) (h : ticking s = true) :
    start + n ≤ (passUntil start n s).time.ticks ∧ (passUntil start n s).mem = s.mem ∧ (passUntil start n s).lc = s.lc
      ∧ (passUntil start n s).keys = s.keys ∧ (passUntil start n s).tamper = s.tamper := by
  have k := beyondTicks_passTicks (start + n - s.time.ticks) s h
  unfold passUntil
  refine ⟨?_, (congrArg State.mem k :), (congrArg State.lc k :), (congrArg State.keys k :), (congrArg State.tamper k :)⟩
  have : (passTicks (start + n - s.time.ticks) s).time.ticks = s.time.ticks + (start + n - s.time.ticks) := congrArg (·.time.ticks) k
  omega

/-! ### The timebase -/

/-- What holds after one step of a fold, and is kept by every further one, holds after the fold. -/
theorem foldl_reaches {α : Type} {P : State → Prop} (h : State → α → State) {l : List α} (s : State) {a : α} (ha : a ∈ l)
    (keep : ∀ s a, P s → P (h s a)) (hit : ∀ s, P (h s a)) : P (l.foldl h s) := by
  induction l generalizing s with
  | nil => cases ha
  | cons x l ih =>
    rcases List.mem_cons.mp ha with rfl | ha
    · exact List.foldlRecOn l h (hit s) fun s hs x _ => keep s x hs
    · exact ih (h s x) ha

theorem Table.exists_mem_of_has {α : Type} {t : Table α} {k : Nat} (h : Table.has t k = true) : ∃ e ∈ t, e.1 = k := by
  induction t with
  | nil => cases h
  | cons e t ih =>
    by_cases he : e.1 = k
    · exact ⟨e, List.mem_cons_self, he⟩
    · obtain ⟨x, hx, hk⟩ := ih (by simpa [Table.has, he] using h)
      exact ⟨x, List.mem_cons_of_mem _ hx, hk⟩

theorem berthOf_val (b : BerthNo) : berthOf b.val = b := Fin.ext (Nat.mod_eq_of_lt b.isLt)

theorem slackExpire_self (s : State) (b : BerthNo) : ((slackExpire s b).ctx b).slack = false := by
  unfold slackExpire
  dsimp only
  split
  · simp
  · next h => simpa using h

theorem slackExpire_keeps (s : State) (a b : BerthNo) (h : (s.ctx b).slack = false) : ((slackExpire s a).ctx b).slack = false := by
  by_cases hab : b = a
  · exact hab ▸ slackExpire_self s a
  · unfold slackExpire
    dsimp only
    split
    · simpa [State.ctx, State.setCtx, State.berth_setBerth_ne _ _ hab] using h
    · exact h

theorem timebaseLost_ends_slack (s : State) (h : ticking s = true) :
    ∃ t, exec .timebaseLost s = .next t ∧ t.time = { s.time with lost := true } ∧ t.mem = s.mem
      ∧ ∀ b, Table.has s.berths b.val = true → (t.ctx b).slack = false := by
  let u := s.berths.foldl (fun s e => slackExpire s (berthOf e.1)) { s with time := { s.time with lost := true } }
  have hu : u.beyondTicks = { s with time := { s.time with lost := true } }.beyondTicks :=
    foldl_keeps State.beyondTicks _ _ _ fun _ _ => beyondTicks_slackExpire ..
  have hr := (beyondTicks_of_coreKept (quietly_raiseAny u 1344).1).trans hu
  refine ⟨raiseAny u 1344, if_pos h, (congrArg State.time hr :), (congrArg State.mem hr :), fun b hb => ?_⟩
  obtain ⟨e, he, hk⟩ := Table.exists_mem_of_has hb
  have hs : (u.ctx b).slack = false :=
    foldl_reaches (P := fun s => (s.ctx b).slack = false) _ _ he (fun s e => slackExpire_keeps s (berthOf e.1) b) fun s => by
      rw [hk, berthOf_val]
      exact slackExpire_self s b
  have hb : (raiseAny u 1344).berths = u.berths := (quietly_raiseAny u 1344).2
  unfold State.ctx State.berth at hs ⊢
  rw [hb]
  exact hs

theorem timebaseLoad_takes_armed (s : State) (v : W64) (ha : s.time.armed = some v) (h : ticking s = true) :
    ∃ t, exec .timebaseLoad s = .next t ∧ t.time.count = v ∧ t.time.armed = none ∧ t.mem = s.mem := by
  have hk := beyondTicks_passTicks 1 { s with time := { s.time with count := v - 1, armed := none } } h
  refine ⟨passTicks 1 { s with time := { s.time with count := v - 1, armed := none } }, ?_,
    (congrArg (·.time.count) hk).trans (BitVec.sub_add_cancel v 1), (congrArg (·.time.armed) hk :), (congrArg State.mem hk :)⟩
  show execTimebaseLoad s = _
  simp [execTimebaseLoad, ha, h]

/-! ### The key port -/

/-- All bytes of a number are `c` only for the one number that has these bytes. -/
theorem bytesOfNat_all (n v : Nat) (c : Byte) :
    (bytesOfNat n v).all (· == c) = true ↔ v % 256 ^ n = natOfBytes (List.replicate n c) := by
  induction n generalizing v with
  | zero => simp [bytesOfNat, natOfBytes, Nat.mod_one]
  | succ n ih =>
    have hc := c.isLt
    have hv : v % 256 ^ (n + 1) = v % 256 + 256 * (v / 256 % 256 ^ n) := by rw [Nat.pow_succ', Nat.mod_mul]
    have h0 : BitVec.ofNat 8 v = c ↔ v % 256 = c.toNat := by rw [← BitVec.toNat_inj, BitVec.toNat_ofNat]
    rw [hv, bytesOfNat, List.all_cons, Bool.and_eq_true, ih, beq_iff_eq, h0, List.replicate_succ, natOfBytes]
    omega

theorem kp_all_zeros (k : BitVec 256) : (bytesOfNat 32 k.toNat).all (· == 0) = true ↔ k = 0 := by
  rw [bytesOfNat_all, Nat.mod_eq_of_lt (show k.toNat < 256 ^ 32 from k.isLt), ← BitVec.toNat_inj]
  exact Iff.rfl

theorem kp_all_ones (k : BitVec 256) : (bytesOfNat 32 k.toNat).all (· == 0xFF) = true ↔ k = BitVec.allOnes 256 := by
  rw [bytesOfNat_all, Nat.mod_eq_of_lt (show k.toNat < 256 ^ 32 from k.isLt), ← BitVec.toNat_inj]
  exact Iff.rfl

@[simp] theorem slot_loadSlot (s : State) (n kind : Nat) (id : W64) (key : List Byte) (m : Bool) :
    (loadSlot s n kind id key m).slot n =
      { s.slot n with st := .loaded, kind := kind, keyId := id, key := key, erec := none, mirrored := m } :=
  Table.get_put_self _ _ _ _

theorem slot_loadSlot_ne (s : State) {n a : Nat} (kind : Nat) (id : W64) (key : List Byte) (m : Bool) (h : a ≠ n) :
    (loadSlot s n kind id key m).slot a = s.slot a := Table.get_put_ne _ _ _ h

theorem keyInTransfer_takes_kp (s : State) (k : BitVec 256) (hw : s.keys.kpWait = true) (hp : s.power.good = true) :
    ∃ t, exec (.keyInTransfer k) s = .next t ∧ t.keys.kpWait = false ∧ t.keys.kpTaken = true
      ∧ (k = 0 ∨ k = BitVec.allOnes 256 ∨ s.lc.state = 4 → t.keys.slots = s.keys.slots)
      ∧ (k ≠ 0 → k ≠ BitVec.allOnes 256 → s.lc.state ≠ 4 →
          (t.slot 0).key = kmac256 (bytesOfNat 32 k.toNat) [] 32 (asciiBytes "PHIRA-SRK") ∧ (t.slot 0).kind = 1 ∧ (t.slot 0).st = .loaded
          ∧ (t.slot 1).key = kmac256 (t.slot 0).key (asciiBytes "IMAGE") 32 (asciiBytes "PHIRA-IMG") ∧ (t.slot 1).kind = 5) := by
  have he : exec (.keyInTransfer k) s = .next (takeKp s (bytesOfNat 32 k.toNat)) := by
    show execKeyInTransfer k s = _
    simp [execKeyInTransfer, hw, hp]
  refine ⟨_, he, ?_⟩
  unfold takeKp
  simp only [Bool.or_eq_true, kp_all_zeros, kp_all_ones, beq_iff_eq]
  split
  · next h => exact ⟨rfl, rfl, fun _ => rfl, fun h0 h1 h4 => h.elim (Or.elim · (absurd · h0) (absurd · h1)) (absurd · h4)⟩
  · next h =>
    refine ⟨rfl, rfl, fun h' => absurd h' (by rwa [← or_assoc]), fun _ _ _ => ?_⟩
    rw [slot_loadSlot_ne _ _ _ _ _ Nat.zero_ne_one, slot_loadSlot, slot_loadSlot]
    exact ⟨rfl, rfl, rfl, rfl, rfl⟩

theorem keyInTimeout_gives_up (s : State) (hw : s.keys.kpWait = true) (h : ticking s = true) :
    ∃ t, exec .keyInTimeout s = .next t ∧ t.keys = { s.keys with kpWait := false } ∧ t.mem = s.mem := by
  obtain ⟨hd, hm, -, hk, -⟩ := passUntil_spec s.keys.since 1000000 s h
  have he : exec .keyInTimeout s = .next { passUntil s.keys.since 1000000 s with
      keys := { (passUntil s.keys.since 1000000 s).keys with kpWait := false } } := by
    show execKeyInTimeout s = _
    simp only [execKeyInTimeout, hw, hk, hd, if_true]
  exact ⟨_, he, congrArg (fun x : Keystone => { x with kpWait := false }) hk, hm⟩

/-! ### Life-cycle changes and their OTP writes -/

/-- LC_STAT.last as an event 1,364 with these flags leaves it. -/
def State.lcNoted (s : State) (flags : Nat) : State :=
  { s with lc := { s.lc with last := BitVec.ofNat 8 (flags + s.lc.state.toNat) } }

theorem beyondTicks_raise (s : State) (src code : Nat) : (raise s src code).beyondTicks = s.beyondTicks :=
  beyondTicks_of_coreKept (quietly_raise ..).1

theorem beyondTicks_raiseAny (s : State) (src : Nat) : (raiseAny s src).beyondTicks = s.beyondTicks :=
  beyondTicks_of_coreKept (quietly_raiseAny ..).1

theorem beyondTicks_lcEvent (s : State) (flags : Nat) : (lcEvent s flags).beyondTicks = s.beyondTicks.lcNoted flags :=
  beyondTicks_raise (s.lcNoted flags) 1364 _

/-- The events that a life-cycle word's write ends with: an event of any code, then 1,364. -/
theorem beyondTicks_lcEvent_raiseAny (s : State) (src flags : Nat) :
    (lcEvent (raiseAny s src) flags).beyondTicks = (s.lcNoted flags).beyondTicks := by
  rw [beyondTicks_lcEvent, beyondTicks_raiseAny]
  rfl

/-- A block reset with a life-cycle change latched ends at the OTP write of the change. -/
theorem beyondTicks_blockReset_latched {s : State} {t : BitVec 3} (cause : Nat) (h : s.lc.latch = some t) :
    (blockReset s cause).beyondTicks =
      (otpStart (lcSettle (resetState s false cause)) [(.lifeCycle, 0x2F + t.toNat, 0xFFFFFFFF)]).beyondTicks := by
  have hr := beyondTicks_raiseAny (lcSettle (resetState s false cause)) 1370
  have hc : (cutJobs s).lc.latch = s.lc.latch := (congrArg (·.lc.latch) (beyondJobs_cutJobs s) :)
  have hl : (raiseAny (lcSettle (resetState s false cause)) 1370).lc.latch = some t :=
    ((congrArg (·.lc.latch) hr).trans hc).trans h
  unfold blockReset startSequence
  dsimp only
  rw [hl]
  exact congrArg (otpStart · [(.lifeCycle, 0x2F + t.toNat, 0xFFFFFFFF)]) hr

/-- What the block reset of a life-cycle change leaves. -/
theorem blockReset_latched (s : State) (t : BitVec 3) (h : s.lc.latch = some t) :
    let u := blockReset s 6
    u.lc.latch = some t ∧ u.lc.pinNext = s.lc.pinNext ∧ u.lc.req = s.lc.req ∧ (s.ent.st = .locked → u.ent.st = .locked)
      ∧ u.lc.writes = [(.lifeCycle, 0x2F + t.toNat, 0xFFFFFFFF)] ∧ u.rstCause = 6 ∧ ∀ n, (u.slot n).st = .empty := by
  intro u
  have hu : u.beyondTicks = _ := beyondTicks_blockReset_latched 6 h
  have hlc : (cutJobs s).lc = s.lc := (congrArg State.lc (beyondJobs_cutJobs s) :)
  have hent : (cutJobs s).ent = s.ent := (congrArg State.ent (beyondJobs_cutJobs s) :)
  refine ⟨((congrArg (·.lc.latch) hu).trans (congrArg (·.latch) hlc)).trans h,
    (congrArg (·.lc.pinNext) hu).trans (congrArg (·.pinNext) hlc), (congrArg (·.lc.req) hu).trans (congrArg (·.req) hlc),
    fun hk => ?_, (congrArg (·.lc.writes) hu :), (congrArg State.rstCause hu :), fun n => (congrArg (fun s => (s.slot n).st) hu :)⟩
  exact (congrArg (·.ent.st) hu).trans (if_pos ⟨rfl, by rw [hent, hk]⟩)

theorem no_wake {s : State} {t : BitVec 3} (h : isMoored s = false ∨ t ≠ s.lc.state) : (isMoored s && t == s.lc.state) = false := by
  rcases h with h | h <;> simp [h]

theorem lifeCycleChange_illegal (s : State) (t l : BitVec 3) (hp : s.power.good = true) (hm : isMoored s = false ∨ t ≠ s.lc.state)
    (h : lcLegal s t = false) :
    ∃ u, exec (.lifeCycleChange t l) s = .next u ∧ u.lc.last = BitVec.ofNat 8 (0x80 + s.lc.state.toNat)
      ∧ u.lc.state = s.lc.state ∧ u.lc.latch = s.lc.latch ∧ u.mem = s.mem := by
  have he := beyondTicks_lcEvent s 0x80
  refine ⟨lcEvent s 0x80, ?_, (congrArg (·.lc.last) he :), (congrArg (·.lc.state) he :), (congrArg (·.lc.latch) he :),
    (congrArg State.mem he :)⟩
  show execLifeCycleChange t l s = _
  have hm' := no_wake hm
  simp [execLifeCycleChange, hp, hm', h]

theorem lifeCycleChange_legal (s : State) (t l : BitVec 3) (hp : s.power.good = true) (hm : isMoored s = false ∨ t ≠ s.lc.state)
    (h : lcLegal s t = true) :
    ∃ u, exec (.lifeCycleChange t l) s = .next u ∧ u.lc.latch = some t ∧ u.lc.pinNext = l ∧ u.lc.req = true
      ∧ (s.power.st ≠ .laidUp → (s.ent.st = .locked → u.ent.st = .locked)
          ∧ u.lc.writes = [(.lifeCycle, 0x2F + t.toNat, 0xFFFFFFFF)] ∧ u.rstCause = 6 ∧ ∀ n, (u.slot n).st = .empty) := by
  let v : State := { s with lc := { s.lc with latch := some t, pinNext := l, req := true } }
  have hv : exec (.lifeCycleChange t l) s = .next (if s.power.st == .laidUp then v else blockReset v 6) := by
    show execLifeCycleChange t l s = _
    have hm' := no_wake hm
    simp [execLifeCycleChange, hp, hm', h, v]
  refine ⟨_, hv, ?_⟩
  split
  · next h' => exact ⟨rfl, rfl, rfl, fun hn => absurd (eq_of_beq h') hn⟩
  · obtain ⟨hlatch, hpin, hreq, hrest⟩ := blockReset_latched v t rfl
    exact ⟨hlatch, hpin, hreq, fun _ => hrest⟩

theorem lifeCycleChange_wakes (s : State) (t l : BitVec 3) (hp : s.power.good = true) (hm : isMoored s = true) (ht : t = s.lc.state) :
    exec (.lifeCycleChange t l) s = exec .wake s := by
  show execLifeCycleChange t l s = execWake s
  simp [execLifeCycleChange, execWake, hp, hm, ht]

/-- A write that fails takes the others of its job with it and shows in the job's error bit; that of a life-cycle word ends the change. -/
theorem otpFail_spec (s : State) (j : OtpJob) :
    (∀ w ∈ (otpFail s j).lc.writes, w.1 ≠ j) ∧ (j ≠ .lifeCycle → (otpFail s j).ldr.otpErr = true)
      ∧ (j = .lifeCycle → (otpFail s j).lc.otpErr = true ∧ (otpFail s j).lc.latch = none
          ∧ (otpFail s j).lc.last = BitVec.ofNat 8 (0xC0 + s.lc.state.toNat) ∧ (otpFail s j).power.st = .underWay
          ∧ (otpFail s j).lc.req = false) := by
  have hw : ∀ w ∈ s.lc.writes.filter fun w => decide (w.1 ≠ j), w.1 ≠ j := fun w hw => by simpa using (List.mem_filter.mp hw).2
  unfold otpFail
  extract_lets _ u
  split
  · let v : State := { u with lc := { u.lc with latch := none, otpErr := true } }
    have hv := beyondTicks_lcEvent_raiseAny v 1365 0xC0
    have hl : (lcEvent (raiseAny v 1365) 0xC0).lc = (v.lcNoted 0xC0).lc := (congrArg State.lc hv :)
    refine ⟨?_, fun h => absurd rfl h, fun _ => ⟨(congrArg (·.otpErr) hl :), (congrArg (·.latch) hl :), (congrArg (·.last) hl :), rfl, rfl⟩⟩
    show ∀ w ∈ (lcEvent (raiseAny v 1365) 0xC0).lc.writes, _
    rw [hl]
    exact hw
  · next h => exact ⟨hw, fun _ => rfl, fun h' => absurd h' h⟩

theorem otpWord_written (s : State) (a k : Nat) (r : W32) :
    ({ s with lc := { s.lc with otp := Table.put s.lc.otp a r } } : State).otpWord k = if k = a then r else s.otpWord k := by
  split
  · next h => exact h ▸ Table.get_put_self 0 r s.lc.otp k
  · next h => exact Table.get_put_ne 0 r s.lc.otp h

section Otp
variable {s : State} {j : OtpJob} {a : Nat} {v : W32} {rest : List (OtpJob × Nat × W32)}

theorem otpAck_settles {r : W32} (h : s.lc.writes = (j, a, v) :: rest) (hr : r &&& v = v) :
    ∃ t, exec (.otpAck r) s = .next t ∧ t.otpWord a = r ∧ (∀ k, k ≠ a → t.otpWord k = s.otpWord k) ∧ t.lc.writes = rest
      ∧ (j ≠ .lifeCycle → t.lc.latch = s.lc.latch ∧ t.mem = s.mem)
      ∧ (j = .lifeCycle → t.lc.latch = none ∧ t.lc.pin = s.lc.pinNext ∧ t.power.st = .underWay ∧ t.keys.kpWait = !s.tamper.hold) := by
  let u : State := otpNext { s with lc := { s.lc with otp := Table.put s.lc.otp a r } }
  have hu : ∀ k, u.otpWord k = if k = a then r else s.otpWord k := fun k => otpWord_written s a k r
  have hw : u.lc.writes = rest := congrArg (List.drop 1) h
  by_cases hj : j = .lifeCycle
  · subst hj
    let x := lcSettle { u with lc := { u.lc with pin := u.lc.pinNext, latch := none } }
    have hx := beyondTicks_lcEvent_raiseAny x 1365 0
    have he : exec (.otpAck r) s = .next (startEnd (lcEvent (raiseAny x 1365) 0)) := by
      show execOtpAck r s = _
      simp [execOtpAck, h, hr, x, u]
    have ho : ∀ k, (startEnd (lcEvent (raiseAny x 1365) 0)).otpWord k = u.otpWord k := fun k => (congrArg (·.otpWord k) hx :)
    refine ⟨_, he, by simp [ho, hu], fun k hk => by simp [ho, hu, hk], (congrArg (·.lc.writes) hx).trans hw, fun h => absurd rfl h,
      fun _ => ⟨(congrArg (·.lc.latch) hx :), (congrArg (·.lc.pin) hx :), rfl, (congrArg (!·.tamper.hold) hx :)⟩⟩
  · have he : exec (.otpAck r) s = .next { u with ldr := { u.ldr with otpErr := false } } := by
      show execOtpAck r s = _
      cases j <;> simp_all [execOtpAck, u]
    exact ⟨_, he, (hu a).trans (if_pos rfl), fun k hk => (hu k).trans (if_neg hk), hw, fun _ => ⟨rfl, rfl⟩, fun h => absurd h hj⟩

theorem otpAck_fails {r : W32} (h : s.lc.writes = (j, a, v) :: rest) (hr : r &&& v ≠ v) :
    ∃ u : State, u.lc.state = s.lc.state ∧ exec (.otpAck r) s = .next (otpFail u j) := by
  refine ⟨{ s with lc := { s.lc with otp := Table.put s.lc.otp a r } }, rfl, ?_⟩
  show execOtpAck r s = _
  simp [execOtpAck, h, hr]

theorem otpTimeout_fails (h : s.lc.writes = (j, a, v) :: rest) (ht : ticking s = true) :
    ∃ u : State, u.lc.state = s.lc.state ∧ exec .otpTimeout s = .next (otpFail u j) := by
  obtain ⟨hd, -, hl, -, -⟩ := passUntil_spec s.lc.since 10000000 s ht
  refine ⟨passUntil s.lc.since 10000000 s, congrArg _ hl, ?_⟩
  show execOtpTimeout s = _
  simp [execOtpTimeout, h, hl, hd]

end Otp

/-! ### The tamper response -/

/-! #### Ferries that are halted stay halted -/

/-- A Ferry that is halted is so in `t` too. -/
def haltsKept (f : FerryNo) (s t : State) : Prop := (s.ferry f).halt = .halted → (t.ferry f).halt = .halted

theorem haltsKept_foldl {α : Type} {f : FerryNo} (h : State → α → State) (l : List α) (s : State) (k : ∀ s a, haltsKept f s (h s a)) :
    haltsKept f s (l.foldl h s) := fun hs => List.foldlRecOn l h hs fun s hs a _ => k s a hs

theorem haltsKept_haltFerry (f g : FerryNo) (s : State) (c : Nat) : haltsKept f s (haltFerry s g c) := by
  intro h
  unfold haltFerry
  dsimp only
  split
  · exact h
  · next hg =>
    have hne : f ≠ g := fun e => hg (.inr (by simp [← e, h]))
    rwa [State.ferry_setFerry_ne _ _ hne]

theorem haltsKept_haltGroups (f : FerryNo) (s : State) (gs : List Nat) (m o : Nat) : haltsKept f s (haltGroups s gs none m o) := by
  intro h
  have hf := haltsKept_foldl (fun s g => haltFerry s g o) (xtMembers s (gs.filter fun g => tb (xtCtl s g) 0)) s
    (fun s g => haltsKept_haltFerry f g s o) h
  unfold haltGroups
  dsimp only
  split
  · exact hf
  · exact hf

theorem ferries_fileEvent (s : State) (src code : Nat) : (fileEvent s src code).ferries = s.ferries := ite_keeps rfl rfl

theorem ferries_addCnt (s : State) (o n : Nat) : (addCnt s o n).1.ferries = s.ferries := by
  unfold addCnt
  dsimp only
  split <;> rfl

theorem haltsKept_of_ferries {f : FerryNo} {s t u : State} (h : haltsKept f s t) (e : u.ferries = t.ferries) : haltsKept f s u := by
  intro hs
  have := h hs
  unfold State.ferry at this ⊢
  rwa [e]

theorem haltsKept_countBlk (f : FerryNo) (fuel cls bit n : Nat) (s : State) : haltsKept f s (countBlk fuel cls bit n s) := by
  induction fuel generalizing cls bit n s with
  | zero => exact id
  | succ m ih =>
    unfold countBlk
    refine haltsKept_foldl _ _ _ fun s k => ?_
    dsimp only
    split
    · have ha : haltsKept f s (addCnt s (0x500008 + 16 * k) n).1 := haltsKept_of_ferries (t := s) id (ferries_addCnt ..)
      generalize addCnt s (0x500008 + 16 * k) n = r at ha ⊢
      obtain ⟨t, w⟩ := r
      dsimp only at ha ⊢
      split
      · have hu : haltsKept f s (if tb (s.hreg (0x500008 + 16 * k - 8)) 61 then countBlk m 6 4 1 (fileEvent t 1368 k) else t) := by
          split
          · exact fun h => ih _ _ _ _ (haltsKept_of_ferries ha (ferries_fileEvent ..) h)
          · exact ha
        generalize (if tb (s.hreg (0x500008 + 16 * k - 8)) 61 then countBlk m 6 4 1 (fileEvent t 1368 k) else t) = u at hu ⊢
        split
        · exact fun h => ih _ _ _ _ (ih _ _ _ _
            (haltsKept_of_ferries (haltsKept_haltGroups f u _ 5 5) (ferries_fileEvent (State.drawn _) ..) (hu h)))
        · exact hu
      · exact ha
    · exact id

theorem haltsKept_raise (f : FerryNo) (s : State) (src code : Nat) : haltsKept f s (raise s src code) := by
  unfold raise
  split
  · exact fun h => haltsKept_countBlk f 9 6 4 1 _ (haltsKept_of_ferries (t := s) id (ferries_fileEvent ..) h)
  · exact id

theorem haltsKept_raiseAny (f : FerryNo) (s : State) (src : Nat) : haltsKept f s (raiseAny s src) := haltsKept_raise f s.drawn src _

/-! #### The steps of the response -/

/-- One Ferry's part of `haltAll`. -/
def haltedByTamper (s : State) (f : FerryNo) : State :=
  if (s.ferry f).agr.aground then s
  else s.modFerry f fun y => { y with halt := .halted, step := false, stepMask := false }

theorem haltAll_eq (s : State) : haltAll s = allFerries.foldl haltedByTamper s := rfl

theorem haltedByTamper_self (s : State) (f : FerryNo) :
    ((haltedByTamper s f).ferry f).agr.aground = true ∨ ((haltedByTamper s f).ferry f).halt = .halted := by
  unfold haltedByTamper
  split
  · next h => exact .inl h
  · simp

theorem agr_haltedByTamper (s : State) (f g : FerryNo) : ((haltedByTamper s g).ferry f).agr = (s.ferry f).agr := by
  unfold haltedByTamper
  split
  · rfl
  · by_cases h : f = g
    · subst h
      simp
    · rw [State.modFerry, State.ferry_setFerry_ne _ _ h]

theorem haltsKept_haltedByTamper (f g : FerryNo) (s : State) : haltsKept f s (haltedByTamper s g) := by
  intro hs
  unfold haltedByTamper
  split
  · exact hs
  · by_cases h : f = g
    · subst h
      simp
    · rwa [State.modFerry, State.ferry_setFerry_ne _ _ h]

theorem haltAll_halts (s : State) (f : FerryNo) (h : (s.ferry f).agr.aground = false) : ((haltAll s).ferry f).halt = .halted := by
  have hf : f ∈ allFerries := List.mem_finRange f
  rw [haltAll_eq]
  have ha : ((allFerries.foldl haltedByTamper s).ferry f).agr = (s.ferry f).agr :=
    foldl_keeps (fun s => (s.ferry f).agr) haltedByTamper _ s fun s g => agr_haltedByTamper s f g
  have hr := foldl_reaches (P := fun s => (s.ferry f).agr.aground = true ∨ (s.ferry f).halt = .halted) haltedByTamper s hf
    (fun s g => Or.imp (agr_haltedByTamper s f g ▸ ·) (haltsKept_haltedByTamper f g s)) fun s => haltedByTamper_self s f
  rw [ha, h] at hr
  exact hr.resolve_left Bool.false_ne_true

theorem beyondJobs_haltAll (s : State) : (haltAll s).beyondJobs = s.beyondJobs :=
  foldl_keeps State.beyondJobs haltedByTamper _ s fun _ _ => ite_keeps rfl rfl

/-- No unit of Span `i` has a job. -/
def State.idleSpan (s : State) (i : SpanNo) : Prop := ∀ e, ((s.span i).unit e).jobs = []

theorem Table.get_of_all {α : Type} (P : α → Prop) {d : α} {t : Table α} (k : Nat) (hd : P d) (h : ∀ e ∈ t, P e.2) :
    P (Table.get d t k) := by
  induction t with
  | nil => exact hd
  | cons e t ih =>
    unfold Table.get
    split
    · exact h _ List.mem_cons_self
    · exact ih fun x hx => h x (List.mem_cons_of_mem _ hx)

theorem cutSpan_idle (s : State) (i : SpanNo) : (cutSpan s i).idleSpan i := by
  intro e
  unfold cutSpan
  split
  · next h => exact Table.get_of_all (fun u : UnitSched => u.jobs = []) _ rfl fun u hu => by simpa using List.all_eq_true.mp h u hu
  · rw [State.span_modSpan]
    refine Table.get_of_all (fun u : UnitSched => u.jobs = []) _ rfl fun u hu => ?_
    obtain ⟨v, -, rfl⟩ := List.mem_map.mp hu
    rfl

/-- While the units stand still, cutting off a Span's jobs runs none of them. -/
theorem cutSpan_still {s : State} (i : SpanNo) (h : unitsRun s = false) :
    (cutSpan s i).ferries = s.ferries ∧ ∀ k, k ≠ i → (cutSpan s i).span k = s.span k := by
  unfold cutSpan
  split
  · exact ⟨rfl, fun _ _ => rfl⟩
  · rw [h]
    exact ⟨rfl, fun k hk => State.span_setSpan_ne s _ hk⟩

/-- Whether the units run hangs on nothing that a job changes. -/
theorem unitsRun_of_beyondJobs {s t : State} (h : s.beyondJobs = t.beyondJobs) : unitsRun s = unitsRun t := (congrArg unitsRun h :)

theorem unitsRun_cutSpan (s : State) (i : SpanNo) : unitsRun (cutSpan s i) = unitsRun s :=
  unitsRun_of_beyondJobs (beyondJobs_cutSpan s i)

theorem spanOf_val (i : SpanNo) : spanOf i.val = i := Fin.ext (Nat.mod_eq_of_lt i.isLt)

theorem Table.get_of_not_has {α : Type} (d : α) {t : Table α} {k : Nat} (h : Table.has t k ≠ true) : Table.get d t k = d := by
  induction t with
  | nil => rfl
  | cons e t ih =>
    by_cases he : e.1 = k
    · exact absurd (by simp [Table.has, he]) h
    · simp only [Table.has, he, if_false] at h
      simp only [Table.get, he, if_false]
      exact ih h

theorem cutJobs_ferries {s : State} (h : unitsRun s = false) : (cutJobs s).ferries = s.ferries := by
  have hf : unitsRun (cutJobs s) = false ∧ (cutJobs s).ferries = s.ferries :=
    List.foldlRecOn (motive := fun t => unitsRun t = false ∧ t.ferries = s.ferries) s.spans (fun t x => cutSpan t (spanOf x.1)) ⟨h, rfl⟩
      fun t ht x _ => ⟨(unitsRun_cutSpan ..).trans ht.1, (cutSpan_still _ ht.1).1.trans ht.2⟩
  exact hf.2

theorem idleSpan_cutSpan {s : State} {i : SpanNo} (k : SpanNo) (h : unitsRun s = true ∨ s.idleSpan i) :
    unitsRun (cutSpan s k) = true ∨ (cutSpan s k).idleSpan i := by
  rw [unitsRun_cutSpan]
  cases hr : unitsRun s with
  | true => exact .inl rfl
  | false =>
    right
    by_cases hk : i = k
    · exact hk ▸ cutSpan_idle s i
    · have hi : s.idleSpan i := h.resolve_left (by simp [hr])
      unfold State.idleSpan
      rw [(cutSpan_still k hr).2 i hk]
      exact hi

theorem cutJobs_idle {s : State} (h : unitsRun s = false) (i : SpanNo) : (cutJobs s).idleSpan i := by
  have hr : unitsRun (cutJobs s) = false := (unitsRun_of_beyondJobs (beyondJobs_cutJobs s)).trans h
  have keep : ∀ (t : State) (x : Nat × Span), unitsRun t = true ∨ t.idleSpan i →
      unitsRun (cutSpan t (spanOf x.1)) = true ∨ (cutSpan t (spanOf x.1)).idleSpan i := fun t x => idleSpan_cutSpan _
  have hc : unitsRun (cutJobs s) = true ∨ (cutJobs s).idleSpan i := by
    by_cases hi : Table.has s.spans i.val = true
    · obtain ⟨x, hx, hk⟩ := Table.exists_mem_of_has hi
      refine foldl_reaches (P := fun t => unitsRun t = true ∨ t.idleSpan i) _ s hx keep fun t => .inr ?_
      rw [hk, spanOf_val]
      exact cutSpan_idle t i
    · have hn : s.idleSpan i := fun e => by
        rw [State.span, Table.get_of_not_has _ hi]
        rfl
      exact List.foldlRecOn (motive := fun t => unitsRun t = true ∨ t.idleSpan i) s.spans _ (.inr hn) fun t ht x _ => keep t x ht
  rw [hr] at hc
  exact hc.resolve_left Bool.false_ne_true

/-- Once the pairing has been stopped, it is Broken if it was anything. -/
theorem viaStop_broken (s : State) (h : s.via.st ≠ .unpaired) : (viaStop s).via.st = .broken := by
  unfold viaStop pairingAlive
  split
  · rfl
  · next hp => simpa [h] using hp

/-- The state with memory and the marks on it blanked out. -/
def State.beyondMem (s : State) : State := { s with mem := [], poison := [], soft := [] }

theorem beyondMem_clearSecure (s : State) : (clearSecure s).beyondMem = s.beyondMem := foldl_keeps State.beyondMem _ _ _ fun _ _ => rfl

/-- Every byte of the secure partitions reads 0 once they have been cleared. -/
theorem clearSecure_zero (s : State) (i : SpanNo) {a : Nat} (hl : pontoonBase i + 0x600000 ≤ a) (hh : a < pontoonBase i + 0x800000) :
    memGet (clearSecure s).mem a = 0 := by
  have hi : i ∈ allSpans := List.mem_finRange i
  refine foldl_reaches (P := fun s => memGet s.mem a = 0) _ s hi (fun t k ht => ?_) fun t => ?_
  · exact (memGet_memClear ..).trans (by rw [ht]; exact ite_self _)
  · exact (memGet_memClear ..).trans (if_pos ⟨hl, hh⟩)

/-- What `tamperWipe` does outside memory: the Keystone and the DRBG. -/
def State.wiped (s : State) : State :=
  { keystoneWipe s with ent := { s.ent with
    st := if s.ent.st = .locked then .locked else .stopped, key := [], v := [], served := 0, seed := none, gather := []
    waits := [], dead := true } }

theorem beyondMem_tamperWipe (s : State) : (tamperWipe s).beyondMem = s.wiped.beyondMem := beyondMem_clearSecure s.wiped

/-- The state with the tamper hold set and the time of the first cause. -/
def State.tamperHeld (s : State) (mark : Tamper → Tamper) : State :=
  { s with tamper := { mark s.tamper with hold := true, time := s.time.count } }

/-- The hold once set, a further cause is marked and nothing else happens (R460). -/
theorem tamper_again {s : State} (c : Nat) (mark : Tamper → Tamper) (h : s.tamper.hold = true) :
    tamper s c mark = { s with tamper := mark s.tamper } := by
  simp [tamper, h]

/-- The response of a block that runs, before its events. -/
def tamperStop (s : State) : State := tamperWipe (viaStop (cutJobs (haltAll s)))

/-- The events of the response. -/
def tamperEvents (c : Nat) (s : State) : State := raise (raiseAny (raiseAny s 1370) 1365) 1347 c

theorem quietly_tamperEvents (c : Nat) (s : State) : Quietly s (tamperEvents c s) :=
  ((quietly_raiseAny ..).trans (quietly_raiseAny ..)).trans (quietly_raise ..)

theorem haltsKept_tamperEvents (f : FerryNo) (c : Nat) (s : State) : haltsKept f s (tamperEvents c s) :=
  fun h => haltsKept_raise _ _ _ _ (haltsKept_raiseAny _ _ _ (haltsKept_raiseAny _ _ _ h))

/-- The response to the first cause by power state (R461, R463). -/
theorem tamper_cases {s : State} (c : Nat) (mark : Tamper → Tamper) (h : s.tamper.hold = false) :
    tamper s c mark = if s.power.st = .laidUp ∧ s.power.emul = 0 then s.tamperHeld mark
      else if s.power.st = .moored ∧ s.power.emul = 0 then
        tamperWipe { s.tamperHeld mark with tamper := { (s.tamperHeld mark).tamper with owed := some c } }
      else tamperEvents c (tamperStop (s.tamperHeld mark)) := by
  simp only [tamper, h, tamperEvents, tamperStop, State.tamperHeld]
  rfl

/-- States that agree beyond memory agree in each of these. -/
theorem beyondMem_parts {s t : State} (h : s.beyondMem = t.beyondMem) :
    s.tamper = t.tamper ∧ s.keys = t.keys ∧ s.ent = t.ent ∧ s.via = t.via ∧ s.spans = t.spans ∧ s.ferries = t.ferries :=
  ⟨(congrArg State.tamper h :), (congrArg State.keys h :), (congrArg State.ent h :), (congrArg State.via h :),
    (congrArg State.spans h :), (congrArg State.ferries h :)⟩

theorem spans_viaStop (s : State) : (viaStop s).spans = s.spans := ite_keeps rfl rfl

theorem ferries_viaStop (s : State) : (viaStop s).ferries = s.ferries := ite_keeps rfl rfl

theorem tamper_viaStop (s : State) : (viaStop s).tamper = s.tamper := ite_keeps rfl rfl

theorem unitsRun_of_hold {s : State} (h : s.tamper.hold = true) : unitsRun s = false := by simp [unitsRun, enginesRun, h]

/-- What the response of a running block has done when its events are raised. -/
theorem tamperStop_spec {s t : State} (h : s.tamper.hold = true) (e : tamperStop s = t) :
    t.tamper = s.tamper ∧ t.keys = Keystone.reset ∧ t.ent.dead = true ∧ t.ent.key = [] ∧ (∀ i, t.idleSpan i)
      ∧ (∀ f, (s.ferry f).agr.aground = false → (t.ferry f).halt = .halted)
      ∧ (∀ i a, pontoonBase i + 0x600000 ≤ a → a < pontoonBase i + 0x800000 → memGet t.mem a = 0)
      ∧ (s.via.st ≠ .unpaired → t.via.st = .broken) := by
  have hb : (cutJobs (haltAll s)).beyondJobs = s.beyondJobs := (beyondJobs_cutJobs _).trans (beyondJobs_haltAll s)
  generalize hc : cutJobs (haltAll s) = c at hb
  have ht : c.tamper = s.tamper := (congrArg State.tamper hb :)
  have hv : c.via.st = s.via.st := (congrArg (·.via.st) hb :)
  have hr : unitsRun (haltAll s) = false := (unitsRun_of_beyondJobs (beyondJobs_haltAll s)).trans (unitsRun_of_hold h)
  obtain ⟨htamper, hkeys, hent, hvia, hspans, hferries⟩ := beyondMem_parts (beyondMem_tamperWipe (viaStop c))
  rw [tamperStop, hc] at e
  subst e
  refine ⟨(htamper.trans (tamper_viaStop c)).trans ht, hkeys, congrArg Entropy.dead hent, congrArg Entropy.key hent, fun i => ?_,
    fun f hf => ?_, fun i a hl hh => clearSecure_zero _ i hl hh, fun hp => ?_⟩
  · have hi := hc ▸ cutJobs_idle hr i
    unfold State.idleSpan State.span at hi ⊢
    rwa [hspans.trans (spans_viaStop c)]
  · have hh := haltAll_halts s f hf
    unfold State.ferry at hh ⊢
    rwa [hferries.trans (ferries_viaStop c), ← hc, cutJobs_ferries hr]
  · rw [hvia]
    exact viaStop_broken c (hv ▸ hp)

/-- The first cause (R461, R463). -/
theorem tamper_first {s t : State} {c : Nat} {mark : Tamper → Tamper} (h : s.tamper.hold = false) (e : tamper s c mark = t) :
    t.tamper.hold = true ∧ t.tamper.time = s.time.count ∧ t.tamper.lines = (mark s.tamper).lines
      ∧ t.tamper.keyin = (mark s.tamper).keyin
      ∧ (s.power.st = .underWay ∨ s.power.st = .holding → (∀ n, (t.slot n).st = .empty) ∧ t.ent.dead = true ∧ t.ent.key = []
          ∧ (∀ i e, ((t.span i).unit e).jobs = []) ∧ (∀ f, (s.ferry f).agr.aground = false → (t.ferry f).halt = .halted)
          ∧ (∀ i a, pontoonBase i + 0x600000 ≤ a → a < pontoonBase i + 0x800000 → memGet t.mem a = 0)
          ∧ (s.via.st ≠ .unpaired → t.via.st = .broken)) := by
  rw [tamper_cases c mark h] at e
  split at e
  · next hl =>
    subst e
    exact ⟨rfl, rfl, rfl, rfl, fun hp => by simp [hl] at hp⟩
  · split at e
    · next hm =>
      obtain ⟨ht, -⟩ := beyondMem_parts (beyondMem_tamperWipe
        { s.tamperHeld mark with tamper := { (s.tamperHeld mark).tamper with owed := some c } })
      rw [← e, ht]
      exact ⟨rfl, rfl, rfl, rfl, fun hp => by simp [hm] at hp⟩
    · generalize hu : tamperStop (s.tamperHeld mark) = u at e
      obtain ⟨ht, hkeys, hdead, hkey, hidle, hhalt, hmem, hvia⟩ := tamperStop_spec rfl hu
      obtain ⟨⟨⟨-, -, -, -, qtamper, -, -, qmem, -, -, qspans, -, qkeys, qent, qvia, -⟩, -⟩, -⟩ := e ▸ quietly_tamperEvents c u
      rw [qtamper, ht, qent, qvia, qmem]
      refine ⟨rfl, rfl, rfl, rfl, fun _ => ⟨fun n => ?_, hdead, hkey, fun i => ?_, fun f hf => ?_, hmem, hvia⟩⟩
      · rw [State.slot, qkeys, hkeys]
        rfl
      · have hi := hidle i
        unfold State.idleSpan State.span at hi
        unfold State.span
        rwa [qspans]
      · exact e ▸ haltsKept_tamperEvents f c u (hhalt f hf)

/-- Every cause is the tamper response with a code of its own and the cause's mark. -/
theorem exec_tamper_cause (s : State) (ln : Byte) :
    ∀ p ∈ [(Instr.tamperIn ln, fun (x : Tamper) => { x with lines := x.lines ||| ln }),
        (.dualRailInvalid false, fun x => { x with dualrail := true }), (.dualRailInvalid true, fun x => { x with keyin := true }),
        (.keyPathTimeout false, fun x => { x with timeout := true }), (.keyPathTimeout true, fun x => { x with keyin := true })],
      (p.1 = .tamperIn ln → ln ≠ 0) → ∃ c, exec p.1 s = .next (tamper s c p.2) := by
  simp only [List.forall_mem_cons, List.not_mem_nil, false_imp_iff, implies_true, and_true]
  exact ⟨fun h => ⟨_, if_neg (h trivial)⟩, fun _ => ⟨8, rfl⟩, fun _ => ⟨10, rfl⟩, fun _ => ⟨9, rfl⟩, fun _ => ⟨10, rfl⟩⟩

/-- Settles O55, clause by clause; the work of cut-off jobs enters through `beyondJobs_cutJobs` and the ticks through
`beyondTicks_passTicks`. -/
theorem lifeCycleTamperTimebase : Obligations.LifeCycleTamperTimebase := by
  intro s moored
  refine ⟨fun t l hp => ⟨lifeCycleChange_wakes s t l hp, fun hm => ⟨lifeCycleChange_illegal s t l hp hm, lifeCycleChange_legal s t l hp hm⟩⟩,
    fun h => ⟨fun r => ?_, ?_⟩, fun j a v rest r h => ?_, fun k => ⟨fun h => ?_, keyInTransfer_takes_kp s k⟩, fun h => ?_,
    keyInTimeout_gives_up s, fun ln p hp hln => ?_, rfl,
    fun v => ⟨fun h => ?_, timebaseLoad_takes_armed s v⟩, fun h => ?_, rfl, fun h => ?_, timebaseLost_ends_slack s⟩
  · show execOtpAck r s = _
    simp [execOtpAck, h]
  · show execOtpTimeout s = _
    simp [execOtpTimeout, h]
  · refine ⟨otpAck_settles h, fun hr => ?_, fun ht => ?_⟩
    · obtain ⟨u, hu, he⟩ := otpAck_fails h hr
      exact ⟨_, he, hu ▸ otpFail_spec u j⟩
    · obtain ⟨u, hu, he⟩ := otpTimeout_fails h ht
      exact ⟨_, he, hu ▸ otpFail_spec u j⟩
  · show execKeyInTransfer k s = _
    rcases h with h | h <;> simp [execKeyInTransfer, h]
  · show execKeyInTimeout s = _
    simp [execKeyInTimeout, h]
  · obtain ⟨c, he⟩ := exec_tamper_cause s ln p hp hln
    exact ⟨fun h => he.trans (congrArg _ (tamper_again c p.2 h)), fun h => ⟨_, he, tamper_first h rfl⟩⟩
  · exact congrArg _ (if_pos h)
  · show execTimebaseLoad s = _
    simp [execTimebaseLoad, h]
  · show execTimebaseLost s = _
    simp [execTimebaseLost, h]

end Sys2Proof.Machine

namespace Sys2Proof.Machine
open Sys2Proof.Safety

/-! ### What `n` ticks do to the watchdog, the timer and the gate -/

/-- Ticks change of a context's watchdog only what is left, the expiry and its time. -/
theorem wdogTicks_keeps (n : Nat) (now : W64) (c : Ctx) :
    wdogTicks n now c = { c with wdogRem := (wdogTicks n now c).wdogRem, wdogPend := (wdogTicks n now c).wdogPend,
                                 wdogAt := (wdogTicks n now c).wdogAt } := by
  unfold wdogTicks
  split
  · rfl
  · split <;> rfl

theorem wdogTicks_expires {n : Nat} (now : W64) {c : Ctx} (hl : c.wdogLim ≠ 0) (hp : c.wdogPend = false) (hn : c.wdogRem.toNat ≤ n) :
    (wdogTicks n now c).wdogPend = true := by
  rw [wdogTicks, if_neg (by simp only [hl, hp, Bool.false_eq_true, or_self, not_false_eq_true]), if_neg (Nat.not_lt.mpr hn)]

theorem wdogTicks_runs {n : Nat} (now : W64) {c : Ctx} (hl : c.wdogLim ≠ 0) (hp : c.wdogPend = false) (hn : n < c.wdogRem.toNat) :
    (wdogTicks n now c).wdogPend = false ∧ (wdogTicks n now c).wdogRem.toNat = c.wdogRem.toNat - n := by
  rw [wdogTicks, if_neg (by simp only [hl, hp, Bool.false_eq_true, or_self, not_false_eq_true]), if_pos hn]
  exact ⟨hp, Nat.mod_eq_of_lt (by omega)⟩

/-- The timer touches INT_PEND and its own mark only. -/
theorem timerAt_keeps (now : W64) (c : Ctx) :
    timerAt now c = { c with intPend := (timerAt now c).intPend, timerArmed := (timerAt now c).timerArmed } := by
  unfold timerAt
  split <;> rfl

theorem timerAt_fires {now : W64} {c : Ctx} (ha : c.timerArmed = true) (hz : c.timerCmp ≠ 0) (hn : c.timerCmp.toNat ≤ now.toNat) :
    (timerAt now c).intPend = c.intPend ||| 1 ∧ (timerAt now c).timerArmed = false := by
  rw [timerAt, if_pos ⟨ha, hz, hn⟩]
  exact ⟨rfl, rfl⟩

theorem timerAt_keeps_wdog (now : W64) (c : Ctx) :
    (timerAt now c).wdogLim = c.wdogLim ∧ (timerAt now c).wdogPend = c.wdogPend ∧ (timerAt now c).wdogRem = c.wdogRem := by
  rw [timerAt_keeps]
  exact ⟨rfl, rfl, rfl⟩

theorem gateTicks_reaches_limit {n lim : Nat} {g : GateSave} (hr : g.raised = false) (hn : lim ≤ g.ticks + n) :
    (gateTicks n lim g).due = true ∧ (gateTicks n lim g).raised = true := by
  simp [gateTicks, hr, Nat.not_lt.mpr hn]

theorem gateTicks_of_raised {n lim : Nat} {g : GateSave} (hr : g.raised = true) :
    gateTicks n lim g = { g with ticks := g.ticks + n } :=
  if_pos hr

/-! ### The parts of a Berth's ticks -/

/-- Counting a Berth's ticks is counting on its behalf. -/
theorem counted_countTicks (s : State) (b : BerthNo) (n : Nat) : counted s (countTicks s b n) b := by
  unfold countTicks
  extract_lets u v k0 k1 k2 v0 v1 v2
  have hu : counted s u b := counted_countBerth ..
  have hv : counted s v b := by
    unfold v
    split
    · exact counted_trans hu (counted_countBerth ..)
    · exact hu
  have drawn : ∀ w : State, counted w w.drawn b := fun w => counted_of_quietly b (quietly_drawn w)
  split
  · refine counted_trans hv ?_
    split
    · exact counted_countBerth ..
    · exact counted_trans (drawn _) <| counted_trans (drawn _) <| counted_trans (drawn _) <|
        counted_trans (counted_countBerth ..) <| counted_trans (counted_countBerth ..) <|
        counted_trans (counted_countBerth ..) (counted_countBerth ..)
  · exact hv

/-- The context of Berth `b` after `n` ticks, but for its tick counters and slack water. -/
def tickedCtx (n : Nat) (s : State) (b : BerthNo) : Ctx :=
  let c := timerAt s.time.count (s.ctx b)
  let stopped := s.power.st != .underWay
  let x := s.berth b
  if !stopped && !onHalted s x && (x.st == .ready || x.st == .running) then wdogTicks n s.time.count c else c

theorem tickedCtx_cases (n : Nat) (s : State) (b : BerthNo) :
    tickedCtx n s b = wdogTicks n s.time.count (timerAt s.time.count (s.ctx b)) ∨ tickedCtx n s b = timerAt s.time.count (s.ctx b) := by
  unfold tickedCtx
  dsimp only
  split
  · exact .inl rfl
  · exact .inr rfl

theorem tickedCtx_keeps (n : Nat) (s : State) (b : BerthNo) : ∃ i a r p w,
    tickedCtx n s b = { s.ctx b with intPend := i, timerArmed := a, wdogRem := r, wdogPend := p, wdogAt := w } := by
  rcases tickedCtx_cases n s b with h | h
  · rw [h, wdogTicks_keeps, timerAt_keeps]
    exact ⟨_, _, _, _, _, rfl⟩
  · rw [h, timerAt_keeps]
    exact ⟨_, _, _, _, _, rfl⟩

theorem tickedCtx_timer (n : Nat) (s : State) (b : BerthNo) :
    (tickedCtx n s b).intPend = (timerAt s.time.count (s.ctx b)).intPend
      ∧ (tickedCtx n s b).timerArmed = (timerAt s.time.count (s.ctx b)).timerArmed := by
  rcases tickedCtx_cases n s b with h | h
  · rw [h, wdogTicks_keeps]
    exact ⟨rfl, rfl⟩
  · rw [h]
    exact ⟨rfl, rfl⟩

theorem tickedCtx_of_running {n : Nat} {s : State} {b : BerthNo} (hr : (s.berth b).st = .running)
    (hh : onHalted s (s.berth b) = false) (hp : s.power.st = .underWay) :
    tickedCtx n s b = wdogTicks n s.time.count (timerAt s.time.count (s.ctx b)) := by
  simp [tickedCtx, hr, hh, hp]

/-- Berth `b` after `n` ticks, but for its tick counters and slack water. -/
def tickedBerth (n : Nat) (s : State) (b : BerthNo) : Berth :=
  let x := s.berth b
  let held := onHalted s x
  let stopped := s.power.st != .underWay
  { x with
    ctx := tickedCtx n s b
    quantum := if x.st == .running && !held && !stopped then x.quantum + n else x.quantum
    gate := if held || stopped then x.gate else x.gate.map (gateTicks n (gateLimit s b)) }

/-- Slack water of Berth `b` while `n` ticks pass (R256). -/
def slackTicks (n : Nat) (s : State) (b : BerthNo) : State :=
  let c := s.ctx b
  if n < c.slackRem then s.setCtx b { c with slackRem := c.slackRem - n } else slackExpire s b

/-- Ticks at a Berth: its record moves on, then its tick counters count, then slack water runs. -/
theorem berthTicks_eq (n : Nat) (s : State) (b : BerthNo) : ∃ u, counted (s.setBerth b (tickedBerth n s b)) u b
    ∧ berthTicks n s b =
      if (u.ctx b).slack && !onHalted s (s.berth b) && (s.berth b).st == .running then slackTicks n u b else u := by
  let v := s.setBerth b (tickedBerth n s b)
  let u := if (s.berth b).st == .running && !onHalted s (s.berth b) then countTicks v b n else v
  refine ⟨u, ?_, ?_⟩
  · unfold u
    split
    · exact counted_countTicks ..
    · exact counted_refl ..
  · rfl

/-! ### Slack water -/

theorem slackExpire_of_slack {s : State} {b : BerthNo} (h : (s.ctx b).slack = true) : slackExpire s b =
    (s.setCtx b { s.ctx b with slack := false, slackRem := 0, slackMark := true }).modSpan (berthSpan b) fun x =>
      x.modWorld (s.ctx b).north fun w => { w with slackStat := BitVec.ofNat 32 (satAdd 32 w.slackStat.toNat 1) } :=
  if_pos h

/-- Slack water is its own three fields of its Berth's context, and the Span's count of expired windows. -/
theorem slackTicks_keeps (n : Nat) (s : State) (b : BerthNo) :
    (∃ w r m, (slackTicks n s b).berth b = { s.berth b with ctx := { s.ctx b with slack := w, slackRem := r, slackMark := m } })
    ∧ ∀ y, y ≠ b → (slackTicks n s b).berth y = s.berth y := by
  have set : ∀ c : Ctx, (s.setCtx b c).berth b = { s.berth b with ctx := c } := fun c => State.berth_setBerth ..
  unfold slackTicks
  dsimp only
  split
  · exact ⟨⟨_, _, _, set _⟩, fun y hy => State.berth_setBerth_ne _ _ hy⟩
  · unfold slackExpire
    dsimp only
    split
    · exact ⟨⟨_, _, _, set _⟩, fun y hy => State.berth_setBerth_ne _ _ hy⟩
    · exact ⟨⟨_, _, _, rfl⟩, fun _ _ => rfl⟩

theorem world_modWorld (x : Span) (north : Bool) (h : WorldRegs → WorldRegs) : (x.modWorld north h).world north = h (x.world north) := by
  cases north <;> rfl

theorem toNat_satAdd_one (v : W32) : (BitVec.ofNat 32 (satAdd 32 v.toNat 1)).toNat = min (2 ^ 32 - 1) (v.toNat + 1) := by
  have := v.isLt
  simp only [BitVec.toNat_ofNat, satAdd]
  split <;> omega

theorem slackTicks_closes {n : Nat} {s : State} {b : BerthNo} (h : (s.ctx b).slack = true) (hn : (s.ctx b).slackRem ≤ n) :
    ((slackTicks n s b).ctx b).slack = false ∧ ((slackTicks n s b).ctx b).slackMark = true
    ∧ (((slackTicks n s b).span (berthSpan b)).world (s.ctx b).north).slackStat.toNat =
      min (2 ^ 32 - 1) (((s.span (berthSpan b)).world (s.ctx b).north).slackStat.toNat + 1) := by
  rw [slackTicks, if_neg (Nat.not_lt.mpr hn), slackExpire_of_slack h, State.ctx_modSpan, State.ctx_setCtx, State.span_modSpan,
    State.span_setCtx, world_modWorld]
  exact ⟨rfl, rfl, toNat_satAdd_one _⟩

theorem slackTicks_runs {n : Nat} {s : State} {b : BerthNo} (h : (s.ctx b).slack = true) (hn : n < (s.ctx b).slackRem) :
    ((slackTicks n s b).ctx b).slack = true ∧ ((slackTicks n s b).ctx b).slackRem = (s.ctx b).slackRem - n := by
  rw [slackTicks, if_pos hn, State.ctx_setCtx]
  exact ⟨h, rfl⟩

/-! ### A Berth after its ticks -/

theorem berthTicks_others (n : Nat) (s : State) (b : BerthNo) {y : BerthNo} (hy : y ≠ b) :
    (berthTicks n s b).berth y = s.berth y := by
  obtain ⟨u, ⟨-, hu, -⟩, e⟩ := berthTicks_eq n s b
  have hv : u.berth y = s.berth y := (hu y hy).trans (State.berth_setBerth_ne _ _ hy)
  rw [e]
  split
  · exact ((slackTicks_keeps n u b).2 y hy).trans hv
  · exact hv

/-- What counting and slack water may still change in the record: counters, sample registers, the sample bit of INT_PEND, and slack
water itself. -/
theorem berthTicks_berth (n : Nat) (s : State) (b : BerthNo) : ∃ cfg val i smp w r m,
    (i = (tickedCtx n s b).intPend ∨ i = (tickedCtx n s b).intPend ||| 2)
    ∧ (berthTicks n s b).berth b = { tickedBerth n s b with
        ctx := { tickedCtx n s b with
          cntCfg := cfg, cntVal := val, intPend := i, smp := smp, slack := w, slackRem := r, slackMark := m } } := by
  obtain ⟨u, ⟨-, -, hb, hc, hi⟩, e⟩ := berthTicks_eq n s b
  have hx : ((s.setBerth b (tickedBerth n s b)).berth b) = tickedBerth n s b := State.berth_setBerth ..
  have hy : ((s.setBerth b (tickedBerth n s b)).ctx b) = tickedCtx n s b := congrArg Berth.ctx hx
  rw [hx] at hb
  rw [hy] at hc hi
  rw [e]
  split
  · obtain ⟨⟨w, r, m, h⟩, -⟩ := slackTicks_keeps n u b
    rw [h, hb, hc]
    exact ⟨_, _, _, _, _, _, _, hi, rfl⟩
  · rw [hb, hc]
    exact ⟨_, _, _, _, _, _, _, hi, rfl⟩

/-- In slack water a running Berth's ticks end with those of slack water, from the window as it was. -/
theorem berthTicks_of_slack {n : Nat} {s : State} {b : BerthNo} (hr : (s.berth b).st = .running)
    (hh : onHalted s (s.berth b) = false) (h : (s.ctx b).slack = true) : ∃ u, berthTicks n s b = slackTicks n u b
      ∧ (u.ctx b).slack = true ∧ (u.ctx b).slackRem = (s.ctx b).slackRem ∧ (u.ctx b).north = (s.ctx b).north
      ∧ u.span (berthSpan b) = s.span (berthSpan b) := by
  obtain ⟨u, ⟨⟨⟨-, -, -, -, -, -, -, -, -, -, hspans, -⟩, -⟩, -, -, hc, -⟩, e⟩ := berthTicks_eq n s b
  obtain ⟨i, a, r, p, w, hk⟩ := tickedCtx_keeps n s b
  have hy : ((s.setBerth b (tickedBerth n s b)).ctx b) = tickedCtx n s b := congrArg Berth.ctx (State.berth_setBerth ..)
  rw [hy, hk] at hc
  have hs : (u.ctx b).slack = true := (congrArg Ctx.slack hc).trans h
  refine ⟨u, ?_, hs, (congrArg Ctx.slackRem hc :), (congrArg Ctx.north hc :), congrArg (fun t => Table.get _ t _) hspans⟩
  rw [e, if_pos (by simp [hs, hh, hr])]

theorem berthTicks_closes_slack {n : Nat} {s : State} {b : BerthNo} (hr : (s.berth b).st = .running)
    (hh : onHalted s (s.berth b) = false) (h : (s.ctx b).slack = true) (hn : (s.ctx b).slackRem ≤ n) :
    ((berthTicks n s b).ctx b).slack = false ∧ ((berthTicks n s b).ctx b).slackMark = true
    ∧ (((berthTicks n s b).span (berthSpan b)).world (s.ctx b).north).slackStat.toNat =
      min (2 ^ 32 - 1) (((s.span (berthSpan b)).world (s.ctx b).north).slackStat.toNat + 1) := by
  obtain ⟨u, e, hs, hrem, hnorth, hspan⟩ := berthTicks_of_slack (n := n) hr hh h
  rw [e, ← hnorth, ← hspan]
  exact slackTicks_closes hs (hrem ▸ hn)

theorem berthTicks_runs_slack {n : Nat} {s : State} {b : BerthNo} (hr : (s.berth b).st = .running)
    (hh : onHalted s (s.berth b) = false) (h : (s.ctx b).slack = true) (hn : n < (s.ctx b).slackRem) :
    ((berthTicks n s b).ctx b).slack = true ∧ ((berthTicks n s b).ctx b).slackRem = (s.ctx b).slackRem - n := by
  obtain ⟨u, e, hs, hrem, -, -⟩ := berthTicks_of_slack (n := n) hr hh h
  rw [e, ← hrem]
  exact slackTicks_runs hs (hrem ▸ hn)

theorem berthTicks_wdog {n : Nat} {s : State} {b : BerthNo} (hr : (s.berth b).st = .running)
    (hh : onHalted s (s.berth b) = false) (hp : s.power.st = .underWay) :
    ((berthTicks n s b).ctx b).wdogPend = (wdogTicks n s.time.count (timerAt s.time.count (s.ctx b))).wdogPend
      ∧ ((berthTicks n s b).ctx b).wdogRem = (wdogTicks n s.time.count (timerAt s.time.count (s.ctx b))).wdogRem := by
  obtain ⟨_, _, _, _, _, _, _, -, e⟩ := berthTicks_berth n s b
  rw [State.ctx, e, tickedCtx_of_running hr hh hp]
  exact ⟨rfl, rfl⟩

theorem berthTicks_expires_wdog {n : Nat} {s : State} {b : BerthNo} (hr : (s.berth b).st = .running)
    (hh : onHalted s (s.berth b) = false) (hp : s.power.st = .underWay) (hl : (s.ctx b).wdogLim ≠ 0)
    (hw : (s.ctx b).wdogPend = false) (hn : (s.ctx b).wdogRem.toNat ≤ n) : ((berthTicks n s b).ctx b).wdogPend = true := by
  obtain ⟨elim, epend, erem⟩ := timerAt_keeps_wdog s.time.count (s.ctx b)
  rw [(berthTicks_wdog hr hh hp).1]
  exact wdogTicks_expires _ (elim ▸ hl) (epend.trans hw) (erem ▸ hn)

theorem berthTicks_runs_wdog {n : Nat} {s : State} {b : BerthNo} (hr : (s.berth b).st = .running)
    (hh : onHalted s (s.berth b) = false) (hp : s.power.st = .underWay) (hl : (s.ctx b).wdogLim ≠ 0)
    (hw : (s.ctx b).wdogPend = false) (hn : n < (s.ctx b).wdogRem.toNat) : ((berthTicks n s b).ctx b).wdogPend = false
      ∧ ((berthTicks n s b).ctx b).wdogRem.toNat = (s.ctx b).wdogRem.toNat - n := by
  obtain ⟨elim, epend, erem⟩ := timerAt_keeps_wdog s.time.count (s.ctx b)
  obtain ⟨tpend, trem⟩ := berthTicks_wdog (n := n) hr hh hp
  rw [tpend, trem, ← erem]
  exact wdogTicks_runs _ (elim ▸ hl) (epend.trans hw) (erem ▸ hn)

theorem berthTicks_gate {n : Nat} {s : State} {b : BerthNo} (hh : onHalted s (s.berth b) = false) (hp : s.power.st = .underWay)
    {g : GateSave} (hg : (s.berth b).gate = some g) : ((berthTicks n s b).berth b).gate = some (gateTicks n (gateLimit s b) g) := by
  obtain ⟨_, _, _, _, _, _, _, -, e⟩ := berthTicks_berth n s b
  rw [e]
  simp [tickedBerth, hh, hp, hg]

theorem berthTicks_timer {n : Nat} {s : State} {b : BerthNo} (ha : (s.ctx b).timerArmed = true) (hz : (s.ctx b).timerCmp ≠ 0)
    (hn : (s.ctx b).timerCmp.toNat ≤ s.time.count.toNat) :
    ((berthTicks n s b).ctx b).intPend.getLsbD 0 = true ∧ ((berthTicks n s b).ctx b).timerArmed = false := by
  obtain ⟨_, _, i, _, _, _, _, hi, e⟩ := berthTicks_berth n s b
  obtain ⟨hpend, harmed⟩ := tickedCtx_timer n s b
  obtain ⟨hfire, hoff⟩ := timerAt_fires ha hz hn
  rw [State.ctx, e]
  refine ⟨?_, harmed.trans hoff⟩
  show i.getLsbD 0 = true
  rcases hi with rfl | rfl <;> simp [hpend, hfire]

/-- Settles O40: the rows are their own cases, and what `n` ticks do follows the parts of `berthTicks_eq`. -/
theorem ticksRunOut : Obligations.TicksRunOut := by
  intro s b n x c lim t
  refine ⟨fun h => ?_, fun hl hp => ?_, fun g hg h => ?_, fun ha hz hn => ?_, fun hr hh hp => ⟨fun h hn => ?_, fun h hn => ?_,
    fun hl hw hn => ?_, fun hl hw hn => ?_, fun g hg h hn => ?_, fun g hg h => ?_⟩, fun ha hz hn => ?_, fun y hy => ?_, ?_⟩
  · exact congrArg _ (if_pos h)
  · exact congrArg _ (if_pos ⟨hl, by simp [c, hp]⟩)
  · show execGateLimit b s = _
    simp [execGateLimit, x, hg, h, lim, c, gateLimit]
  · exact congrArg _ ((if_pos ⟨ha, hz⟩).trans (if_neg (Nat.not_le.mpr hn)))
  · exact berthTicks_closes_slack hr hh h hn
  · exact berthTicks_runs_slack hr hh h hn
  · exact berthTicks_expires_wdog hr hh hp hl hw hn
  · exact berthTicks_runs_wdog hr hh hp hl hw hn
  · exact ⟨_, berthTicks_gate hh hp hg, gateTicks_reaches_limit h hn⟩
  · exact ⟨_, berthTicks_gate hh hp hg, by rw [gateTicks_of_raised h]; exact ⟨rfl, rfl⟩⟩
  · exact berthTicks_timer ha hz hn
  · exact berthTicks_others n s b hy
  · exact (congrArg State.mem (beyondTicks_berthTicks n s b) :)

end Sys2Proof.Machine
